-- ==== Sys2Proof/Word.lean ====
section
/-! DEFINITION. The words of the machine and the container its sparse state is held in. -/

namespace Sys2Proof

/-- A byte of memory. -/
abbrev Byte := BitVec 8

/-- An instruction word (R72). -/
abbrev W32 := BitVec 32

/-- The contents of a scalar or state register (R43, R49). -/
abbrev W64 := BitVec 64

/-- A sparse table: the keys rise strictly, and a key that is not listed has the table's default.
`Sys2Proof.Machine.Tab.get` and `Sys2Proof.Machine.Tab.put` are its only readers and writers. -/
abbrev Tab (α : Type) := List (Nat × α)

/-- A control thread of the package: 4 × (package core number, R11) + thread (0–3). -/
abbrev ThreadKey := Nat

end Sys2Proof
end

