-- ==== Sys2Proof/Config.lean ====
section
/-! DEFINITION. What the part fixes, and the values the manual leaves open. An opaque constant here is a free value: nothing
can be proved of it, so a claim about a state that holds one is true whatever it is. -/

namespace Sys2Proof.Config

/-- Cores of one compute die (R1, R11). -/
def coresPerDie : Nat := 384
/-- Cores of the package (R1). -/
def cores : Nat := 1536
/-- Compute dies (R1). -/
def dies : Nat := 4
/-- Bytes of HBM behind the package's 64 slices of 8 GiB (R12). -/
def hbmBytes : Nat := 2 ^ 39
/-- Bytes of one core's scratchpad (R1). -/
def spadBytes : Nat := 1572864
/-- Bits of one vector register: 4,096 bytes (R43). -/
abbrev vregBits : Nat := 32768

/-- A fresh free value: `Machine.State.freeCtr` counts the uses. -/
opaque freeValue : Nat → W64
/-- A SHA-384 measurement (R20, R344): the manual names the algorithm and does not state it, so it is not interpreted. -/
opaque sha384 : List Byte → List Byte
/-- Whether an Ed25519 signature of a firmware image verifies (R20); not interpreted, as `sha384`. -/
opaque ed25519Verifies : List Byte → List Byte → Bool
/-- Whether an ML-DSA-65 signature of a firmware image verifies (R20); not interpreted, as `sha384`. -/
opaque mldsa65Verifies : List Byte → List Byte → Bool
/-- The signature blocks of an attestation record (R344); not interpreted, as `sha384`. -/
opaque ed25519Sign : List Byte → List Byte
/-- As `ed25519Sign`, for ML-DSA-65. -/
opaque mldsa65Sign : List Byte → List Byte

/-- Whether the 2,400 ÷ f quanta of a cycle of a core's arbiter, no whole number of 1/256 at a boost step, are rounded up, by the step,
whether the string's lanes run at half clock, and the fraction carried (R309, R335): the manual gives no rounding. -/
opaque quantumUp : Nat → Bool → Nat → Bool

/-- The router outputs of a die that a message passes from one unit of the package to another (R16): the manual gives no topology. -/
opaque routerOutputs : Nat → Nat → Nat → List Nat
/-- The Glasal port, 0–11, by which a message of a key reaches another package, or arrives from it (R348): the manual gives no routes. -/
opaque glasalPort : Nat → Bool → Nat

/-- The bytes of a function's partition setup that a measurement covers (R344); the manual gives no layout, so it is not
interpreted. -/
opaque setupBytes : List Nat → List Byte

end Sys2Proof.Config
end

