-- ==== Sys2Proof/Machine/Float.lean ====
section
/-! DEFINITION. Element tags (R45), number formats bit by bit (R62, R63), and arithmetic with one rounding (R61, R64, R133–R138,
R67, R68, R70). Values are formed exactly as integers and narrowed once at the end. -/

namespace Sys2Proof.Machine

/-- The element tags (R45). -/
inductive ETag where
  | n8 | n16 | n32 | n64 | i8 | i16 | i32 | i64
  | fp16 | bf16 | fp32 | fp64 | f8a | f8b | k4 | sf8a | sf8b | sk4
deriving DecidableEq, Repr

/-- The tag code of R45. -/
def ETag.code : ETag → Nat
  | .n8 => 0x00 | .n16 => 0x01 | .n32 => 0x02 | .n64 => 0x03
  | .i8 => 0x04 | .i16 => 0x05 | .i32 => 0x06 | .i64 => 0x07
  | .fp16 => 0x10 | .bf16 => 0x11 | .fp32 => 0x12 | .fp64 => 0x13
  | .f8a => 0x14 | .f8b => 0x15 | .k4 => 0x16 | .sf8a => 0x18 | .sf8b => 0x19 | .sk4 => 0x1A

/-- The tag of a code; none for a reserved code (R45). -/
def tagOfCode : Nat → Option ETag
  | 0x00 => some .n8 | 0x01 => some .n16 | 0x02 => some .n32 | 0x03 => some .n64
  | 0x04 => some .i8 | 0x05 => some .i16 | 0x06 => some .i32 | 0x07 => some .i64
  | 0x10 => some .fp16 | 0x11 => some .bf16 | 0x12 => some .fp32 | 0x13 => some .fp64
  | 0x14 => some .f8a | 0x15 => some .f8b | 0x16 => some .k4
  | 0x18 => some .sf8a | 0x19 => some .sf8b | 0x1A => some .sk4
  | _ => none

/-- Element size in bits: 4 for K4, one block unit for a scaled tag (R45). -/
def ETag.bits : ETag → Nat
  | .n8 | .i8 | .f8a | .f8b => 8
  | .n16 | .i16 | .fp16 | .bf16 => 16
  | .n32 | .i32 | .fp32 => 32
  | .n64 | .i64 | .fp64 => 64
  | .k4 => 4
  | .sf8a | .sf8b | .sk4 => 512

/-- I tags: two's complement (R61). -/
def ETag.isI : ETag → Bool
  | .i8 | .i16 | .i32 | .i64 => true
  | _ => false
/-- N tags: unsigned (R61). -/
def ETag.isN : ETag → Bool
  | .n8 | .n16 | .n32 | .n64 => true
  | _ => false
/-- Integer tags. -/
def ETag.isInt (t : ETag) : Bool := t.isI || t.isN
/-- The four float tags that vector arithmetic accepts (R132). -/
def ETag.isIeee : ETag → Bool
  | .fp16 | .bf16 | .fp32 | .fp64 => true
  | _ => false
/-- The scaled block tags (R66). -/
def ETag.isScaled : ETag → Bool
  | .sf8a | .sf8b | .sk4 => true
  | _ => false
/-- Unscaled float tags. -/
def ETag.isFloat (t : ETag) : Bool := t.isIeee || t == .f8a || t == .f8b

/-! ## Classes, in the order of FSTAT.FLAGS (R56), as a set of bits -/

def flInv : Nat := 1
def flDz : Nat := 2
def flOf : Nat := 4
def flUf : Nat := 8
def flNx : Nat := 16
def flIof : Nat := 32
def flSat : Nat := 64

/-! ## Integer elements (R61, R133) -/

/-- The value of n-bit pattern `x`, read under S when `signed` (R133). -/
def readInt (signed : Bool) (n x : Nat) : Int :=
  let u := x % 2 ^ n
  if signed && u / 2 ^ (n - 1) == 1 then (u : Int) - (2 ^ n : Nat) else u

/-- The n-bit pattern of an integer, modulo 2^n. -/
def wrapInt (n : Nat) (v : Int) : Nat := (v % ((2 ^ n : Nat) : Int)).toNat

/-- Least value of an integer tag of n bits. -/
def loInt (signed : Bool) (n : Nat) : Int := if signed then -((2 ^ (n - 1) : Nat) : Int) else 0
/-- Greatest value of an integer tag of n bits. -/
def hiInt (signed : Bool) (n : Nat) : Int := if signed then ((2 ^ (n - 1) : Nat) : Int) - 1 else ((2 ^ n : Nat) : Int) - 1

/-- Wrap an exact result; integer overflow when it is outside the range (R61). -/
def wrapFlag (signed : Bool) (n : Nat) (v : Int) : Nat × Nat :=
  (wrapInt n v, if v < loInt signed n || hiInt signed n < v then flIof else 0)

/-- Clamp an exact result; saturation when it is clamped (R61). -/
def clampFlag (signed : Bool) (n : Nat) (v : Int) : Nat × Nat :=
  if v < loInt signed n then (wrapInt n (loInt signed n), flSat)
  else if hiInt signed n < v then (wrapInt n (hiInt signed n), flSat)
  else (wrapInt n v, 0)

/-- Quotient and remainder with the special cases of R61, and the class raised. -/
def divInt (signed : Bool) (n a b : Nat) : Nat × Nat × Nat :=
  let x := readInt signed n a; let y := readInt signed n b
  if y == 0 then (2 ^ n - 1, a % 2 ^ n, flDz)
  else if signed && x == loInt true n && y == -1 then (a % 2 ^ n, 0, flIof)
  else (wrapInt n (Int.tdiv x y), wrapInt n (Int.tmod x y), 0)

/-- Leading zero bits of an n-bit pattern; n when it is 0 (R133). -/
def clzNat (n x : Nat) : Nat := if x % 2 ^ n == 0 then n else n - 1 - Nat.log2 (x % 2 ^ n)
/-- Set bits among the low n. -/
def popNat : Nat → Nat → Nat
  | 0, _ => 0
  | n + 1, x => x % 2 + popNat n (x / 2)
/-- Trailing zero bits among the low n; n when they are all 0. -/
def ctzNat : Nat → Nat → Nat
  | 0, _ => 0
  | n + 1, x => if x % 2 == 1 then 0 else 1 + ctzNat n (x / 2)

/-! ## Floating-point formats (R62, R63) -/

/-- A format: exponent bits, fraction bits, bias. -/
structure Fmt where
  eb : Nat
  fb : Nat
  bias : Nat
deriving DecidableEq, Repr

/-- The layout of a float tag (R62); a tag that is not a float is given the layout of FP32 and is never asked for. -/
def ETag.fmt : ETag → Fmt
  | .fp64 => ⟨11, 52, 1023⟩
  | .fp32 => ⟨8, 23, 127⟩
  | .fp16 => ⟨5, 10, 15⟩
  | .bf16 => ⟨8, 7, 127⟩
  | .f8a => ⟨4, 3, 7⟩
  | .f8b => ⟨5, 2, 15⟩
  | _ => ⟨8, 23, 127⟩

/-- The canonical NaN of a float tag (R63). -/
def ETag.qnan : ETag → Nat
  | .fp64 => 0x7FF8000000000000
  | .fp32 => 0x7FC00000
  | .fp16 => 0x7E00
  | .bf16 => 0x7FC0
  | .f8a => 0x7F
  | .f8b => 0x7E
  | _ => 0x7FC00000

/-- Bits of a float tag's pattern. -/
def Fmt.width (f : Fmt) : Nat := 1 + f.eb + f.fb

/-- A decoded float: a finite value is (−1)^neg × m × 2^e. -/
inductive Fp where
  | nan (signalling : Bool)
  | inf (neg : Bool)
  | fin (neg : Bool) (m : Nat) (e : Int)
deriving DecidableEq, Repr

/-- Decodes a pattern (R62, R63); DAZ reads a subnormal of an IEEE tag as zero of its sign (R56, R63). -/
def decFp (t : ETag) (daz : Bool) (x : Nat) : Fp :=
  let f := t.fmt
  let fr := x % 2 ^ f.fb
  let ex := x / 2 ^ f.fb % 2 ^ f.eb
  let neg := x / 2 ^ (f.eb + f.fb) % 2 == 1
  if t == .f8a && ex == 15 && fr == 7 then .nan false
  else if t != .f8a && ex == 2 ^ f.eb - 1 then
    if fr == 0 then .inf neg else .nan (fr / 2 ^ (f.fb - 1) == 0)
  else if ex == 0 then
    if daz && t.isIeee then .fin neg 0 0 else .fin neg fr (1 - (f.bias : Int) - f.fb)
  else .fin neg (fr + 2 ^ f.fb) ((ex : Int) - f.bias - f.fb)

/-- Whether a finite magnitude is 0. -/
def Fp.isZero : Fp → Bool
  | .fin _ m _ => m == 0
  | _ => false
/-- The sign of a value (a NaN has none). -/
def Fp.neg : Fp → Bool
  | .nan _ => false
  | .inf n => n
  | .fin n _ _ => n
/-- The value with its sign inverted. -/
def Fp.flip : Fp → Fp
  | .nan g => .nan g
  | .inf n => .inf (!n)
  | .fin n m e => .fin (!n) m e
/-- A NaN of either kind. -/
def Fp.isNan : Fp → Bool
  | .nan _ => true
  | _ => false
/-- A signalling NaN. -/
def Fp.isSig : Fp → Bool
  | .nan g => g
  | _ => false
/-- An infinity. -/
def Fp.isInf : Fp → Bool
  | .inf _ => true
  | _ => false

/-- The sign bit in place. -/
def signBit (t : ETag) (neg : Bool) : Nat := if neg then 2 ^ (t.fmt.eb + t.fmt.fb) else 0
/-- The pattern of an infinity. -/
def infBits (t : ETag) (neg : Bool) : Nat := signBit t neg + (2 ^ t.fmt.eb - 1) * 2 ^ t.fmt.fb
/-- The pattern of the largest finite value (R62). -/
def maxBits (t : ETag) (neg : Bool) : Nat :=
  signBit t neg + (if t == .f8a then 0x7E else (2 ^ t.fmt.eb - 1) * 2 ^ t.fmt.fb - 1)

/-- Rounding modes, with the codes of FSTAT.RM (R56). -/
inductive Rm where
  | rne | rtz | rup | rdn
deriving DecidableEq, Repr

/-- The code of a mode (R56). -/
def rmCode : Rm → Nat
  | .rne => 0 | .rtz => 1 | .rup => 2 | .rdn => 3
/-- The mode of a code of RM or ARM (R56). -/
def rmOfCode : Nat → Rm
  | 0 => .rne
  | 1 => .rtz
  | 2 => .rup
  | _ => .rdn

/-- m × 2^e (plus a fraction of a unit when `sticky`) in units of 2^q: the rounded count and whether it is inexact. -/
def roundAt (rm : Rm) (neg : Bool) (m : Nat) (e : Int) (sticky : Bool) (q : Int) : Nat × Bool :=
  if q ≤ e then
    let k := m * 2 ^ (e - q).toNat
    (match rm with
      | .rup => if sticky && !neg then k + 1 else k
      | .rdn => if sticky && neg then k + 1 else k
      | _ => k, sticky)
  else
    let sh := (q - e).toNat
    let k := m / 2 ^ sh
    let r := m % 2 ^ sh
    let half := 2 ^ (sh - 1)
    let nx := r != 0 || sticky
    let up := match rm with
      | .rne => decide (half < r) || (r == half && (sticky || k % 2 == 1))
      | .rtz => false
      | .rup => nx && !neg
      | .rdn => nx && neg
    (if up then k + 1 else k, nx)

/-- Exponent of the leading bit of m × 2^e, for m ≠ 0. -/
def leadExp (m : Nat) (e : Int) : Int := (Nat.log2 m : Int) + e

/-- The exponent of the largest finite value's leading bit. -/
def Fmt.emax (t : ETag) : Int :=
  if t == .f8a then 8 else (2 ^ t.fmt.eb : Nat) - 2 - (t.fmt.bias : Int)

/-- One rounding of (−1)^neg × m × 2^e, with overflow, underflow and flushing as R64 and R56 give. -/
def roundFp (t : ETag) (rm : Rm) (ftz neg : Bool) (m : Nat) (e : Int) (sticky : Bool) : Nat × Nat :=
  if m == 0 && !sticky then (signBit t neg, 0) else
  let f := t.fmt
  let emin : Int := 1 - (f.bias : Int)
  let le := leadExp m e
  let q := (if le < emin then emin else le) - f.fb
  let (k0, nx) := roundAt rm neg m e sticky q
  let carry := decide (2 ^ (f.fb + 1) ≤ k0)
  let k := if carry then k0 / 2 else k0
  let q' := if carry then q + 1 else q
  let top := Fmt.emax t - f.fb
  let kmax := if t == .f8a then 2 ^ (f.fb + 1) - 2 else 2 ^ (f.fb + 1) - 1
  if top < q' || (q' == top && decide (kmax < k)) then
    let b := if t == .f8a then maxBits t neg else match rm with
      | .rne => infBits t neg
      | .rtz => maxBits t neg
      | .rup => if neg then maxBits t neg else infBits t neg
      | .rdn => if neg then infBits t neg else maxBits t neg
    (b, flOf ||| flNx)
  else
    let subnormal := decide (k < 2 ^ f.fb)
    -- tininess after rounding: the same digits rounded with an unbounded exponent
    let tiny := decide (le < emin) &&
      !(le == emin - 1 && decide (2 ^ (f.fb + 1) ≤ (roundAt rm neg m e sticky (le - f.fb)).1))
    let fl := (if nx then flNx else 0) ||| (if nx && tiny then flUf else 0)
    if ftz && subnormal && k != 0 then (signBit t neg, flUf ||| flNx)
    else if subnormal then (signBit t neg + k, fl)
    else (signBit t neg + ((q' + f.fb + f.bias).toNat * 2 ^ f.fb + (k - 2 ^ f.fb)), fl)

/-- The pattern of a value in a destination format (R63, R64; R68 for an infinity to F8A). -/
def encFp (t : ETag) (rm : Rm) (ftz : Bool) : Fp → Nat × Nat
  | .nan g => (t.qnan, if g then flInv else 0)
  | .inf n => if t == .f8a then (maxBits t n, flOf) else (infBits t n, 0)
  | .fin n m e => roundFp t rm ftz n m e false

/-- Sum of two finite values, exactly; the sign of an exact zero is IEEE 754's under `rm`. -/
def addFin (rm : Rm) (n1 : Bool) (m1 : Nat) (e1 : Int) (n2 : Bool) (m2 : Nat) (e2 : Int) : Fp :=
  let e := if e1 ≤ e2 then e1 else e2
  let v1 : Int := m1 * 2 ^ (e1 - e).toNat
  let v2 : Int := m2 * 2 ^ (e2 - e).toNat
  let s := (if n1 then -v1 else v1) + (if n2 then -v2 else v2)
  if s == 0 then
    if m1 == 0 && m2 == 0 && n1 == n2 then .fin n1 0 0 else .fin (rm == .rdn) 0 0
  else .fin (decide (s < 0)) s.natAbs e

/-- Exact sum of two values; an invalid sum is a signalling NaN, so that `encFp` raises invalid (R63). -/
def addFp (rm : Rm) : Fp → Fp → Fp
  | .nan g, .nan h => .nan (g || h)
  | .nan g, _ => .nan g
  | _, .nan h => .nan h
  | .inf a, .inf b => if a == b then .inf a else .nan true
  | .inf a, _ => .inf a
  | _, .inf b => .inf b
  | .fin n1 m1 e1, .fin n2 m2 e2 => addFin rm n1 m1 e1 n2 m2 e2

/-- Exact product; 0 × ∞ is invalid (R63). -/
def mulFp : Fp → Fp → Fp
  | .nan g, .nan h => .nan (g || h)
  | .nan g, _ => .nan g
  | _, .nan h => .nan h
  | .inf a, .inf b => .inf (a != b)
  | .inf a, .fin n m _ => if m == 0 then .nan true else .inf (a != n)
  | .fin n m _, .inf b => if m == 0 then .nan true else .inf (n != b)
  | .fin n1 m1 e1, .fin n2 m2 e2 => .fin (n1 != n2) (m1 * m2) (e1 + e2)

/-- Order of two values that are not NaN: −1, 0 or 1; zeros are equal (R138). -/
def cmpFp : Fp → Fp → Int
  | .inf a, .inf b => if a == b then 0 else if a then -1 else 1
  | .inf a, _ => if a then -1 else 1
  | _, .inf b => if b then 1 else -1
  | .fin n1 m1 e1, .fin n2 m2 e2 =>
    let e := if e1 ≤ e2 then e1 else e2
    let v1 : Int := m1 * 2 ^ (e1 - e).toNat
    let v2 : Int := m2 * 2 ^ (e2 - e).toNat
    let x := if n1 then -v1 else v1
    let y := if n2 then -v2 else v2
    if x < y then -1 else if y < x then 1 else 0
  | _, _ => 0

/-- Invalid when an input is signalling. -/
def sigFlag (x y : Fp) : Nat := if x.isSig || y.isSig then flInv else 0

/-- vadd and vsub on a float tag (R134). -/
def fAdd (t : ETag) (rm : Rm) (ftz daz : Bool) (a b : Nat) : Nat × Nat :=
  encFp t rm ftz (addFp rm (decFp t daz a) (decFp t daz b))
def fSub (t : ETag) (rm : Rm) (ftz daz : Bool) (a b : Nat) : Nat × Nat :=
  encFp t rm ftz (addFp rm (decFp t daz a) (decFp t daz b).flip)
/-- vmul on a float tag (R134). -/
def fMul (t : ETag) (rm : Rm) (ftz daz : Bool) (a b : Nat) : Nat × Nat :=
  encFp t rm ftz (mulFp (decFp t daz a) (decFp t daz b))

/-- m1 × 2^e1 ÷ (m2 × 2^e2) to enough bits for one rounding. -/
def divFin (m1 : Nat) (e1 : Int) (m2 : Nat) (e2 : Int) : Nat × Int × Bool :=
  let sh := 130 + Nat.log2 m2
  let n := m1 * 2 ^ sh
  (n / m2, e1 - e2 - sh, n % m2 != 0)

/-- vdiv on a float tag (R134). -/
def fDiv (t : ETag) (rm : Rm) (ftz daz : Bool) (a b : Nat) : Nat × Nat :=
  match decFp t daz a, decFp t daz b with
  | .nan g, y => (t.qnan, if g || y.isSig then flInv else 0)
  | _, .nan h => (t.qnan, if h then flInv else 0)
  | .inf _, .inf _ => (t.qnan, flInv)
  | .inf n, y => (infBits t (n != y.neg), 0)
  | .fin n _ _, .inf k => (signBit t (n != k), 0)
  | .fin n1 m1 e1, .fin n2 m2 e2 =>
    if m2 == 0 then if m1 == 0 then (t.qnan, flInv) else (infBits t (n1 != n2), flDz)
    else if m1 == 0 then (signBit t (n1 != n2), 0)
    else
      let (m, e, st) := divFin m1 e1 m2 e2
      roundFp t rm ftz (n1 != n2) m e st

/-- √n by Newton's method from above: `fuel` halvings of the distance suffice. -/
def sqrtNat (n : Nat) : Nat :=
  let rec go : Nat → Nat → Nat
    | 0, x => x
    | f + 1, x => let y := (x + n / x) / 2; if y < x then go f y else x
  if n == 0 then 0 else go (Nat.log2 n + 10) (2 ^ (Nat.log2 n / 2 + 1))

/-- √(m × 2^e) to enough bits for one rounding, for m ≠ 0. -/
def sqrtFin (m : Nat) (e : Int) : Nat × Int × Bool :=
  let pad : Nat := 140 + (if (e % 2) == 0 then 0 else 1)
  let n := m * 2 ^ pad
  let r := sqrtNat n
  (r, (e - pad) / 2, r * r != n)

/-- vsqrt (R134). -/
def fSqrt (t : ETag) (rm : Rm) (ftz daz : Bool) (a : Nat) : Nat × Nat :=
  match decFp t daz a with
  | .nan g => (t.qnan, if g then flInv else 0)
  | .inf n => if n then (t.qnan, flInv) else (infBits t false, 0)
  | .fin n m e =>
    if m == 0 then (signBit t n, 0) else if n then (t.qnan, flInv)
    else let (r, e', st) := sqrtFin m e; roundFp t rm ftz false r e' st

/-- The fused forms: `np` negates the product, `nd` the addend (R135). -/
def fFma (np nd : Bool) (t : ETag) (rm : Rm) (ftz daz : Bool) (a b d : Nat) : Nat × Nat :=
  let x := decFp t daz a; let y := decFp t daz b; let z := decFp t daz d
  let p := mulFp x y
  let bad := (x.isZero && y.isInf) || (x.isInf && y.isZero)
  if bad then (t.qnan, flInv)
  else
    let p' := if np then p.flip else p
    let z' := if nd then z.flip else z
    encFp t rm ftz (addFp rm p' z')

/-- vmin and vmax (R134); −0 is below +0 and a zero read under DAZ is returned as that zero. -/
def fMinMax (isMax : Bool) (t : ETag) (daz : Bool) (a b : Nat) : Nat × Nat :=
  let x := decFp t daz a; let y := decFp t daz b
  if x.isNan || y.isNan then (t.qnan, sigFlag x y)
  else
    let c := cmpFp x y
    let c := if c == 0 && x.isZero then (if x.neg == y.neg then 0 else if x.neg then -1 else 1) else c
    let pickA := if isMax then decide (0 ≤ c) else decide (c ≤ 0)
    let v := if pickA then x else y
    (if v.isZero then signBit t v.neg else (if pickA then a else b) % 2 ^ t.fmt.width, 0)

/-- vabs and vneg (R134). -/
def fAbs (t : ETag) (daz : Bool) (a : Nat) : Nat × Nat :=
  match decFp t daz a with
  | .nan g => (t.qnan, if g then flInv else 0)
  | .fin _ 0 _ => (0, 0)
  | _ => (a % 2 ^ (t.fmt.eb + t.fmt.fb), 0)
def fNeg (t : ETag) (daz : Bool) (a : Nat) : Nat × Nat :=
  match decFp t daz a with
  | .nan g => (t.qnan, if g then flInv else 0)
  | .fin n 0 _ => (signBit t (!n), 0)
  | x => (a % 2 ^ (t.fmt.eb + t.fmt.fb) + signBit t (!x.neg), 0)

/-- Significant bits of the estimates (R136). -/
def estBits : ETag → Nat
  | .fp64 | .fp32 => 12
  | .fp16 => 11
  | _ => 8

/-- Step 1 of R136: to nearest even at `estBits` significant bits, unbounded exponent; step 2: RNE to the format, never
inexact, and a flushed result raises underflow alone. -/
def estimate (t : ETag) (ftz neg : Bool) (m : Nat) (e : Int) (st : Bool) : Nat × Nat :=
  let q := leadExp m e - ((estBits t : Int) - 1)
  let (k, _) := roundAt .rne neg m e st q
  let (b, fl) := roundFp t .rne ftz neg k q false
  (b, fl &&& (127 - flNx))

/-- vrcpe (R136). -/
def fRcpe (t : ETag) (ftz daz : Bool) (a : Nat) : Nat × Nat :=
  match decFp t daz a with
  | .nan g => (t.qnan, if g then flInv else 0)
  | .inf n => (signBit t n, 0)
  | .fin n m e => if m == 0 then (infBits t n, flDz)
    else let (r, e', st) := divFin 1 0 m e; estimate t ftz n r e' st

/-- vrsqe (R136): √(1 ÷ a) from a quotient with an even exponent. -/
def fRsqe (t : ETag) (ftz daz : Bool) (a : Nat) : Nat × Nat :=
  match decFp t daz a with
  | .nan g => (t.qnan, if g then flInv else 0)
  | .inf n => if n then (t.qnan, flInv) else (0, 0)
  | .fin n m e =>
    if m == 0 then (infBits t n, flDz) else if n then (t.qnan, flInv)
    else
      let sh : Nat := 400 + (if (e % 2) == 0 then 0 else 1)
      let num := 2 ^ sh
      let qq := num / m
      let r := sqrtNat qq
      estimate t ftz false r ((-e - sh) / 2) (r * r != qq || num % m != 0)

/-! ## 2^a and log2 a (R137): fixed point at 2^−256, far beyond any rounding boundary a result of at most 53 bits can lie near -/

/-- Fixed-point bits. -/
def fxBits : Nat := 256
/-- Σ 1 ÷ (n 2^n), which is ln 2, in units of 2^−fxBits. -/
def ln2Fx : Nat :=
  let rec go : Nat → Nat → Nat
    | 0, acc => acc
    | n + 1, acc => go n (acc + 2 ^ (fxBits + 16) / ((n + 1) * 2 ^ (n + 1)))
  go 280 0 / 2 ^ 16
/-- e^x for 0 ≤ x < 1 in units of 2^−fxBits. -/
def expFx (x : Nat) : Nat :=
  let rec go : Nat → Nat → Nat → Nat → Nat
    | 0, _, _, acc => acc
    | f + 1, k, term, acc => let t := term * x / 2 ^ fxBits / k; go f (k + 1) t (acc + t)
  go 70 1 (2 ^ fxBits) (2 ^ fxBits)
/-- 2 atanh z for 0 ≤ z ≤ 1/3 in units of 2^−fxBits. -/
def atanh2Fx (z : Nat) : Nat :=
  let z2 := z * z / 2 ^ fxBits
  let rec go (z2 : Nat) : Nat → Nat → Nat → Nat → Nat
    | 0, _, _, acc => acc
    | f + 1, k, pow, acc => go z2 f (k + 2) (pow * z2 / 2 ^ fxBits) (acc + pow / k)
  2 * go z2 90 1 z 0

/-- vexp2 (R137). -/
def fExp2 (t : ETag) (rm : Rm) (ftz daz : Bool) (a : Nat) : Nat × Nat :=
  match decFp t daz a with
  | .nan g => (t.qnan, if g then flInv else 0)
  | .inf n => if n then (0, 0) else (infBits t false, 0)
  | .fin n m e =>
    if m == 0 then roundFp t rm ftz false 1 0 false
    else if 20 < leadExp m e then roundFp t rm ftz false 1 (if n then -2000000 else 2000000) false
    else if leadExp m e < -60 then
      if n then roundFp t rm ftz false (2 ^ 60 - 1) (-60) true else roundFp t rm ftz false (2 ^ 60) (-60) true
    else
      -- a in units of 2^−fxBits, split into an integer part and a fraction
      let v : Int := ((m * 2 ^ (e + fxBits).toNat : Nat) : Int)
      let v := if n then -v else v
      let one : Int := ((2 ^ fxBits : Nat) : Int)
      let ip := v / one
      let fp := (v % one).toNat
      if fp == 0 then roundFp t rm ftz false 1 ip false
      else roundFp t rm ftz false (expFx (fp * ln2Fx / 2 ^ fxBits)) (ip - fxBits) true

/-- vlog2 (R137). -/
def fLog2 (t : ETag) (rm : Rm) (ftz daz : Bool) (a : Nat) : Nat × Nat :=
  match decFp t daz a with
  | .nan g => (t.qnan, if g then flInv else 0)
  | .inf n => if n then (t.qnan, flInv) else (infBits t false, 0)
  | .fin n m e =>
    if m == 0 then (infBits t true, flDz) else if n then (t.qnan, flInv)
    else
      let le := leadExp m e
      let x := m * 2 ^ (fxBits - Nat.log2 m)
      let one := 2 ^ fxBits
      if x == one then roundFp t rm ftz (decide (le < 0)) le.natAbs 0 false
      else
        let l := atanh2Fx ((x - one) * one / (x + one)) * one / ln2Fx
        let s : Int := le * one + l
        if 0 ≤ s then roundFp t rm ftz false s.toNat (-(fxBits : Int)) true
        else roundFp t rm ftz true (s.natAbs - 1) (-(fxBits : Int)) true

/-! ## Compares (R138) -/

/-- The relations of majors 0x2A functions 0–6. -/
inductive Rel where
  | eq | ne | lt | le | gt | ge | un
deriving DecidableEq, Repr

/-- A relation between two ordered values. -/
def Rel.holds : Rel → Int → Bool
  | .eq, c => c == 0
  | .ne, c => c != 0
  | .lt, c => decide (c < 0)
  | .le, c => decide (c ≤ 0)
  | .gt, c => decide (0 < c)
  | .ge, c => decide (0 ≤ c)
  | .un, _ => false

/-- A float compare and the class it raises. -/
def fCmp (r : Rel) (t : ETag) (daz : Bool) (a b : Nat) : Bool × Nat :=
  let x := decFp t daz a; let y := decFp t daz b
  if x.isNan || y.isNan then
    match r with
    | .lt | .le | .gt | .ge => (false, flInv)
    | .ne | .un => (true, sigFlag x y)
    | .eq => (false, sigFlag x y)
  else (r.holds (cmpFp x y), 0)

/-- An integer compare. -/
def iCmp (r : Rel) (t : ETag) (a b : Nat) : Bool :=
  let x := readInt t.isI t.bits a; let y := readInt t.isI t.bits b
  r.holds (if x < y then -1 else if y < x then 1 else 0)

/-! ## Conversions (R68) -/

/-- Whether R68 allows an unscaled or scaled pair. -/
def cvtAllowed (src dst : ETag) : Bool :=
  if src == dst || dst == .k4 || dst.isScaled then false
  else if src == .k4 then dst == .bf16 || dst == .fp32 || dst == .fp64
  else if src == .sk4 || src == .sf8a || src == .sf8b then dst == .fp64 || dst == .fp32 || dst == .bf16 || dst == .fp16
  else true

/-- An integer value to an integer tag: exact where R68 says so, otherwise clamped. -/
def cvtIntInt (dst : ETag) (v : Int) : Nat × Nat := clampFlag dst.isI dst.bits v

/-- A float value to an integer tag (R68). -/
def cvtFpInt (dst : ETag) : Fp → Nat × Nat
  | .nan _ => (0, flInv)
  | .inf n => (wrapInt dst.bits (if n then loInt dst.isI dst.bits else hiInt dst.isI dst.bits), flInv)
  | .fin n m e =>
    let k := if 0 ≤ e then m * 2 ^ e.toNat else m / 2 ^ (-e).toNat
    let frac := if 0 ≤ e then false else m % (2 ^ (-e).toNat) != 0
    let v : Int := if n then -(k : Int) else k
    if v < loInt dst.isI dst.bits then (wrapInt dst.bits (loInt dst.isI dst.bits), flInv)
    else if hiInt dst.isI dst.bits < v then (wrapInt dst.bits (hiInt dst.isI dst.bits), flInv)
    else (wrapInt dst.bits v, if frac then flNx else 0)

/-- One element of an unscaled source other than K4. -/
def cvtElem (src dst : ETag) (rm : Rm) (ftz daz : Bool) (x : Nat) : Nat × Nat :=
  if src.isInt then
    let v := readInt src.isI src.bits x
    if dst.isInt then cvtIntInt dst v
    else roundFp dst rm ftz (decide (v < 0)) v.natAbs 0 false
  else if dst.isInt then cvtFpInt dst (decFp src daz x)
  else encFp dst rm ftz (decFp src daz x)

/-! ## Decoded operands: K4 entries, F8 values and scaled units (R65–R67) -/

/-- The scale factor of a code other than −128, as m × 2^e (R67). -/
def scaleOf (s : Int) : Nat × Int :=
  let c := match (s % 4).toNat with
    | 0 => 256      -- 1.0
    | 1 => 304      -- 1.1875
    | 2 => 362      -- 1.4140625
    | _ => 430      -- 1.6796875
  (c, s / 4 - 8)

/-- A value times a scale factor, exactly; NaN and infinity keep their kind (R67). -/
def scaleFp (s : Int) : Fp → Fp
  | .fin n m e => let (c, k) := scaleOf s; .fin n (m * c) (e + k)
  | v => v

/-- One 64-byte block unit held as a number, byte 0 lowest (R66). -/
def unitByte (u j : Nat) : Nat := u / 2 ^ (8 * j) % 256
/-- SC8, signed. -/
def unitScale (u : Nat) : Int := readInt true 8 (unitByte u 0)
/-- FILL. -/
def unitFill (u : Nat) : Nat := unitByte u 1
/-- SLOT. -/
def unitSlot (u : Nat) : Nat := unitByte u 2
/-- The most elements a unit of the tag holds (R66). -/
def unitCap : ETag → Nat
  | .sk4 => 120
  | _ => 60

/-- Position `e` of a unit: positions at or above FILL and zero blocks are +0 (R66, R67). `cb` is the table of the unit's slot. -/
def unitElem (t : ETag) (cb : Nat → Nat) (u e : Nat) : Fp :=
  if unitFill u ≤ e || unitByte u 0 == 128 then .fin false 0 0
  else
    let raw := match t with
      | .sf8a => decFp .f8a false (unitByte u (4 + e))
      | .sf8b => decFp .f8b false (unitByte u (4 + e))
      | _ => decFp .bf16 false (cb (unitByte u (4 + e / 2) / (if e % 2 == 0 then 1 else 16) % 16))
    scaleFp (unitScale u) raw

/-- A decoded K4, SF8A, SF8B or SK4 value to its destination (R68): codebook entries are exempt from FTZ (R63), so a K4 source
passes `ftz` false; a NaN of SF8A or SF8B raises nothing. -/
def cvtDecoded (src dst : ETag) (rm : Rm) (ftz : Bool) (v : Fp) : Nat × Nat :=
  match v with
  | .nan g => (dst.qnan, if g && (src == .k4 || (src == .sk4 && (dst == .fp64 || dst == .fp32))) then flInv else 0)
  | v => encFp dst rm (ftz && src != .k4) v

/-! ## Matrix accumulation (R70) -/

/-- The exact sum of a group's products, with its special values. -/
def groupSum (arm : Rm) (ps : List Fp) : Fp :=
  let pi := ps.any fun p => p.isInf && !p.neg
  let ni := ps.any fun p => p.isInf && p.neg
  if ps.any Fp.isNan then .nan (ps.any Fp.isSig || (pi && ni))
  else
    if pi && ni then .nan true
    else if pi then .inf false
    else if ni then .inf true
    else
      let e := ps.foldl (fun (a : Int) p => match p with | .fin _ _ k => if k < a then k else a | _ => a) 0
      let s := ps.foldl (fun (a : Int) p => match p with
        | .fin n m k => let v : Int := m * 2 ^ (k - e).toNat; if n then a - v else a + v
        | _ => a) 0
      if s == 0 then
        if ps.all (fun p => p.isZero && !p.neg) then .fin false 0 0
        else if ps.all (fun p => p.isZero && p.neg) then .fin true 0 0
        else .fin (arm == .rdn) 0 0
      else .fin (decide (s < 0)) s.natAbs e

/-- Adds one group's sum into an FP32 accumulator with one rounding (R70, step 4). -/
def accStep (arm : Rm) (acc : Nat) (s : Fp) : Nat × Nat :=
  encFp .fp32 arm false (addFp arm (decFp .fp32 false acc) s)

/-- The products of one output element, four at a time along ascending k; the accumulator and the classes raised. -/
def accumulate (arm : Rm) : Nat → Nat → List Fp → Nat × Nat
  | acc, fl, p0 :: p1 :: p2 :: p3 :: rest =>
    let (a, f) := accStep arm acc (groupSum arm [p0, p1, p2, p3])
    accumulate arm a (fl ||| f) rest
  | acc, fl, [] => (acc, fl)
  | acc, fl, ps =>
    let (a, f) := accStep arm acc (groupSum arm ps)
    (a, fl ||| f)

end Sys2Proof.Machine
end

