-- ==== Sys2Proof/Syntax.lean ====
section
/-! DEFINITION. The instructions of the Zelsin and the events of the device: one constructor of `Instr` for each row
of the opcode table. An instruction's constructor carries the fields of its word (R73–R86), and of its long-form prefix
where the prefix supplies an operand (R89). A row without a word is an event: its constructor carries what the acting
agent (host, Urnyx, peer package, or a unit of the package) supplies. -/

namespace Sys2Proof

/-- A 5-bit scalar specifier (R74). -/
abbrev SReg := BitVec 5
/-- A 6-bit specifier of a V or M word (R74): every value is representable, check 7 of R91 judges it. -/
abbrev VReg := BitVec 6
/-- A mask specifier (R74). -/
abbrev MReg := BitVec 3
/-- An immediate of the I format, placed under the prefix's PAY when there is one (R77, R89). -/
abbrev Imm := BitVec 38

/-- Operands of the V format with a scalar-operand bit (R73, R83). -/
structure VBin where
  vd : VReg
  va : VReg
  vb : VReg
  k  : MReg
  c  : Bool
deriving DecidableEq, Repr

/-- Operands of a unary V instruction (R83). -/
structure VUn where
  vd : VReg
  va : VReg
  k  : MReg
deriving DecidableEq, Repr

/-- Operands of a V instruction whose second source is a scalar, `vb` with its top bit (R74). -/
structure VSc where
  vd : VReg
  va : VReg
  sb : VReg
  k  : MReg
deriving DecidableEq, Repr

/-- The vector-memory payload of the prefix (R89): ORD, SCOPE, TV and TAG. The short form is all zero with `present` false. -/
structure VPay where
  present : Bool
  ord     : BitVec 2
  scope   : BitVec 3
  tv      : Bool
  tag     : BitVec 5
deriving DecidableEq, Repr

/-- Unit-stride operands: data register, scalar base, mask (R85). -/
structure VMemU where
  vd : VReg
  sa : VReg
  k  : MReg
  p  : VPay
deriving DecidableEq, Repr

/-- Strided operands: the stride is a scalar (R85). -/
structure VMemS where
  vd : VReg
  sa : VReg
  sb : VReg
  k  : MReg
  p  : VPay
deriving DecidableEq, Repr

/-- Indexed operands: the index is a vector register (R85). -/
structure VMemX where
  vd : VReg
  sa : VReg
  vb : VReg
  k  : MReg
  p  : VPay
deriving DecidableEq, Repr

/-- Operands of a scalar atomic (R78): SZ, ORD and SCOPE are fields of the function. -/
structure Amo where
  d     : SReg
  a     : SReg
  b     : SReg
  dbl   : Bool
  ord   : BitVec 2
  scope : BitVec 3
deriving DecidableEq, Repr

/-- Who issued a command whose completion is awaited (R343, R271, R352). -/
inductive CmdSrc where
  | mgmt (func : Nat)          -- the management window of a function
  | pgcmd (key : ThreadKey)    -- the PGCMD register of a control thread
  | debug (reply : Option (Nat × W64)) -- the debug window of the physical function; the status and data a peer returned (R355)
deriving DecidableEq, Repr

/-- A register written by an event, other than those with rows of their own (R5). -/
inductive RegTarget where
  | queue (func q off : Nat)       -- BAR0, a queue window (R222)
  | mgmt (func off : Nat)          -- BAR2 (R343, R352, R358)
  | manager (num part : Nat)       -- a manager state register, by Urnyx (R49); `part` selects IMBWIN's partition
  | packageMatrix                  -- Urnyx's clear of its package matrices (R312)
deriving DecidableEq, Repr

/-- What a read of the host reads: device memory through BAR4, or a register of eight bytes, of a function or of Urnyx (R5, R340,
R343). -/
inductive HostPlace where
  | mem (addr : Nat)
  | queue (q off : Nat)
  | mgmt (off : Nat)
  | manager (num p : Nat)
  | packageMatrix
deriving DecidableEq, Repr

/-- A miss: the core, or a party that is none, and its context (R269). -/
structure Miss where
  core : Nat
  ctx  : Nat
deriving DecidableEq, Repr

/-- What a dresend asks of an origin: a reference to a stub, for a package (R284). -/
structure RefAsk where
  dest : Nat
  sid  : W64
deriving DecidableEq, Repr

/-- What Urnyx gives a partition at its setup (R205, R222). -/
structure PartCfg where
  id       : Nat
  func     : Nat
  clusters : List Nat
  slices   : List Nat
  ctxBase  : Nat
  ctxCount : Nat
  qBase    : Nat
  qCount   : Nat
  saveMax  : Nat
  perm     : Nat          -- boost budget: permits held at setup
deriving DecidableEq, Repr

/-- A stub (R275), without its check code, which `Sys2Proof.Machine.stubChk` computes. -/
structure Stub where
  sid   : W64
  oaddr : W64
  len   : Nat
  tag   : Nat
  octx  : Nat
  hop   : Nat
  shape : W64
  laddr : W64
  ver   : Nat
deriving DecidableEq, Repr

/-- The outcome a peer package reports for one remote access (R193, R350). -/
inductive RemoteOutcome where
  | data (bytes : List Byte)   -- performed; the bytes read (empty for a write)
  | notPresent (migw : Bool)
  | prot
  /-- A ring write of a capp fails there, at an address: not present (and MIGW), or PROT (R231). -/
  | ring (va : W64) (absent migw : Bool)
  | miss                       -- an acquire gather's element misses its scope there (R199)
deriving DecidableEq, Repr

/-- What a remote access does at its target (R193). -/
inductive RemoteOp where
  | read (acq : Option Nat)           -- the scope of an acquire gather's element (R199)
  | write (bytes : List Byte)
  | atomic (op : Nat) (x e : Nat)   -- OP of R78, operand, expected value
  | famo (fp rm : Nat) (ftz daz : Bool) (x : Nat)   -- a float add of a vector atomic under tag `fp` (R165)
  | nib (hi : Bool) (x : Nat)         -- a K4 element: half a byte (R151)
  | capp (idx : List Nat)             -- the whole of a capp on the descriptor there, with its active indices (R231)
deriving DecidableEq, Repr

/-- The reply of a link's origin to a request for a reference (R284). -/
inductive RefReply where
  | granted (sub : Nat)
  | noLink
  | exhausted
deriving DecidableEq, Repr

/-- What a pull brings back (R287). -/
inductive PullReply where
  | bytes (l : List Byte)
  | unknown
deriving DecidableEq, Repr

/-- A host AtomicOp (R201). -/
inductive HostOp where
  | fetchAdd (n : Nat) (x : Nat)
  | swap (n : Nat) (x : Nat)
  | cas (n : Nat) (x e : Nat)
deriving DecidableEq, Repr

/-- What a cluster's sensors report at a power decision (R336). -/
structure PowerReading where
  cluster : Nat
  overCurrent : Bool
deriving DecidableEq, Repr

/-- A power decision's inputs: the die's temperature verdict, its clusters' currents, each partition's average power in watts. -/
structure PowerInputs where
  hot    : Bool
  amps   : List PowerReading
  watts  : List (Nat × Nat)
deriving DecidableEq, Repr

/-- One constructor for each row of the opcode table; the comment names the row's mnemonic and rule. The words stand first, then the
events that the machine itself appends to its agenda, then those of the host, Urnyx, the peers and the links. -/
inductive Instr where
  | add (d a b : SReg)  -- ADD, R93
  | sub (d a b : SReg)  -- SUB, R93
  | mul (d a b : SReg)  -- MUL, R93
  | mulh (d a b : SReg)  -- MULH, R93
  | mulhu (d a b : SReg)  -- MULHU, R93
  | div (d a b : SReg)  -- DIV, R93
  | divu (d a b : SReg)  -- DIVU, R93
  | rem (d a b : SReg)  -- REM, R93
  | remu (d a b : SReg)  -- REMU, R93
  | and (d a b : SReg)  -- AND, R93
  | or (d a b : SReg)  -- OR, R93
  | xor (d a b : SReg)  -- XOR, R93
  | sll (d a b : SReg)  -- SLL, R93
  | srl (d a b : SReg)  -- SRL, R93
  | sra (d a b : SReg)  -- SRA, R93
  | slt (d a b : SReg)  -- SLT, R93
  | sltu (d a b : SReg)  -- SLTU, R93
  | seq (d a b : SReg)  -- SEQ, R93
  | min (d a b : SReg)  -- MIN, R93
  | max (d a b : SReg)  -- MAX, R93
  | minu (d a b : SReg)  -- MINU, R93
  | maxu (d a b : SReg)  -- MAXU, R93
  | clz (d a : SReg)  -- CLZ, R93
  | ctz (d a : SReg)  -- CTZ, R93
  | popc (d a : SReg)  -- POPC, R93
  | sel (d a b : SReg)  -- SEL, R93
  | addi (d a : SReg) (imm : Imm)  -- ADDI, R94
  | andi (d a : SReg) (imm : Imm)  -- ANDI, R94
  | ori (d a : SReg) (imm : Imm)  -- ORI, R94
  | xori (d a : SReg) (imm : Imm)  -- XORI, R94
  | slti (d a : SReg) (imm : Imm)  -- SLTI, R94
  | slli (d a : SReg) (sh : BitVec 6)  -- SLLI, R94
  | srli (d a : SReg) (sh : BitVec 6)  -- SRLI, R94
  | srai (d a : SReg) (sh : BitVec 6)  -- SRAI, R94
  | lb (d a : SReg) (imm : Imm)  -- LB, R95
  | lbu (d a : SReg) (imm : Imm)  -- LBU, R95
  | lh (d a : SReg) (imm : Imm)  -- LH, R95
  | lhu (d a : SReg) (imm : Imm)  -- LHU, R95
  | lw (d a : SReg) (imm : Imm)  -- LW, R95
  | lwu (d a : SReg) (imm : Imm)  -- LWU, R95
  | ld (d a : SReg) (imm : Imm)  -- LD, R95
  | lih (d : SReg) (imm : Imm)  -- LIH, R94
  | sb (d a : SReg) (imm : Imm)  -- SB, R95
  | sh (d a : SReg) (imm : Imm)  -- SH, R95
  | sw (d a : SReg) (imm : Imm)  -- SW, R95
  | sd (d a : SReg) (imm : Imm)  -- SD, R95
  | amoadd (o : Amo)  -- AMOADD, R97
  | amomin (o : Amo)  -- AMOMIN, R97
  | amomax (o : Amo)  -- AMOMAX, R97
  | amominu (o : Amo)  -- AMOMINU, R97
  | amomaxu (o : Amo)  -- AMOMAXU, R97
  | amoand (o : Amo)  -- AMOAND, R97
  | amoor (o : Amo)  -- AMOOR, R97
  | amoxor (o : Amo)  -- AMOXOR, R97
  | amoswap (o : Amo)  -- AMOSWAP, R97
  | amocas (o : Amo)  -- AMOCAS, R97
  | beq (a b : SReg) (off : BitVec 38)  -- BEQ, R99
  | bne (a b : SReg) (off : BitVec 38)  -- BNE, R99
  | blt (a b : SReg) (off : BitVec 38)  -- BLT, R99
  | bge (a b : SReg) (off : BitVec 38)  -- BGE, R99
  | bltu (a b : SReg) (off : BitVec 38)  -- BLTU, R99
  | bgeu (a b : SReg) (off : BitVec 38)  -- BGEU, R99
  | bany (m : SReg) (off : BitVec 38)  -- BANY, R101
  | ball (m : SReg) (off : BitVec 38)  -- BALL, R101
  | bnone (m : SReg) (off : BitVec 38)  -- BNONE, R101
  | j (off : BitVec 48)  -- J, R100
  | jal (off : BitVec 48)  -- JAL, R100
  | loop (a : SReg) (sm1 : BitVec 3) (lvl : BitVec 2) (len : Imm)  -- LOOP, R102
  | vfetch (k : MReg) (off : BitVec 38)  -- VFETCH, R107
  | vthr (k : MReg) (off : BitVec 38)  -- VTHR, R108
  | vjoin  -- VJOIN, R109
  | srr (d : SReg) (num : BitVec 12)  -- SRR, R120
  | srw (num : BitVec 12) (a : SReg)  -- SRW, R121
  | vadd (o : VBin)  -- VADD, R133
  | vsub (o : VBin)  -- VSUB, R133
  | vmul (o : VBin)  -- VMUL, R133
  | vmulh (o : VBin)  -- VMULH, R133
  | vdiv (o : VBin)  -- VDIV, R133
  | vrem (o : VBin)  -- VREM, R133
  | vmin (o : VBin)  -- VMIN, R133
  | vmax (o : VBin)  -- VMAX, R133
  | vand (o : VBin)  -- VAND, R133
  | vor (o : VBin)  -- VOR, R133
  | vxor (o : VBin)  -- VXOR, R133
  | vsll (o : VBin)  -- VSLL, R133
  | vsrl (o : VBin)  -- VSRL, R133
  | vsra (o : VBin)  -- VSRA, R133
  | vsadd (o : VBin)  -- VSADD, R133
  | vssub (o : VBin)  -- VSSUB, R133
  | vfma (o : VBin)  -- VFMA, R135
  | vfms (o : VBin)  -- VFMS, R135
  | vfnma (o : VBin)  -- VFNMA, R135
  | vfnms (o : VBin)  -- VFNMS, R135
  | vsqrt (o : VUn)  -- VSQRT, R134
  | vrcpe (o : VUn)  -- VRCPE, R136
  | vrsqe (o : VUn)  -- VRSQE, R136
  | vexp2 (o : VUn)  -- VEXP2, R137
  | vlog2 (o : VUn)  -- VLOG2, R137
  | vabs (o : VUn)  -- VABS, R133
  | vneg (o : VUn)  -- VNEG, R133
  | vnot (o : VUn)  -- VNOT, R133
  | vclz (o : VUn)  -- VCLZ, R133
  | vpopc (o : VUn)  -- VPOPC, R133
  | vceq (o : VBin)  -- VCEQ, R138
  | vcne (o : VBin)  -- VCNE, R138
  | vclt (o : VBin)  -- VCLT, R138
  | vcle (o : VBin)  -- VCLE, R138
  | vcgt (o : VBin)  -- VCGT, R138
  | vcge (o : VBin)  -- VCGE, R138
  | vcun (o : VBin)  -- VCUN, R138
  | mand (md ma mb : VReg)  -- MAND, R139
  | mor (md ma mb : VReg)  -- MOR, R139
  | mxor (md ma mb : VReg)  -- MXOR, R139
  | mandn (md ma mb : VReg)  -- MANDN, R139
  | mnot (md ma : VReg)  -- MNOT, R139
  | msbf (md ma : VReg)  -- MSBF, R139
  | msif (md ma : VReg)  -- MSIF, R139
  | vperm (o : VBin)  -- VPERM, R142
  | vslideup (o : VSc)  -- VSLIDEUP, R143
  | vslidedn (o : VSc)  -- VSLIDEDN, R143
  | vcompress (o : VUn)  -- VCOMPRESS, R144
  | vexpand (o : VUn)  -- VEXPAND, R144
  | viota (vd : VReg) (k : MReg)  -- VIOTA, R145
  | vmerge (o : VBin)  -- VMERGE, R145
  | vins (vd sa sb : VReg)  -- VINS, R146
  | vext (sd va sb : VReg)  -- VEXT, R146
  | xch (o : VSc)  -- XCH, R147
  | mpop (sd : VReg) (ma : VReg)  -- MPOP, R140
  | mff1 (sd : VReg) (ma : VReg)  -- MFF1, R140
  | vraddT (o : VSc)  -- VRADD_T, R148
  | vraddO (o : VSc)  -- VRADD_O, R148
  | vrminT (o : VSc)  -- VRMIN_T, R148
  | vrminO (o : VSc)  -- VRMIN_O, R148
  | vrmaxT (o : VSc)  -- VRMAX_T, R148
  | vrmaxO (o : VSc)  -- VRMAX_O, R148
  | vrand (o : VSc)  -- VRAND, R148
  | vror (o : VSc)  -- VROR, R148
  | vrxor (o : VSc)  -- VRXOR, R148
  | vcvt (o : VUn) (tag : BitVec 6)  -- VCVT, R149
  | vsetl (sd sa : VReg)  -- VSETL, R125
  | vmt (sa : VReg)  -- VMT, R127
  | vcfg (first last : SReg) (tag : BitVec 6) (gc : BitVec 2) (cb : BitVec 4)  -- VCFG, R123
  | vld (o : VMemU)  -- VLD, R154
  | vldS (o : VMemS)  -- VLD_S, R154
  | vldX (o : VMemX)  -- VLD_X, R154
  | vldFf (o : VMemU)  -- VLD_FF, R156
  | vldO (o : VMemU)  -- VLD_O, R158
  | vldSo (o : VMemS)  -- VLD_SO, R158
  | vldXo (o : VMemX)  -- VLD_XO, R158
  | vst (o : VMemU)  -- VST, R154
  | vstS (o : VMemS)  -- VST_S, R154
  | vstX (o : VMemX)  -- VST_X, R154
  | vstO (o : VMemU)  -- VST_O, R158
  | vstSo (o : VMemS)  -- VST_SO, R158
  | vstXo (o : VMemX)  -- VST_XO, R158
  | vamoAdd (o : VMemX)  -- VAMO_ADD, R165
  | vamoMin (o : VMemX)  -- VAMO_MIN, R165
  | vamoMax (o : VMemX)  -- VAMO_MAX, R165
  | vamoAnd (o : VMemX)  -- VAMO_AND, R165
  | vamoOr (o : VMemX)  -- VAMO_OR, R165
  | vamoXor (o : VMemX)  -- VAMO_XOR, R165
  | vamoSwap (o : VMemX)  -- VAMO_SWAP, R165
  | vscadd (o : VMemX)  -- VSCADD, R166
  | bxld (md : VReg) (sa : VReg) (vb : VReg) (p : VPay)  -- BXLD, R302
  | capp (sa : VReg) (k : MReg) (p : VPay)  -- CAPP, R231
  | mma (vd : VReg) (x y : BitVec 5) (k : MReg)  -- MMA, R184
  | mmax (vd : VReg) (x : BitVec 5) (va vi : VReg) (k : MReg)  -- MMAX, R186
  | mmab (vd : VReg) (x y : BitVec 5) (sl : SReg) (k : MReg)  -- MMAB, R187
  | mclaim (sa : VReg) (x : BitVec 5)  -- MCLAIM, R173
  | mrel (x : BitVec 5)  -- MREL, R174
  | mldt (sa : VReg) (x : BitVec 5)  -- MLDT, R176
  | cbld (sa : VReg) (cb : BitVec 5)  -- CBLD, R177
  | barinit (a b : SReg)  -- BARINIT, R256
  | bararr (a : SReg)  -- BARARR, R257
  | barwait (a : SReg)  -- BARWAIT, R257
  | barwaitA (a : SReg)  -- BARWAIT_A, R257
  | launch (a b : SReg)  -- LAUNCH, R228
  | xcfg (a : SReg) (ch : BitVec 5)  -- XCFG, R294
  | xtid (d : SReg) (ch : BitVec 5)  -- XTID, R298
  | xwait (a : SReg) (ch : BitVec 5)  -- XWAIT, R299
  | dsend (d a : SReg)  -- DSEND, R281
  | dpull (a b : SReg)  -- DPULL, R282
  | ddrop (a : SReg)  -- DDROP, R283
  | dresend (d a b : SReg)  -- DRESEND, R284
  | dlstat (d a : SReg)  -- DLSTAT, R285
  | trap (code : BitVec 10)  -- TRAP, R115
  | eret  -- ERET, R117
  | brk (code : BitVec 10)  -- BRK, R116
  | wait  -- WAIT, R119
  | uiret  -- UIRET, R118
  | jalr (d a : SReg)  -- JALR, R100
  | fence (scope : BitVec 3) (ord ty : BitVec 2)  -- FENCE, R169
  | xfence (src dst scope : BitVec 3)  -- XFENCE, R170
  | rdharm (d a b : SReg)  -- RDHARM, R319
  | rdimb (d a : SReg)  -- RDIMB, R332
  | rdsamp (d a : SReg)  -- RDSAMP, R357
  | hclr (a : SReg)  -- HCLR, R320
  | setwash (a : SReg)  -- SETWASH, R333
  | laneThreadStart (key : ThreadKey)  -- LANE_THREAD_START, R107
  | userInterruptEntry (key : ThreadKey)  -- USER_INTERRUPT_ENTRY, R304
  | pageWalk (miss : Miss) (va : W64)  -- PAGE_WALK, R269
  | faultRecordPost (die : Nat)  -- FAULT_RECORD_POST, R272
  | inval (src : CmdSrc)  -- INVAL, R271
  | pagedone (src : CmdSrc)  -- PAGEDONE, R271
  | queueHeadTake (q : Nat)  -- QUEUE_HEAD_TAKE, R225
  | launchComplete (launch : Nat)  -- LAUNCH_COMPLETE, R239
  | placeGroup (part : Nat)  -- PLACE_GROUP, R241
  | groupLoadComplete (group : Nat)  -- GROUP_LOAD_COMPLETE, R240
  | saveComplete (group : Nat)  -- SAVE_COMPLETE, R216
  | teardownComplete (ctx : Nat)  -- TEARDOWN_COMPLETE, R221
  | barrierWriteback (addr : Nat)  -- BARRIER_WRITEBACK, R252
  | barrierBroken (addr : Nat)  -- BARRIER_BROKEN, R259
  | stubDelivery (from_ ctx : Nat) (stub : Stub)  -- STUB_DELIVERY, R279
  | stripStart (key : ThreadKey) (ch : Nat)  -- STRIP_START, R295
  | stripComplete (key : ThreadKey) (ch id : Nat)  -- STRIP_COMPLETE, R297
  | bxldComplete (key : ThreadKey) (ch id : Nat)  -- BXLD_COMPLETE, R302
  | scalarAccessPerformed (key : ThreadKey)  -- SCALAR_ACCESS_PERFORMED, R96
  | unallocatedWordFetch (detail : Nat)  -- UNALLOCATED_WORD_FETCH, R91
  | instructionFetchFault (cause : Nat) (va : W64) (long : Bool)  -- INSTRUCTION_FETCH_FAULT, R270
  | qtailWrite (func q : Nat) (value : W64)  -- QTAIL_WRITE, R227
  | queueEnable (func q : Nat) (value : W64)  -- QUEUE_ENABLE, R225
  | queueDrain (func q : Nat) (value : W64)  -- QUEUE_DRAIN, R225
  | queueClear (func q : Nat) (value : W64)  -- QUEUE_CLEAR, R225
  | registerWrite (target : RegTarget) (value : W64)  -- REGISTER_WRITE, R5
  | hostMemoryWrite (func addr : Nat) (bytes : List Byte)  -- HOST_MEMORY_WRITE, R203
  | hostMemoryRead (func : Nat) (place : HostPlace) (n : Nat)  -- HOST_MEMORY_READ, R340
  | hostAtomicop (func addr : Nat) (op : HostOp)  -- HOST_ATOMICOP, R201
  | commandComplete (src : CmdSrc)  -- COMMAND_COMPLETE, R343
  | segmentLanding (sid : W64) (seg : Nat) (reply : PullReply)  -- SEGMENT_LANDING, R287
  | freeze (func : Nat)  -- FREEZE, R219
  | attest (func : Nat)  -- ATTEST, R344
  | query (func : Nat)  -- QUERY, R208
  | create (func : Nat)  -- CREATE, R208
  | setslice (func : Nat)  -- SETSLICE, R208
  | teardown (func : Nat)  -- TEARDOWN, R221
  | severNotice (sid : W64)  -- SEVER_NOTICE, R289
  | preemptForSpace (part : Nat)  -- PREEMPT_FOR_SPACE, R213
  | nearCacheEvict (line : Nat)  -- NEAR_CACHE_EVICT, R267
  | xchFrzClear (key : ThreadKey) (ch : Nat)  -- XCH_FRZ_CLEAR, R297
  | pendingAgeLimit (part : Nat)  -- PENDING_AGE_LIMIT, R241
  | spanAttachMark (key : ThreadKey) (core : Nat)  -- SPAN_ATTACH_MARK, R246
  | svtCharge (key : ThreadKey)  -- SVT_CHARGE, R213
  | softError (ctx : Nat) (key : Option ThreadKey)  -- SOFT_ERROR, R219
  | functionReset (func : Nat)  -- FUNCTION_RESET, R220
  | packageReset  -- PACKAGE_RESET, R5
  | firmwareLoad (image : List Byte) (ed ml : List Byte)  -- FIRMWARE_LOAD, R20
  | partitionSetup (cfg : PartCfg)  -- PARTITION_SETUP, R205
  | clusterMove (cluster toPart : Nat)  -- CLUSTER_MOVE, R205
  | domainSetup (number : Nat) (members : List Nat) (master : Nat)  -- DOMAIN_SETUP, R348
  | deliveryAck (sid : W64)  -- DELIVERY_ACK, R289
  | deliveryRefusal (sid : W64)  -- DELIVERY_REFUSAL, R279
  | pullRequest (from_ : Nat) (sid : W64) (seg : Nat)  -- PULL_REQUEST, R287
  | endMessage (sid : W64)  -- END_MESSAGE, R287
  | dropMessage (sid : W64)  -- DROP_MESSAGE, R289
  | referenceRequest (from_ dest : Nat) (sid : W64)  -- REFERENCE_REQUEST, R284
  | referenceGrant (ask : RefAsk) (reply : RefReply)  -- REFERENCE_GRANT, R284
  | peerLossTimeout (pkg : Nat)  -- PEER_LOSS_TIMEOUT, R348
  | hostLentWriteTimeout  -- HOST_LENT_WRITE_TIMEOUT, R288
  | arbiterGrant (arb : Nat)  -- ARBITER_GRANT, R314
  | quantumPost (arb : Nat)  -- QUANTUM_POST, R311
  | budgetInterval (link : Nat)  -- BUDGET_INTERVAL, R317
  | stringIntervalEnd (str : Nat)  -- STRING_INTERVAL_END, R327
  | powerInterval (die : Nat) (inp : PowerInputs)  -- POWER_INTERVAL, R336
  | supplyDroop (cluster : Nat)  -- SUPPLY_DROOP, R336
  | flushReadComplete  -- FLUSH_READ_COMPLETE, R341
  | pcieLinkTraining (link rate width : Nat)  -- PCIE_LINK_TRAINING, R340
  | cxlPortTraining (port rate : Nat)  -- CXL_PORT_TRAINING, R346
  | cxlPortDown (port : Nat)  -- CXL_PORT_DOWN, R347
  | glasalLinkTraining (port peerGen : Nat) (holdsRate : Bool)  -- GLASAL_LINK_TRAINING, R349
  | glasalFlitRetry (port flit : Nat)  -- GLASAL_FLIT_RETRY, R349
  | remoteAccessRequest (from_ ctx : Nat) (va : W64) (user : Bool) (n : Nat) (op : RemoteOp)  -- REMOTE_ACCESS_REQUEST, R193
  | remoteReply (key : ThreadKey) (pkg : Nat) (va : W64) (outcome : RemoteOutcome)  -- REMOTE_REPLY, R350
  | halt  -- HALT, R353
  | resume  -- RESUME, R353
  | srrd  -- SRRD, R353
  | srwr  -- SRWR, R353
  | sregrd  -- SREGRD, R353
  | sregwr  -- SREGWR, R353
  | memrd  -- MEMRD, R353
  | memwr  -- MEMWR, R353
  | brkhalt  -- BRKHALT, R353
  | stoprd  -- STOPRD, R353
  | debugForward (from_ : Nat) (dcmd darg ddata : W64)  -- DEBUG_FORWARD, R355
  | hbmRefresh (arb : Nat) (on : Bool)  -- HBM_REFRESH, R15
  | stripBufferError (key : ThreadKey) (ch : Nat)  -- STRIP_BUFFER_ERROR, R300
  | pcieLinkDown (link : Nat)  -- PCIE_LINK_DOWN, R340
  | washIssue (core : Nat)  -- WASH_ISSUE, R328
  | vectorSequencerGrant (core : Nat)  -- VECTOR_SEQUENCER_GRANT, R229
  | instructionRelease (core : Nat)  -- INSTRUCTION_RELEASE, R325
  | waitTimeout (key : ThreadKey)  -- WAIT_TIMEOUT, R119
  | spanMemberLost (key : ThreadKey) (member : Nat)  -- SPAN_MEMBER_LOST, R25
  | spanDetachTimeout (key : ThreadKey)  -- SPAN_DETACH_TIMEOUT, R245
  | lentwriteBound (key : ThreadKey)  -- LENTWRITE_BOUND, R288
  | relocation (key : ThreadKey)  -- RELOCATION, R126
  | instructionComplete (key : ThreadKey)  -- INSTRUCTION_COMPLETE, R56
  | accessUnitComplete (key : ThreadKey)  -- ACCESS_UNIT_COMPLETE, R154
  | returnedLanesTimeout (core : Nat)  -- RETURNED_LANES_TIMEOUT, R247
deriving DecidableEq, Repr

end Sys2Proof
end

