-- ==== Sys2Proof/Machine/State.lean ====
section
/-! DEFINITION. The state of one package, as plain data: control threads, cores, strings, clusters, partitions, functions,
contexts, queues, launches, groups, barrier units, translation units, lifetime links, copy engines, arbiters and memory. -/

namespace Sys2Proof.Machine

/-- No instruction of the table has an undefined effect, so the model never faults: the type is empty of reasons but one. -/
inductive Fault where
  /-- Raised by no instruction: a step whose agenda names a thread of a core number above 1,535 is not a state of the
  machine. Safe: the hardware has no such core. -/
  | noSuchThread (key : Nat)
deriving DecidableEq, Repr

/-- Why an instruction has no meaning. -/
inductive Refusal where
  /-- Raised by an arm of `exec` that has no meaning yet. Safe: nothing is claimed of it. -/
  | notModelled (mnemonic : String)
deriving DecidableEq, Repr

/-! ## Pieces of a control thread -/

/-- MTR (R54). -/
structure Mtr where
  space : Nat := 2
  core  : Nat := 0
  pkg   : Nat := 0
deriving DecidableEq, Repr

/-- One active loop's record (R102). -/
structure LoopRec where
  b : W64
  e : W64
  t : Nat
  s : Nat
  n : Nat
  l : Nat
  i : Nat
deriving DecidableEq, Repr

/-- One entry of an lq or sq (R48): element i occupies bits i × w upward of `data`; bit i of `act` says it was supplied. -/
structure VEntry where
  tag  : ETag
  n    : Nat
  data : Nat
  act  : Nat
deriving DecidableEq, Repr

/-- The fetch unit a thread is running: address, words, whether it is a pair, STG (R72, R87). -/
structure FetchForm where
  addr   : W64 := 0
  word   : W32 := 0
  pre    : W32 := 0
  long   : Bool := false
deriving DecidableEq, Repr

/-- A member of a span, or the one core of a group (R24, R25): its core, Nw, grant and share. -/
structure Member where
  core     : Nat
  tid      : Nat
  nw       : Nat
  grant    : Nat
  share    : Nat
  attached : Bool
  /-- A mark of R245 (detach) or R246 (attach, with the core chosen), which takes effect at the next vsetl. -/
  mark     : Option Bool
  lost     : Bool
deriving DecidableEq, Repr

/-- Integer and bit operations of major 0x28 (R133). -/
inductive BinK where
  | add | sub | mul | mulh | div | rem | min | max | and | or | xor | sll | srl | sra | sadd | ssub
deriving DecidableEq, Repr
/-- Unary operations of major 0x29 (R133–R137). -/
inductive UnK where
  | sqrt | rcpe | rsqe | exp2 | log2 | abs | neg | not | clz | popc
deriving DecidableEq, Repr
/-- Mask logic (R139). -/
inductive MLogK where
  | and | or | xor | andn | not | sbf | sif
deriving DecidableEq, Repr
/-- Reductions (R148). -/
inductive RedK where
  | add | min | max | and | or | xor
deriving DecidableEq, Repr
/-- Address forms of vector memory (R151). -/
inductive MemForm where
  | unit | strided | indexed
deriving DecidableEq, Repr
/-- Operations of atomics, scalar (R97) and vector (R165). -/
inductive AmoK where
  | add | min | max | minu | maxu | and | or | xor | swap | cas
deriving DecidableEq, Repr

/-- What a routed instruction does when it completes. -/
inductive VOp where
  | bin (o : BinK) | fma (np nd : Bool) | un (o : UnK) | cmp (r : Rel) | mlog (o : MLogK)
  | perm | slideup | slidedn | compress | expand | iota | merge | ins | ext | xch | mpop | mff1
  | red (o : RedK) (tree : Bool) | cvt (dst : ETag)
  | load (f : MemForm) (ff ordered : Bool) | store (f : MemForm) (ordered : Bool) | vamo (o : AmoK) | scadd
  | bxld | capp | mma | mmax | mmab | mldt | cbld
  | xcfg | dsend | dpull | ddrop | dresend
deriving DecidableEq, Repr

/-- A routed instruction with everything captured at routing (R30, R50), as the access and execute queues hold it. -/
structure Entry where
  fu     : FetchForm
  op     : VOp
  d      : Nat := 0
  a      : Nat := 0
  b      : Nat := 0
  k      : Nat := 0
  c      : Bool := false
  x      : Nat := 0
  y      : Nat := 0
  capA   : W64 := 0
  capB   : W64 := 0
  vl     : Nat := 0
  gc     : Nat := 0
  cb     : Nat := 0
  tagD   : ETag := .n64
  tagA   : ETag := .n64
  tagB   : ETag := .n64
  mtr    : Mtr := {}
  rm     : Rm := .rne
  arm    : Rm := .rne
  ftz    : Bool := false
  daz    : Bool := false
  mdest  : Nat := 7
  start  : Nat := 0
  ord    : Nat := 0
  scope  : Nat := 0
  user   : Bool := true
  dist   : List Member := []
  inAcc  : Bool := false
  inExe  : Bool := false
  /-- Its access half has started in the access unit (R41). -/
  begun    : Bool := false
  accDone  : Bool := false
  /-- The cores whose gates have released it, and whether it has left every gate it passes (R325). -/
  gates    : List Nat := []
  released : Bool := false
  dropped  : Bool := false
  /-- It stopped part-way, by its trap or on a lent page, and captures VSTART at its reissue (R41, R53). -/
  partWay  : Bool := false
  /-- Chosen for a sample at its release (R356). -/
  sampled  : Bool := false
  /-- Elements accessed and not yet written to the register or queue; the length scalar of mmab. -/
  buf    : List (Nat × Nat) := []
  /-- Elements an acquire gather has missed (R199). -/
  miss   : List Nat := []
  /-- Classes raised so far (R165). -/
  fl     : List (Nat × Nat) := []
deriving DecidableEq, Repr

/-- One lane thread, or a virtual processor still in its block (R36, R107). -/
structure LaneTh where
  pc     : W64
  blkEnd : Option W64
  /-- Runs the block of the vfetch, not yet diverged (R107). -/
  inVec  : Bool
  /-- Its pc was set by a taken branch, a jump or vthr, so that a header there is a block to run (R107, R108). -/
  jumped : Bool
deriving DecidableEq, Repr

/-- A fetch in flight (R107): the target, the end of its block, its mask, the captured VL, tags and distribution; `lanes` once
started. -/
structure FetchRec where
  target  : W64
  block   : Bool
  stop    : W64
  k       : Nat
  vl      : Nat
  tags    : List ETag
  dist    : List Member
  started : Bool
  lanes   : List (Nat × LaneTh)
deriving DecidableEq, Repr

/-- Why a control thread is not ready, or what its retried instruction waits for. A wait leaves the pc at its own word until it ends. -/
inductive Hold where
  | none
  | wait (next : W64)           -- R119: the fetch unit after the wait
  | xwait (ch : Nat)            -- R299
  | barrier (pa : Nat) (next va : W64)   -- R257: the object, the fetch unit after the wait, the object's address
  | broke                       -- R259: the barrier that the front waited at has broken, and its trap is due
  | lent (pa : Nat)             -- R288
  | pull                        -- R287
  | remote (pkg : Nat)          -- R193
  | join                        -- R107, R109
  | slot (x : Nat)              -- R173
  | command                     -- R271: PGCMD busy
deriving DecidableEq, Repr

/-- A transfer's strips, or one background load (R294, R302). -/
structure Xfer where
  first  : Nat
  count  : Nat
  total  : Nat := 0
  strip  : Nat := 1
  esz    : Nat := 1
  dloc   : Bool := false
  lead   : Nat := 0
  irq    : Nat := 0
  src    : W64 := 0
  dst    : W64 := 0
  sstr   : Int := 0
  dstr   : Int := 0
  mtr    : Mtr := {}
  /-- For bxld: the source address and the destination address of each element. -/
  pairs  : List (W64 × W64) := []
  isBx   : Bool := false
  user   : Bool := true
  pace   : Nat := 0
  started : Nat := 0
deriving DecidableEq, Repr

/-- One copy channel (R294–R297). -/
structure Chan where
  next    : Nat := 1
  done    : Nat := 1
  err     : Nat := 0
  frz     : Bool := false
  xfers   : List Xfer := []
  /-- Its next strip's request stands at the engine, and has been granted (R295). -/
  asked   : Bool := false
  go      : Bool := false
  /-- Started strips not yet complete, those of them that wait for a page (with the page), completed identifiers at or above
  DONE. -/
  active  : List Nat := []
  waiting : List (Nat × Nat) := []
  finished : List Nat := []
deriving DecidableEq, Repr

/-- The latest sample (R356, R357): address, SEQ, VL, loop level, iteration, and STU, EPC, CHW, MPW per lane group. -/
structure Sample where
  addr : W64
  seq  : Nat
  vl   : Nat
  lvl  : Nat
  it   : Nat
  lgs  : List (List Nat)
deriving DecidableEq, Repr

/-- A reply of a peer package not yet consumed by the access that awaits it (R193, R350). `who` names the party and path: 0 the
control front, 1 the access unit, 2 and 3 the copy channels, 16 + i virtual processor i; `va` is the address on the peer. -/
structure Reply where
  who : Nat
  pkg : Nat
  va  : W64
  out : RemoteOutcome
  /-- It answers a write or an atomic. -/
  wr  : Bool := false
deriving DecidableEq, Repr

/-- Vector state of a control thread (R43–R58). -/
structure VecState where
  /-- Key 32 × member + n: the 4,096 bytes of vn on that member. -/
  vregs  : Tab (BitVec 32768) := []
  tags   : Tab ETag := []
  /-- Key 8 × member + k: the bits of mk over the member's block, bit j for its local element j. -/
  masks  : Tab Nat := []
  /-- Key 32–37: the entries of an lq or sq, head first. -/
  queues : Tab (List VEntry) := []
  /-- Key 32–37: the tags of the entries counted at routing (R32), head first. -/
  counts : Tab (List ETag) := []
  vl      : Nat := 0
  vlgrant : Nat := 0
  maxBytes : Nat := 0
  maxNw   : Nat := 0
  vstart  : Nat := 0
  gc      : Nat := 0
  cb      : Nat := 0
  ltag    : ETag := .n64
  mtr     : Mtr := {}
  fstat   : W64 := 0
  eix     : Tab W64 := []
  mdest   : Nat := 7
  missCount : Nat := 0
  /-- Key 32 × member + n: the high-water mark of vn on that member, in bytes; 0 is clean (R217). -/
  dirty   : Tab Nat := []
  /-- The saved extent of each vector register on each member, by the same keys (R217). -/
  extent  : Tab Nat := []
  members : List Member := []
deriving DecidableEq, Repr

/-- Trap state of a control thread (R59, R112, R113, R41). -/
structure TrapState where
  info    : W64 := 0
  va      : W64 := 0
  pc      : W64 := 0
  evstart : Nat := 0
  epc     : W64 := 0
  tvec    : W64 := 0
  inTrap  : Bool := false
  stop    : List Entry := []
  loops   : List LoopRec := []
  /-- The lane threads in flight at the trap (R110, R114). -/
  fetch   : Option FetchRec := none
deriving DecidableEq, Repr

/-- User-level interrupt state (R303), with the loop records its entry suspended (R103). -/
structure UiState where
  vec   : W64 := 0
  epc   : W64 := 0
  pend  : Nat := 0
  taken : Nat := 0
  inn   : Bool := false
  loops : List LoopRec := []
deriving DecidableEq, Repr

/-- PGCMD (R271). -/
structure PgCmd where
  cmd    : W64 := 0
  status : Nat := 0
  busy   : Bool := false
  /-- Started and not yet carried out. -/
  todo   : Bool := false
deriving DecidableEq, Repr

/-- A control thread (R29, R43). -/
structure Thread where
  sregs  : Tab W64 := []
  shadow : Tab W64 := []
  pc     : W64 := 0
  sup    : Bool := false
  fu     : FetchForm := {}
  /-- The instruction being run is disabled by its stage (R104). -/
  off    : Bool := false
  v      : VecState := {}
  trap   : TrapState := {}
  ui     : UiState := {}
  ch0    : Chan := {}
  ch1    : Chan := {}
  hsel   : W64 := 0
  barpend : Tab W64 := []
  /-- The barwait.a that has arrived and waits: its address and its entry, which no register need show (R257, R261). -/
  barHidden : Option (W64 × W64) := none
  pgcmd  : PgCmd := {}
  sampctl : W64 := 0x100
  sample : Option Sample := none
  sampSeq : Nat := 0
  relCount : Nat := 0
  loops  : List LoopRec := []
  pipe   : List Entry := []
  fetch  : Option FetchRec := none
  turn   : Nat := 0
  hold   : Hold := .none
  watch  : Option Nat := none
  watchHit : Bool := false
  /-- The parties whose write waits on a lent page, by `who`, and the count of each (R288). -/
  stall  : Tab Nat := []
  pending : List (Nat × List Byte) := []
  replies : List Reply := []
  /-- Remote accesses sent and not yet answered: who, package, address there, whether it writes (R193). -/
  asked  : List (Nat × Nat × W64 × Bool) := []
  /-- The identifier granted to a dresend that waits for its reference (R284), and a refusal. -/
  refReply : Option RefReply := none
  /-- The stub that dresend forwards once its reference is granted (R284). -/
  refStub : Option Stub := none
  /-- Virtual time, remainder and weight of this thread number at its core's vector sequencer, for the thread itself or for the span
  member that holds the number; and the core's count when it came to wait, 0 when it does not (R229). -/
  seqVt  : Nat := 0
  seqRem : Nat := 0
  seqW   : Nat := 64
  seqAge : Nat := 0
  /-- A relocation routed and not yet released: each attached member's thread slot and the larger of its old and new Nw (R126). -/
  reloc  : List (ThreadKey × Nat) := []
  halted : Bool := false
  haltBrk : Bool := false
  haltPend : Bool := false
  brkStop : Bool := false
  group  : Option Nat := none
  ctx    : Nat := 0
  owner  : Nat := 0
  part   : Nat := 0
  gnum   : Nat := 0
  nmem   : Nat := 0
  quad   : Bool := false
  bks    : Bool := false
  /-- The launch of a group that has exited while its strips are not all performed (R239). -/
  exitedOf : Option Nat := none
deriving DecidableEq, Repr

/-! ## Cores, strings, clusters -/

/-- A palette slot's state (R172). -/
inductive SlotState where
  | free | claimed (key : ThreadKey) | releasing (key : ThreadKey)
deriving DecidableEq, Repr

/-- A palette slot (R171, R172). -/
structure Slot where
  st    : SlotState := .free
  shape : W64 := 0
  data  : BitVec 131072 := 0
deriving DecidableEq, Repr

/-- A codebook slot (R178, R65). -/
structure CbSlot where
  v     : Bool := false
  gen   : Nat := 0
  thr   : Nat := 0
  table : BitVec 256 := 0
deriving DecidableEq, Repr

/-- A core (R13, R55, R214, R325). -/
structure CoreSt where
  lg      : List Nat := [0, 0, 0, 0]
  retired : Nat := 0
  /-- The partition, owner and context of the last group loaded here (R214, R218, R249). -/
  last    : Option (Nat × Nat × Nat) := none
  /-- The clean sequencer has run since, with nothing loaded after it. -/
  clean   : Bool := true
  /-- That clean was a function's reset's, whose wash is the partition's own (R220). -/
  wiped   : Bool := false
  slots   : Tab Slot := []
  cbs     : Tab CbSlot := []
  bucket  : Nat := 0
  charge  : Nat := 0
  /-- The thread slot the vector sequencer has granted, and the count of arrivals at it (R229). -/
  granted : Option ThreadKey := none
  seqClock : Nat := 0
  /-- Lane groups offered after exits, oldest first: the launch they came from and how many (R247). -/
  returned : List (Nat × Nat) := []
deriving DecidableEq, Repr

/-- A series string (R327–R333). -/
structure StrSt where
  limit   : Nat := 64
  deficit : List Nat := [0, 0, 0, 0]
  off     : Bool := false
  offPend : Option Bool := none
  lastC   : List Nat := [0, 0, 0, 0]
  lastSpread : Nat := 0
  lastWash : Nat := 0
  lastL   : Nat := 0
  thrcnt  : Nat := 0
  icount  : Nat := 0
  seq     : Nat := 0
  washNow : Nat := 0
  half    : Bool := false
  lastHalf : Bool := false
deriving DecidableEq, Repr

/-- A power cluster (R330, R335, R336). -/
structure ClSt where
  cur     : Nat := 0
  req     : Nat := 0
  /-- REQ has not been 0 all through this interval (R337). -/
  asked   : Bool := false
  cap     : Nat := 64
  droop   : Bool := false
  icount  : Nat := 0
  seq     : Nat := 0
deriving DecidableEq, Repr

/-! ## Partitions, functions, contexts -/

/-- A partition (R205, R222, R311, R326, R329). -/
structure PartSt where
  up       : Bool := false
  func     : Nat := 0
  clusters : List Nat := []
  slices   : List Nat := []
  ctxBase  : Nat := 0
  ctxCount : Nat := 0
  qBase    : Nat := 0
  qCount   : Nat := 0
  saveMax  : Nat := 0
  permits  : Nat := 0
  /-- Delay cells: key (class × 64 + row) × 65 + column (R311). -/
  delay    : Tab Nat := []
  /-- GATEU and WASHU by owner, 64 the environment (R329). -/
  gateu    : Tab Nat := []
  washu    : Tab Nat := []
  /-- The oldest pending item has waited 65,536 reference cycles (R241). -/
  aged     : Bool := false
deriving DecidableEq, Repr

/-- A fault record (R273), pending in its unit until PAGEDONE (R268, R272). -/
structure FaultRec where
  ctx   : Nat
  owner : Nat
  path  : Nat
  kind  : Nat
  migw  : Bool
  va    : W64
  core  : Nat
  thr   : Nat
  seq   : Nat
  part  : Nat
  posted : Bool
deriving DecidableEq, Repr

/-- A function's management window and rings (R343, R345, R358, R342). -/
structure FuncSt where
  mcmd  : W64 := 0
  /-- The command of MCMD is started and not yet carried out. -/
  todo  : Bool := false
  marg  : W64 := 0
  mstat : W64 := 0
  evbase : W64 := 0
  evctl : W64 := 6
  evwr  : Nat := 0
  evrd  : Nat := 0
  evlost : Nat := 0
  trbase : W64 := 0
  trctl : W64 := 6
  trwr  : Nat := 0
  trrd  : Nat := 0
  trlost : Nat := 0
  frozen : Bool := false
  irqs   : Nat := 0
  /-- Fault records waiting for the ring (R345). -/
  waiting : List FaultRec := []
deriving DecidableEq, Repr

/-- Context states (R210). -/
inductive CtxState where
  | created | resident | running | preempting | saved | faulted | frozen | tearing | dead
deriving DecidableEq, Repr

/-- A page a context waits for, and its arrival (R272). -/
structure PageWait where
  page    : Nat
  /-- The group whose thread waits. -/
  group   : Nat
  /-- Marked arrived, and whether as refused. -/
  arrived : Option Bool
deriving DecidableEq, Repr

/-- A window of a landing region: offset, size in bytes, the holder, whether it has been dropped (R279). -/
structure Window where
  off     : Nat
  size    : Nat
  sid     : W64
  dropped : Bool
deriving DecidableEq, Repr

/-- A context (R207–R213, R277, R279). -/
structure CtxSt where
  st      : CtxState := .dead
  part    : Nat := 0
  owner   : Nat := 0
  sup     : Bool := false
  weight  : Nat := 0
  quant   : Nat := 0
  sliceNext : Option (Nat × Nat) := none
  qraised : Bool := false
  ptroot  : Nat := 0
  savebase : W64 := 0
  savecnt : Nat := 0
  peertab : W64 := 0
  tvec    : W64 := 0
  svt     : Nat := 0
  svtRem  : Nat := 0
  waits   : List PageWait := []
  lnkin   : W64 := 0
  lnkbnd  : Nat := 4096
  windows : List Window := []
  landPtr : Nat := 0
  /-- Held by the slice scheduler (R210, R213). -/
  held    : Bool := false
  /-- Tearing down by the reset of its function (R220). -/
  byReset : Bool := false
deriving DecidableEq, Repr

/-! ## Queues, launches, groups -/

/-- Queue states (R222). -/
inductive QState where
  | disabled | empty | ready | blocked | draining | errored
deriving DecidableEq, Repr

/-- A work queue (R222, R224, R225). -/
structure QueueSt where
  base  : W64 := 0
  ctx   : Nat := 0
  logd  : Nat := 6
  src   : Bool := false
  sp    : Bool := false
  seqw  : Nat := 64
  tail  : Nat := 0
  head  : Nat := 0
  compl : Nat := 0
  /-- EN as last written (R5, R222). -/
  en    : Bool := false
  st    : QState := .disabled
  err   : Nat := 0
  /-- Sequence numbers at or above COMPL that have completed. -/
  fin   : List Nat := []
  /-- The launch of this queue whose groups are not all placed (R225). -/
  placing : Option Nat := none
deriving DecidableEq, Repr

/-- A kernel descriptor as the front end read it (R232). -/
structure Kernel where
  entry : W64
  marks : List Nat
  lg    : Nat
  bks   : Bool
  sup   : Bool
  scrb  : Nat
  palm  : Nat
  gc    : Nat
  cb    : Nat
  ltag  : ETag
  tags  : List ETag
deriving DecidableEq, Repr

/-- A launch (R234, R238, R239). -/
structure Launch where
  id    : Nat
  q     : Nat
  seq   : Nat
  ctx   : Nat
  part  : Nat
  kern  : Kernel
  trip  : List Nat
  args  : W64
  crec  : W64
  irq   : Bool
  n     : Nat
  span  : Nat
  placed : Nat
  retired : Nat
  seqw  : Nat
  /-- STATUS of its completion record (R224, R233). -/
  status : Nat
deriving DecidableEq, Repr

/-- Group states (R240). -/
inductive GState where
  | waiting | loading | loaded | stopping | saved | retired
deriving DecidableEq, Repr

/-- A group's saved record, as data (R215). -/
structure SaveRec where
  thr   : Thread
  slots : Tab Slot
  spads : List (List Byte)
deriving DecidableEq, Repr

/-- A group (R240, R236, R250). -/
structure Group where
  id     : Nat
  launch : Nat
  g      : Nat
  st     : GState
  ctx    : Nat
  part   : Nat
  /-- Lane groups, one share for each member. -/
  lgs    : List Nat
  /-- The (core, thread) of each member it holds, or held when it was saved; the home member first. -/
  mems   : List (Nat × Nat)
  scrb   : Nat
  scrOff : Nat
  palm   : Nat
  /-- The save records it holds, one for each member (R215). -/
  records : List Nat
  quad   : Bool
  save   : Option SaveRec
  /-- Its record is marked poisoned (R219). -/
  poisoned : Bool
  /-- Met in Loading by a pre-emption: it stops once loaded. Stopping, by a freeze: its state was not yet in place. -/
  stopAfter : Bool
deriving DecidableEq, Repr

/-- An item of a partition's pending list (R241). -/
inductive PendItem where
  | launch (id : Nat)           -- the next quad or single group of a launch, or a whole gang
  | groups (ids : List Nat)     -- a saved quad, gang or group
deriving DecidableEq, Repr

/-! ## Barriers, pages, links -/

/-- An active barrier object at its home unit (R251, R252). -/
structure BarObj where
  count   : Nat
  bscope  : Nat
  arrived : Nat
  phase   : Nat
  ctx     : Nat
  hcore   : Nat
  lq      : Nat
  lseq    : Nat
  inited  : Bool
  /-- The groups whose threads wait: a waiter stays one while it is saved (R261). -/
  waiters : List Nat
  broken  : Bool
deriving DecidableEq, Repr

/-- A cached translation (R269): one 64 KiB page of a context and the leaf that maps it, in a core by its number, or in a translation unit
by `tlbUnit`. -/
structure TlbEnt where
  unit : Nat
  ctx  : Nat
  page : Nat
  leaf : W64
  lvl  : Nat
deriving DecidableEq, Repr

/-- Origin states and holder states (R285, R289). -/
inductive LinkState where
  | opened | delivered | pulling | drained | dropped | severed
deriving DecidableEq, Repr

/-- An origin record (R276, R289). -/
structure Origin where
  link   : Nat
  refs   : Nat
  st     : LinkState
  served : Nat
  nextSub : Nat
  ctx    : Nat
  oaddr  : W64
  len    : Nat
  tag    : Nat
  hop    : Nat
  pages  : List Nat
  holders : List (Nat × Nat)
  /-- Derived stubs not yet acknowledged: the package that forwards each, and its SUB (R290). -/
  granted : List (Nat × Nat) := []
deriving DecidableEq, Repr

/-- A holder record (R276, R289). -/
structure Holder where
  ctx    : Nat
  stub   : Stub
  st     : LinkState
  pulled : Nat
  flight : List Nat
  /-- The launches whose groups started pulls in flight: segment and launch (R239). -/
  pullers : List (Nat × Nat) := []
deriving DecidableEq, Repr

/-- A stub waiting for delivery (R279): the sending package and whether its wait has been logged (R398). -/
structure Transit where
  from_  : Nat
  ctx    : Nat
  stub   : Stub
  logged : Bool
deriving DecidableEq, Repr

/-- A message that leaves the package (R287, R348, R193). -/
inductive FabMsg where
  | stub (pkg ctx : Nat) (s : Stub)
  | ack (pkg : Nat) (sid : W64)
  | refuse (pkg : Nat) (sid : W64)
  | pullReq (pkg : Nat) (sid : W64) (seg : Nat) (part owner : Nat)
  | pullData (pkg : Nat) (sid : W64) (seg : Nat) (r : PullReply)
  | ended (pkg : Nat) (sid : W64)
  | dropped (pkg : Nat) (sid : W64)
  | refReq (pkg dest : Nat) (sid : W64)
  | refGrant (pkg dest : Nat) (sid : W64) (r : RefReply)
  | sever (pkg : Nat) (sid : W64)
  | remote (pkg : Nat) (key : ThreadKey) (ctx : Nat) (va : W64) (user : Bool) (n : Nat) (op : RemoteOp)
  | remoteReply (pkg : Nat) (va : W64) (out : RemoteOutcome)
  | debug (pkg : Nat) (dcmd darg ddata : W64)
  | debugReply (pkg : Nat) (status : Nat) (data : W64)
deriving DecidableEq, Repr

/-- A host write held at the I/O die (R288), or a later access of the same function, which does not pass it (R204). -/
structure HostWrite where
  func  : Nat
  addr  : Nat := 0
  bytes : List Byte := []
  /-- An AtomicOp in place of a write. -/
  op    : Option HostOp := none
  /-- A read or a register write in place of a memory write: its event. -/
  ev    : Option Instr := none
deriving DecidableEq, Repr

/-- A remote access of a peer that waits for a lent page or a segment (R193, R288). -/
structure RemoteReq where
  from_ : Nat
  ctx   : Nat
  va    : W64
  user  : Bool
  n     : Nat
  op    : RemoteOp
deriving DecidableEq, Repr

/-! ## Arbiters (R306, R314) -/

/-- A request at an arbiter: key (partition × 64 + owner), bytes as beats, current blame (a key, or 1024 for the environment),
how long it has waited. -/
structure Req where
  key   : Nat
  beats : Nat
  blame : Nat
  age   : Nat
  /-- The stages that take it after its grant, in order, and its bytes (R308, R313). -/
  next  : List Nat := []
  bytes : Nat := 0
  /-- The thread whose access unit makes it (R329), and the channel whose strip it starts (R295). -/
  src   : Option ThreadKey := none
  strip : Option (ThreadKey × Nat) := none
  /-- At a host link: the bytes its partition's budget has yet to let pass, and whether it writes (R317). -/
  need  : Nat := 0
  wr    : Bool := false
deriving DecidableEq, Repr

/-- A harm-settling arbiter (its number gives its class): its keys' virtual times, remainders and unsettled quanta. -/
structure Arb where
  /-- Virtual time of every key not listed in `vt`. -/
  base  : Nat := 0
  vt    : Tab Nat := []
  remV  : Tab Nat := []
  remU  : Tab Nat := []
  remD  : Tab Nat := []
  hsUp  : Tab Nat := []
  hxUp  : Tab Nat := []
  hsDn  : Tab Nat := []
  hxDn  : Tab Nat := []
  waiting : List Req := []
  serving : Option Req := none
  /-- Held by refresh, a thermal cap or retraining (R15). -/
  env   : Bool := false
  /-- Fractions of a quantum carried per cell, in 1/256 (R309). -/
  frac  : Tab Nat := []
deriving DecidableEq, Repr

/-! ## Links to the outside -/

/-- A PCIe link, CXL port or Glasal port: up, rate, width or flit under retry (R340, R346, R349). -/
structure PortSt where
  up    : Bool := false
  rate  : Nat := 0
  width : Nat := 0
  retry : Option Nat := none
  /-- A CXL port that went down and has not retrained (R347). -/
  down  : Bool := false
deriving DecidableEq, Repr

/-- The read, write and translation budgets left to a partition on a link in this interval, in bytes, and what an oversize read or
write still takes of the next intervals (R317). -/
structure Budget where
  rd : Nat := 0
  wr : Nat := 0
  tr : Nat := 0
  rdDue : Nat := 0
  wrDue : Nat := 0
deriving DecidableEq, Repr

/-- The debug window of the physical function (R352). -/
structure DebugWin where
  dcmd  : W64 := 0
  darg  : W64 := 0
  ddata : W64 := 0
  status : Nat := 0
  busy  : Bool := false
  /-- Started and not yet carried out. -/
  todo  : Bool := false
deriving DecidableEq, Repr

/-- Firmware and domain facts that Urnyx holds (R20, R348, R355). -/
structure Urnyx where
  image    : Option (List Byte) := none
  measure  : List Byte := []
  refusals : List (List Byte) := []
  number   : Nat := 0
  members  : List Nat := [0]
  master   : Option Nat := none
  lostPeers : List Nat := []
deriving DecidableEq, Repr

/-- A turn of the agenda: an event of the table, or a turn of a control thread (R38). -/
inductive Turn where
  | event (i : Instr)
  | run (key : ThreadKey)
deriving DecidableEq, Repr

/-- The state of one package. -/
structure State where
  cur      : ThreadKey
  /-- The virtual processor whose instruction is being run, when it is a lane thread's (R105). -/
  lane     : Option Nat
  agenda   : List Turn
  lockstep : Bool
  freeCtr  : Nat
  mem      : List Host.Cell
  threads  : Tab Thread
  cores    : Tab CoreSt
  strs     : Tab StrSt
  cls      : Tab ClSt
  /-- Manager registers by number (R49): HWT, HPARM, HPKG, HLB, WTAB, PWRP, SHALF. -/
  mgr      : Tab W64
  /-- IMBWIN by partition (R326). -/
  imbwin   : Tab W64
  urnyx    : Urnyx
  parts    : Tab PartSt
  funcs    : Tab FuncSt
  ctxs     : Tab CtxSt
  queues   : Tab QueueSt
  launches : List Launch
  groups   : List Group
  nextId   : Nat
  pend     : Tab (List PendItem)
  bars     : Tab BarObj
  tlb      : List TlbEnt
  faults   : List FaultRec
  /-- The last SEQ of each die's translation unit (0–3) and of the I/O die (4) (R273, R345). -/
  unitSeq  : Tab Nat
  nearLines : List Nat
  origins  : List Origin
  holders  : List Holder
  serial   : Nat
  transit  : List Transit
  hostHeld : List HostWrite
  remoteHeld : List RemoteReq
  /-- Pulled segments whose landing write stalls on a lent page (R398). -/
  landings : List (W64 × Nat × List Byte)
  /-- 4 KiB blocks of dropped stubs' unpulled segments on pages that were lent at the drop: they read as zero from the release on (R283). -/
  blanks   : List Nat
  fabricOut : List FabMsg
  hostOut  : List (List Byte)
  arbs     : Tab Arb
  /-- Package matrices: key (class × 16 + row) × 17 + column (R312). -/
  pkgDelay : Tab Nat
  pcie     : Tab PortSt
  cxl      : Tab PortSt
  glasal   : Tab PortSt
  budgets  : Tab Budget
  dbg      : DebugWin
  /-- Forwarded debug requests not yet carried out: sender, DCMD, DARG, DDATA (R355). -/
  dbgFwd   : List (Nat × W64 × W64 × W64)
deriving DecidableEq, Repr

/-- The manager registers' reset values where they are not 0 (R316, R323, R326). -/
def mgrReset (num : Nat) : W64 :=
  if 0x900 ≤ num && num < 0x980 then 0x4040404040404040
  else if 0x980 ≤ num && num ≤ 0x990 then 0x4040
  else if num = 0x9C0 then 0x7C32233431685432
  else if num = 0x9C1 then 0x428
  else if 0x9D0 ≤ num && num < 0x9E0 then 0x40C8040
  else 0

/-- The machine after reset: nothing placed, nothing listed. -/
def State.reset : State where
  cur := 0
  lane := none
  agenda := []
  lockstep := true
  freeCtr := 0
  mem := []
  threads := []
  cores := []
  strs := []
  cls := []
  mgr := []
  imbwin := []
  urnyx := {}
  parts := []
  funcs := []
  ctxs := []
  queues := []
  launches := []
  groups := []
  nextId := 0
  pend := []
  bars := []
  tlb := []
  faults := []
  unitSeq := []
  nearLines := []
  origins := []
  holders := []
  serial := 1
  transit := []
  hostHeld := []
  remoteHeld := []
  landings := []
  blanks := []
  fabricOut := []
  hostOut := []
  arbs := []
  pkgDelay := []
  pcie := []
  cxl := []
  glasal := []
  budgets := []
  dbg := {}
  dbgFwd := []

end Sys2Proof.Machine
end

