-- ==== Sys2Proof/Machine/Tab.lean ====
section
/-! DEFINITION. Sparse tables and byte memory as sorted association lists. -/

namespace Sys2Proof

/-- The entry of key `k`, or the table's default `d`. -/
def Tab.get {α : Type} (d : α) : Tab α → Nat → α
  | [], _ => d
  | (k', v) :: t, k => if k = k' then v else Tab.get d t k

/-- Sets key `k`, keeping the keys in order. -/
def Tab.put {α : Type} : Tab α → Nat → α → Tab α
  | [], k, v => [(k, v)]
  | (k', v') :: t, k, v =>
    if k = k' then (k, v) :: t else if k < k' then (k, v) :: (k', v') :: t else (k', v') :: Tab.put t k v

/-- Applies `f` to key `k`'s entry. -/
def Tab.upd {α : Type} (d : α) (t : Tab α) (k : Nat) (f : α → α) : Tab α := Tab.put t k (f (Tab.get d t k))

/-- Removes key `k`. -/
def Tab.del {α : Type} (t : Tab α) (k : Nat) : Tab α := t.filter fun p => p.1 != k

/-- Changes every listed entry. -/
def Tab.mapV {α : Type} (t : Tab α) (f : Nat → α → α) : Tab α := t.map fun p => (p.1, f p.1 p.2)

end Sys2Proof

namespace Sys2Proof.Machine

/-! ## Memory: cells in strictly rising address order, none equal to 0, which an unlisted address reads as -/

/-- What an address that no cell lists reads as (assumption 2). -/
def memDefault : Byte := 0

/-- One byte. -/
def memGet : List Host.Cell → Nat → Byte
  | [], _ => memDefault
  | (a', b) :: m, a => if a = a' then b else memGet m a

/-- Removes an address. -/
def memErase : List Host.Cell → Nat → List Host.Cell
  | [], _ => []
  | (a', b) :: m, a => if a = a' then memErase m a else (a', b) :: memErase m a

/-- Lists an address with a value. -/
def memInsert : List Host.Cell → Nat → Byte → List Host.Cell
  | [], a, b => [(a, b)]
  | (a', b') :: m, a, b =>
    if a = a' then (a, b) :: m else if a < a' then (a, b) :: (a', b') :: m else (a', b') :: memInsert m a b

/-- Writes one byte, keeping the canonical form. -/
def memPut (m : List Host.Cell) (a : Nat) (b : Byte) : List Host.Cell :=
  if b = memDefault then memErase m a else memInsert m a b

/-- Writes bytes from `a` upward. -/
def memPuts : List Host.Cell → Nat → List Byte → List Host.Cell
  | m, _, [] => m
  | m, a, b :: bs => memPuts (memPut m a b) (a + 1) bs

/-- The cells of the bytes from `a` upward: those that are not the default. -/
def cellsOf : Nat → List Byte → List Host.Cell
  | _, [] => []
  | a, b :: bs => if b = memDefault then cellsOf (a + 1) bs else (a, b) :: cellsOf (a + 1) bs

/-- Writes bytes from `a` upward, as `memPuts` does, in one pass over memory: made for many bytes. -/
def memFill (m : List Host.Cell) (a : Nat) (bs : List Byte) : List Host.Cell :=
  (m.filter fun c => decide (c.1 < a)) ++ (cellsOf a bs ++ m.filter fun c => decide (a + bs.length ≤ c.1))

/-- `n` bytes from `a` upward. -/
def memGets (m : List Host.Cell) : Nat → Nat → List Byte
  | _, 0 => []
  | a, n + 1 => memGet m a :: memGets m (a + 1) n

/-- The canonical form: addresses rise strictly above `lo`, and no cell holds the default. -/
def memWfFrom : Option Nat → List Host.Cell → Bool
  | _, [] => true
  | lo, (a, b) :: m => (match lo with | none => true | some l => decide (l < a)) && b != memDefault && memWfFrom (some a) m

/-- The canonical form of a memory. -/
def Memory.wf (m : List Host.Cell) : Bool := memWfFrom none m

/-- Little-endian value of bytes (R2). -/
def leNat : List Byte → Nat
  | [] => 0
  | b :: bs => b.toNat + 256 * leNat bs

/-- The low `n` bytes of a value, lowest first (R2). -/
def leBytes : Nat → Nat → List Byte
  | 0, _ => []
  | n + 1, v => BitVec.ofNat 8 v :: leBytes n (v / 256)

/-- Bits hi down to lo of a natural number. -/
def bits (v hi lo : Nat) : Nat := v / 2 ^ lo % 2 ^ (hi + 1 - lo)
/-- Bit i. -/
def bit (v i : Nat) : Bool := v / 2 ^ i % 2 == 1
/-- Replaces `w` bits at `lo` of `v`. -/
def setBits (v lo w x : Nat) : Nat :=
  v % 2 ^ lo + (x % 2 ^ w) * 2 ^ lo + v / 2 ^ (lo + w) * 2 ^ (lo + w)
/-- Ceiling division. -/
def cdiv (a b : Nat) : Nat := (a + b - 1) / b
/-- Set-bit test in a mask held as a number. -/
def setBit (v i : Nat) (x : Bool) : Nat := setBits v i 1 (if x then 1 else 0)

end Sys2Proof.Machine
end

