-- ==== Sys2Proof/Machine/Ops.lean ====
section
/-! DEFINITION. The named operations over registers, elements, memory and the program counter; taking a trap (R114) and
returning from one (R117). -/

namespace Sys2Proof.Machine

/-! ## Threads -/

/-- A control thread by its key. -/
def State.thOf (s : State) (k : ThreadKey) : Thread := s.threads.get {} k
/-- The control thread whose turn it is. -/
def State.th (s : State) : Thread := s.thOf s.cur
/-- Replaces a control thread. -/
def State.setTh (s : State) (k : ThreadKey) (t : Thread) : State := { s with threads := s.threads.put k t }
/-- Changes a control thread. -/
def State.modTh (s : State) (k : ThreadKey) (f : Thread → Thread) : State := s.setTh k (f (s.thOf k))
/-- Changes the control thread whose turn it is. -/
def State.mod (s : State) (f : Thread → Thread) : State := s.modTh s.cur f
/-- A core by its package core number (R11). -/
def State.core (s : State) (c : Nat) : CoreSt := s.cores.get {} c
/-- Changes a core. -/
def State.modCore (s : State) (c : Nat) (f : CoreSt → CoreSt) : State := { s with cores := s.cores.put c (f (s.core c)) }
/-- A context. -/
def State.ctx (s : State) (c : Nat) : CtxSt := s.ctxs.get {} c
/-- Changes a context. -/
def State.modCtx (s : State) (c : Nat) (f : CtxSt → CtxSt) : State := { s with ctxs := s.ctxs.put c (f (s.ctx c)) }
/-- A partition. -/
def State.part (s : State) (p : Nat) : PartSt := s.parts.get {} p
/-- Changes a partition. -/
def State.modPart (s : State) (p : Nat) (f : PartSt → PartSt) : State := { s with parts := s.parts.put p (f (s.part p)) }
/-- A function's window. -/
def State.fn (s : State) (f : Nat) : FuncSt := s.funcs.get {} f
/-- Changes a function's window. -/
def State.modFn (s : State) (f : Nat) (g : FuncSt → FuncSt) : State := { s with funcs := s.funcs.put f (g (s.fn f)) }
/-- A work queue. -/
def State.q (s : State) (n : Nat) : QueueSt := s.queues.get {} n
/-- Changes a work queue. -/
def State.modQ (s : State) (n : Nat) (f : QueueSt → QueueSt) : State := { s with queues := s.queues.put n (f (s.q n)) }
/-- A string: die × 96 + string (R11). -/
def State.str (s : State) (n : Nat) : StrSt := s.strs.get {} n
/-- Changes a string. -/
def State.modStr (s : State) (n : Nat) (f : StrSt → StrSt) : State := { s with strs := s.strs.put n (f (s.str n)) }
/-- A cluster by its package cluster number (R11). -/
def State.clu (s : State) (n : Nat) : ClSt := s.cls.get {} n
/-- Changes a cluster. -/
def State.modClu (s : State) (n : Nat) (f : ClSt → ClSt) : State := { s with cls := s.cls.put n (f (s.clu n)) }
/-- A group by its number. -/
def State.grp (s : State) (id : Nat) : Option Group := s.groups.find? fun g => g.id == id
/-- Changes a group. -/
def State.modGrp (s : State) (id : Nat) (f : Group → Group) : State :=
  { s with groups := s.groups.map fun g => if g.id == id then f g else g }
/-- A launch by its number. -/
def State.lau (s : State) (id : Nat) : Option Launch := s.launches.find? fun l => l.id == id
/-- Changes a launch. -/
def State.modLau (s : State) (id : Nat) (f : Launch → Launch) : State :=
  { s with launches := s.launches.map fun l => if l.id == id then f l else l }
/-- Appends a turn to the agenda. -/
def State.later (s : State) (i : Instr) : State := { s with agenda := s.agenda ++ [.event i] }
/-- Puts a turn before the agenda's others. -/
def State.soon (s : State) (i : Instr) : State := { s with agenda := .event i :: s.agenda }
/-- Whether a turn has the front end look at a queue's head. -/
def Turn.takes (n : Nat) : Turn → Bool
  | .event (.queueHeadTake m) => m == n
  | _ => false
/-- Asks the front end for a queue's head: the queue stands once in the agenda, which serves the queues round-robin (R225). -/
def State.askHead (s : State) (n : Nat) : State := if s.agenda.any (·.takes n) then s else s.later (.queueHeadTake n)
/-- Appends a message to the fabric (R348). -/
def State.send (s : State) (m : FabMsg) : State := { s with fabricOut := s.fabricOut ++ [m] }

/-- The package core number of a thread (R11). -/
def coreOf (k : ThreadKey) : Nat := k / 4
/-- The thread number on its core. -/
def tidOf (k : ThreadKey) : Nat := k % 4
/-- The die of a core (R11). -/
def dieOf (c : Nat) : Nat := c / 384
/-- The string of a core: die × 96 + string (R11). -/
def strOf (c : Nat) : Nat := c / 384 * 96 + c % 384 / 4
/-- The package cluster number of a core (R11). -/
def cluOf (c : Nat) : Nat := c / 384 * 12 + c % 384 / 32
/-- The level of a core in its string (R11). -/
def levelOf (c : Nat) : Nat := c % 4

/-- The manager register `num` (R49), at its reset value when it has not been written. -/
def State.mgrReg (s : State) (num : Nat) : W64 := s.mgr.get (mgrReset num) num

/-! ## Flat memory addresses -/

/-- Second-tier memory (R346). -/
def farFlat (a : Nat) : Nat := 2 ^ 60 + a
/-- Host memory by host bus address (R193). -/
def hostFlat (a : Nat) : Nat := 2 ^ 61 + a
/-- A core's scratchpad (R189). -/
def spadFlat (core off : Nat) : Nat := 2 ^ 62 + core * 2 ^ 21 + off
/-- Whether a flat address lies in HBM. -/
def isHbm (a : Nat) : Bool := a < 2 ^ 60
/-- Whether a flat address lies in host memory. -/
def isHostFlat (a : Nat) : Bool := 2 ^ 61 ≤ a && a < 2 ^ 62
/-- Whether a flat address lies in a scratchpad. -/
def isSpadFlat (a : Nat) : Bool := 2 ^ 62 ≤ a

/-- One byte of memory. -/
def State.byte (s : State) (a : Nat) : Byte := memGet s.mem a
/-- `n` bytes. -/
def State.bytes (s : State) (a n : Nat) : List Byte := memGets s.mem a n
/-- `n` bytes as a little-endian number. -/
def State.load (s : State) (a n : Nat) : Nat := leNat (s.bytes a n)

/-- The iteration end of R103 at address `pc`, applied to as many enclosing loops as end there. -/
def loopEnd : List LoopRec → W64 → List LoopRec × W64
  | [], pc => ([], pc)
  | r :: rest, pc =>
    if pc = r.e then
      if r.i + 1 < r.n then ({ r with i := r.i + 1 } :: rest, r.b) else loopEnd rest pc
    else (r :: rest, pc)

/-- Sequential flow of the control front to `pc`. -/
def Thread.seqTo (t : Thread) (pc : W64) : Thread :=
  let (l, p) := loopEnd t.loops pc
  { t with loops := l, pc := p }

/-- Whether a control front stands in a wait (R119). -/
def Hold.waits : Hold → Bool
  | .wait _ => true
  | _ => false
/-- The end of a wait: the front goes on at the next fetch unit (R119). -/
def Thread.endWait (t : Thread) : Thread :=
  match t.hold with
  | .wait next => { t.seqTo next with hold := .none }
  | _ => t

/-- The place of an address of another package, as a watch names it: no flat address of this package. -/
def remoteFlat (pkg off : Nat) : Nat := 2 ^ 63 + pkg * 2 ^ 54 + off

/-- Marks the watch of a thread whose block another party writes (R119); the wait then ends. -/
def watchMark (w : Option ThreadKey) (a n : Nat) (k : ThreadKey) (t : Thread) : Thread :=
  match t.watch with
  | none => t
  | some b =>
    if w == some k || n == 0 then t
    else if a / 64 ≤ b && b ≤ (a + n - 1) / 64 then { t.endWait with watchHit := !t.hold.waits }
    else t

/-- Writes bytes; `w` is the control thread whose own access this is, none for a lane thread, an engine or the host. -/
def State.storeBytes (s : State) (w : Option ThreadKey) (a : Nat) (bs : List Byte) : State :=
  { s with mem := memPuts s.mem a bs, threads := s.threads.mapV (watchMark w a bs.length) }
/-- Writes the low `n` bytes of a number. -/
def State.store (s : State) (w : Option ThreadKey) (a n v : Nat) : State := s.storeBytes w a (leBytes n v)
/-- The party that a front instruction of the current thread writes as: itself, or another party when a lane thread runs. -/
def State.party (s : State) : Option ThreadKey := if s.lane.isSome then none else some s.cur

/-- The path of the running party's accesses: 0 for the control front, 16 + i for virtual processor i. -/
def State.who (s : State) : Nat :=
  match s.lane with
  | none => 0
  | some vp => 16 + vp

/-! ## Elements of vector registers and masks -/

/-- Member and local position of element `i`: blocks in member order over the attached members (R25). -/
def locate : List Member → Nat → Nat → Nat × Nat
  | [], m, i => (m, i)
  | [_], m, i => (m, i)
  | x :: y :: rest, m, i =>
    if x.attached && i < x.grant then (m, i)
    else locate (y :: rest) (m + 1) (if x.attached then i - x.grant else i)

/-- Nw of member `m` of a distribution. -/
def nwOf (ms : List Member) (m : Nat) : Nat := (ms[m]?.map (·.nw)).getD 0

/-- `w` bits of register group vn at bit offset `off` of member `m`'s element space (R124). DESIGN CHOICE (log entry 53): a lane thread's
specifier reads on the same way, in whole registers after vn. -/
def groupBits (v : VecState) (ms : List Member) (m n off w : Nat) : Nat :=
  let p := nwOf ms m * 512
  if p == 0 then 0 else ((v.vregs.get 0 (32 * m + n + off / p)).extractLsb' (off % p) w).toNat

/-- Writes `w` bits of register group vn of member `m`. -/
def setGroupBits (v : VecState) (ms : List Member) (m n off w x : Nat) : VecState :=
  let p := nwOf ms m * 512
  if p == 0 then v
  else
    let key := 32 * m + n + off / p
    { v with vregs := v.vregs.put key (BitVec.ofNat 32768 (setBits (v.vregs.get 0 key).toNat (off % p) w x)) }

/-- Element `i` of register group vn, `w` bits wide. -/
def readElem (v : VecState) (ms : List Member) (n w i : Nat) : Nat :=
  let (m, j) := locate ms 0 i
  groupBits v ms m n (j * w) w

/-- Writes element `i`. -/
def writeElem (v : VecState) (ms : List Member) (n w i x : Nat) : VecState :=
  let (m, j) := locate ms 0 i
  setGroupBits v ms m n (j * w) w x

/-- The elements of the first `vl` that each attached member holds: all of them where there is one, its grant's share in a span (R25,
R125). -/
def shares : List Member → Nat → List (Member × Nat)
  | [], _ => []
  | m :: ms, vl =>
    if !m.attached then (m, 0) :: shares ms vl
    else if ms.all (!·.attached) then (m, vl) :: ms.map fun x => (x, 0)
    else (m, min m.grant vl) :: shares ms (vl - m.grant)

/-- Raises the high-water marks of one member's registers of a group written with `n` of its elements of `w` bits. -/
def touchMember (m : Nat) (x : Member) (r g n w : Nat) (v : VecState) : VecState :=
  let total := cdiv (n * w) 512 * 64
  (List.range g).foldl (fun v k =>
    let part := min (x.nw * 64) (total - k * (x.nw * 64))
    if part == 0 then v else { v with dirty := v.dirty.upd 0 (32 * m + r + k) fun d => if d < part then part else d }) v

/-- Raises the high-water marks of a group written with `vl` elements of `w` bits, on each member (R217); a mark of 0 is a clean
register. -/
def touch (v : VecState) (ms : List Member) (n g vl w : Nat) : VecState :=
  (shares ms vl).zipIdx.foldl (fun v p => touchMember p.2 p.1.1 n g p.1.2 w v) v

/-- Bit `i` of mask mk; m0 reads all-true (R43). -/
def maskBit (v : VecState) (ms : List Member) (k i : Nat) : Bool :=
  if k == 0 then true else let (m, j) := locate ms 0 i; bit (v.masks.get 0 (8 * m + k)) j

/-- Writes bit `i` of mask mk. -/
def setMaskBit (v : VecState) (ms : List Member) (k i : Nat) (x : Bool) : VecState :=
  let (m, j) := locate ms 0 i
  { v with masks := v.masks.upd 0 (8 * m + k) fun b => setBit b j x }

/-- The all-false flag of a mask (R47): set exactly when no bit of it is set; m0's is clear. -/
def allFalse (v : VecState) (k : Nat) : Bool :=
  k != 0 && (List.range 4).all fun m => v.masks.get 0 (8 * m + k) == 0

/-- The tag of vn (R43: N64 until set). -/
def tagOf (v : VecState) (n : Nat) : ETag := v.tags.get .n64 n

/-! ## Scalar registers, as the control front or a lane thread names them -/

/-- The captured tag of vn for the lane threads in flight. -/
def Thread.laneTag (t : Thread) (n : Nat) : ETag := ((t.fetch.map (·.tags)).getD [])[n]?.getD .n64
/-- The VL that the fetch of the lane threads captured. -/
def Thread.laneVl (t : Thread) : Nat := (t.fetch.map (·.vl)).getD 0
/-- The distribution the lane threads act on. -/
def Thread.laneDist (t : Thread) : List Member := (t.fetch.map (·.dist)).getD []

/-- Reads an element as a lane thread does: sign-extended for I tags, zero-extended otherwise (R105). -/
def laneRead (t : Thread) (vp n : Nat) : W64 :=
  let g := t.laneTag n
  let x := readElem t.v t.laneDist n g.bits vp
  if g.isI then BitVec.ofInt 64 (readInt true g.bits x) else BitVec.ofNat 64 x

/-- The value of scalar specifier `n` (R43, R44, R105). -/
def getScalar (t : Thread) (lane : Option Nat) (n : Nat) : W64 :=
  if n = 0 then 0
  else match lane with
    | some vp => laneRead t vp n
    | none => if t.ui.inn && 24 ≤ n then t.shadow.get 0 n else t.sregs.get 0 n

/-- Writes element `vp` of vn as a lane thread does, at the element's size (R105), and marks the registers of the captured VL's elements
dirty, as a load of the thread would (R217). -/
def laneWrite (t : Thread) (vp n : Nat) (x : W64) : VecState :=
  touch (writeElem t.v t.laneDist n (t.laneTag n).bits vp x.toNat) t.laneDist n 8 t.laneVl (t.laneTag n).bits

/-- Writes scalar specifier `n`; a write to specifier 0 is discarded (R43, R44, R105). -/
def setScalar (t : Thread) (lane : Option Nat) (n : Nat) (x : W64) : Thread :=
  if n = 0 then t
  else match lane with
    | some vp => { t with v := laneWrite t vp n x }
    | none => if t.ui.inn && 24 ≤ n then { t with shadow := t.shadow.put n x } else { t with sregs := t.sregs.put n x }

/-- The scalar a specifier names, for the instruction being run. -/
def State.getS (s : State) (n : SReg) : W64 := getScalar s.th s.lane n.toNat
/-- Writes a scalar, for the instruction being run. -/
def State.setS (s : State) (n : SReg) (x : W64) : State := s.mod fun t => setScalar t s.lane n.toNat x

/-! ## The program counter, loops and lane threads -/

/-- A taken branch ends every loop whose body does not hold its target (R103). -/
def loopsAt : List LoopRec → W64 → List LoopRec
  | [], _ => []
  | r :: rest, pc => if r.b.toNat ≤ pc.toNat && pc.toNat < r.e.toNat then r :: rest else loopsAt rest pc

/-- A taken branch or jump of the control front. -/
def Thread.jumpTo (t : Thread) (pc : W64) : Thread := { t with loops := loopsAt t.loops pc, pc := pc }

/-- Changes one lane thread; none removes it (it has joined or exited). -/
def setLane (f : FetchRec) (vp : Nat) (l : Option LaneTh) : FetchRec :=
  { f with lanes := f.lanes.filterMap fun p => if p.1 == vp then l.map fun x => (vp, x) else some p }
/-- The lane thread of a virtual processor. -/
def laneOf (f : FetchRec) (vp : Nat) : Option LaneTh := (f.lanes.find? fun p => p.1 == vp).map (·.2)
/-- Drops a fetch that has started and has no lane thread left (R107). -/
def tidyFetch (f : FetchRec) : Option FetchRec := if f.started && f.lanes.isEmpty then none else some f

/-- Sequential flow of a lane thread: the end of its vfetch's block joins it; the end of a later block goes on after it (R107). -/
def laneSeq (l : LaneTh) (pc : W64) : Option LaneTh :=
  if l.blkEnd = some pc then
    if l.inVec then none else some { l with pc := pc, blkEnd := none, jumped := false }
  else some { l with pc := pc, jumped := false }
/-- A taken branch of a lane thread, or of a virtual processor in its block, which diverges (R107). -/
def laneJump (l : LaneTh) (pc : W64) : LaneTh := { l with pc := pc, blkEnd := none, inVec := false, jumped := true }

/-- Applies a change to the lane thread being run. -/
def Thread.modLane (t : Thread) (vp : Nat) (f : LaneTh → Option LaneTh) : Thread :=
  match t.fetch with
  | none => t
  | some r => match laneOf r vp with
    | none => t
    | some l => { t with fetch := tidyFetch (setLane r vp (f l)) }

/-- Bytes of the fetch unit being run. -/
def FetchForm.size (f : FetchForm) : Nat := if f.long then 8 else 4
/-- The address of the next fetch unit. -/
def FetchForm.nextAddr (f : FetchForm) : W64 := f.addr + BitVec.ofNat 64 f.size

/-- The instruction retires and its party goes on at the next fetch unit (R103, R107). -/
def State.advance (s : State) : State := s.mod fun t =>
  match s.lane with
  | none => { t.seqTo t.fu.nextAddr with hold := .none }
  | some vp => t.modLane vp (fun l => laneSeq l t.fu.nextAddr)
/-- The party goes on at a branch target (R99, R103, R107). -/
def State.jump (s : State) (pc : W64) : State := s.mod fun t =>
  match s.lane with
  | none => { t.jumpTo pc with hold := .none }
  | some vp => t.modLane vp (fun l => some (laneJump l pc))
/-- The instruction has not run: it is retried at its party's next turn. A lane thread's wait does not hold the control front. -/
def State.holdOn (s : State) (h : Hold) : State := if s.lane.isSome then s else s.mod fun t => { t with hold := h }

/-! ## Event and trace rings (R345, R358) -/

/-- Appends bytes to a host ring of 2^logcap slots of `sz` bytes. -/
def ringPut (s : State) (base : W64) (logcap wr sz : Nat) (bs : List Byte) : State :=
  s.storeBytes none (hostFlat (base.toNat + sz * (wr % 2 ^ logcap))) bs

/-- A log record for a function (R345); a full or disabled ring discards it and LOST rises by 1. -/
def State.log (s : State) (func code : Nat) (addr info : Nat) : State :=
  let f := s.fn func
  let seq := s.unitSeq.get 0 4 + 1
  let s : State := { s with unitSeq := s.unitSeq.put 4 seq }
  let bs := leBytes 8 (code + func * 2 ^ 8 + 2 ^ 63) ++ leBytes 8 addr ++ leBytes 8 info ++ leBytes 8 seq
  if bit f.evctl.toNat 5 && f.evwr - f.evrd < 2 ^ bits f.evctl.toNat 4 0 then
    (ringPut s f.evbase (bits f.evctl.toNat 4 0) f.evwr 32 bs).modFn func fun f => { f with evwr := f.evwr + 1 }
  else s.modFn func fun f => { f with evlost := f.evlost + 1 }

/-- A trace record for a function (R358). -/
def State.trace (s : State) (func : Nat) (bs : List Byte) : State :=
  let f := s.fn func
  if bit f.trctl.toNat 5 && f.trwr - f.trrd < 2 ^ bits f.trctl.toNat 4 0 then
    (ringPut s f.trbase (bits f.trctl.toNat 4 0) f.trwr 128 bs).modFn func fun f => { f with trwr := f.trwr + 1 }
  else s.modFn func fun f => { f with trlost := f.trlost + 1 }

/-! ## Stopping a context's groups -/

/-- Whether an instruction has started: it has passed a gate, or stands in the access unit (R41). -/
def Entry.started (e : Entry) : Bool := e.released || !e.gates.isEmpty || e.begun

/-- Marks every loaded group of a context as stopping and asks for its save (R216, R240). A group in Loading completes its load first; at
a freeze it stops at once, its state not in place. -/
def State.stopGroups (s : State) (c : Nat) (freeze : Bool) : State :=
  let ids := (s.groups.filter fun g => g.ctx == c && (g.st == .loaded || (freeze && g.st == .loading))).map (·.id)
  { s with
    groups := s.groups.map fun g =>
      if g.ctx != c then g
      else match g.st with
        | .loaded => { g with st := .stopping }
        | .loading => { g with stopAfter := true, st := if freeze then .stopping else .loading }
        | _ => g
    agenda := s.agenda ++ ids.map fun i => Turn.event (.saveComplete i) }

/-- Entries of the stop record that a stop of the thread leaves (R351): at a trap all that stand in the queues, otherwise those after the
last started one, which complete before the stop (R41). -/
def Thread.stopCount (t : Thread) (atTrap : Bool) : Nat :=
  (if atTrap then t.pipe.length else (t.pipe.reverse.takeWhile fun e : Entry => !e.started).length) + t.trap.stop.length

/-- Freezes a context (R219, R210): groups stop and save, queues block, a CODE 11 record is logged. -/
def State.freezeCtx (s : State) (c cause : Nat) (who : Option ThreadKey) : State :=
  let x := s.ctx c
  match x.st with
  | .running | .resident | .preempting | .saved | .faulted =>
    let (addr, info) := match who with
      | some k =>
        let t := s.thOf k
        (t.pc.toNat, cause + c * 2 ^ 8 + coreOf k * 2 ^ 20 + tidOf k * 2 ^ 31 + t.stopCount (cause != 0xFE) * 2 ^ 33)
      | none => (0, cause + c * 2 ^ 8 + 0x7FF * 2 ^ 20)
    let s := s.stopGroups c true
    let s := s.modCtx c fun x => { x with st := .frozen }
    let s : State := { s with queues := s.queues.mapV fun _ q =>
      if q.ctx == c && (q.st == .empty || q.st == .ready || q.st == .blocked) then { q with st := .blocked } else q }
    s.log (s.part x.part).func 11 addr info
  | _ => s

/-! ## Taking a trap -/

/-- A trap's description: cause, DETAIL, INDEX, TRAPVA, the trapping fetch unit, whether a lane thread's, the resume address. -/
structure TrapDesc where
  cause  : Nat
  detail : Nat := 0
  index  : Nat := 0
  va     : W64 := 0
  fu     : FetchForm
  lane   : Bool := false
  resume : W64
deriving DecidableEq, Repr

/-- TRAPINFO of a trap (R59). -/
def TrapDesc.info (d : TrapDesc) : W64 :=
  BitVec.ofNat 64 (d.cause % 2 ^ 8 + d.detail % 2 ^ 16 * 2 ^ 8 + d.index % 2 ^ 32 * 2 ^ 24
    + (if d.lane then 2 ^ 56 else 0) + (if d.fu.long then 2 ^ 57 else 0))

/-- An address field in bits 63:2 (R112, R113). -/
def pcField (a : W64) : W64 := a &&& ~~~(3 : W64)

/-- Whether a part of an instruction that has started is under way, at a gate, in the execute unit or in the access unit. -/
def Entry.inFlight (e : Entry) : Bool := e.released || !e.gates.isEmpty || (e.begun && !e.accDone)
/-- Whether the front may trap now: every routed instruction that has started has completed (R41). -/
def Thread.canStop (t : Thread) : Bool := t.pipe.all (!·.started)
/-- Whether the oldest routed instruction may trap now: nothing younger is in flight. A younger load that has read its elements and waits
for its execute half is held with them in the stop record (DEDUCED: log entry 62). -/
def Thread.headMayTrap (t : Thread) : Bool := (t.pipe.drop 1).all (!·.inFlight)

/-- Steps 1 to 6 of R114 on the thread. -/
def enterTrap (t : Thread) (d : TrapDesc) : Thread :=
  { t with
    pc := pcField t.trap.tvec
    sup := true
    loops := []
    hold := .none
    pipe := []
    fetch := none
    v := { t.v with vstart := 0 }
    trap := { t.trap with
      info := d.info, va := d.va, pc := pcField d.fu.addr, evstart := t.v.vstart,
      epc := pcField d.resume ||| (if t.sup then 1 else 0), inTrap := true,
      stop := t.pipe, loops := t.loops, fetch := t.fetch } }

/-- The trap that freezes the context: a trap at supervisor level before the ERET of an earlier one (R114). -/
def freezeTrap (t : Thread) (d : TrapDesc) : Thread :=
  { t with hold := .none, trap := { t.trap with info := d.info, va := d.va, pc := pcField d.fu.addr } }

/-- Takes a trap in thread `k` (R114). -/
def State.takeTrap (s : State) (k : ThreadKey) (d : TrapDesc) : State :=
  let t := s.thOf k
  if t.sup && t.trap.inTrap then (s.modTh k (freezeTrap · d)).freezeCtx t.ctx d.cause (some k)
  else s.modTh k (enterTrap · d)

/-- The description of a trap raised by the instruction being run by the control front or by a lane thread (R110, R114). -/
def State.trapDesc (s : State) (cause detail : Nat) (va : W64) : TrapDesc :=
  let t := s.th
  match s.lane with
  | none => { cause, detail, va, fu := t.fu, resume := t.fu.addr }
  | some vp => { cause, detail, va, index := vp, fu := t.fu, lane := true, resume := t.pc }

/-- The instruction being run traps, once every routed instruction that has started has completed (R41); until then it is retried. -/
def State.trap (s : State) (cause detail : Nat) (va : W64 := 0) : State :=
  if s.th.canStop then s.takeTrap s.cur (s.trapDesc cause detail va) else s.holdOn .none
/-- As `trap`, resuming at the next fetch unit (R114: SVC). -/
def State.trapAfter (s : State) (cause detail : Nat) : State :=
  if !s.th.canStop then s.holdOn .none
  else
    let d := s.trapDesc cause detail 0
    let s := s.advance
    s.takeTrap s.cur { d with resume := s.th.pc }

/-! Cause codes (R60, R111, R286, R305, R321, R334). -/

def cILLOP : Nat := 0x01
def cILLREG : Nat := 0x02
def cILLTYPE : Nat := 0x03
def cMISALIGN : Nat := 0x04
def cPAGEFAULT : Nat := 0x05
def cPROT : Nat := 0x06
def cSCALECOUNT : Nat := 0x07
def cPALSTATE : Nat := 0x08
def cLENTWRITE : Nat := 0x09
def cSEVERED : Nat := 0x0A
def cQFULL : Nat := 0x0B
def cBARFAULT : Nat := 0x0C
def cSPANFAULT : Nat := 0x0D
def cPRIV : Nat := 0x0E
def cBRK : Nat := 0x0F
def cARITH : Nat := 0x10
def cQBAL : Nat := 0x11
def cCTLSTATE : Nat := 0x12
def cSVC : Nat := 0x13
def cLINKFAULT : Nat := 0x14
def cCOPYFAULT : Nat := 0x15
def cHARMFAULT : Nat := 0x16
def cPWRFAULT : Nat := 0x17

/-- ILLREG for a specifier out of limits: its value and its field (R91). -/
def State.illReg (s : State) (field value : Nat) : State := s.trap cILLREG (field * 2 ^ 8 + value % 2 ^ 8)

/-! ## Returning from a trap (R117) -/

/-- An entry as its reissue finds it: one stopped part-way starts at `start` (R53). -/
def Entry.resumeAt (start : Nat) (e : Entry) : Entry := if e.partWay then { e with start, partWay := false } else e

/-- The return: level, pc, VSTART and the suspended loops come back; the stop record is put back at the head of the queues,
its part-way entry with the restored VSTART as its start (R53). -/
def leaveTrap (t : Thread) : Thread :=
  { t with
    sup := t.trap.epc.getLsbD 0
    pc := pcField t.trap.epc
    loops := t.trap.loops
    fetch := t.trap.fetch
    v := { t.v with vstart := if t.trap.stop.any (·.partWay) then 0 else t.trap.evstart }
    pipe := t.pipe ++ t.trap.stop.map (Entry.resumeAt t.trap.evstart)
    trap := { t.trap with inTrap := false, stop := [], loops := [], fetch := none } }

/-- The reissue of the entries of a thread that pre-emption or a halt stopped (R41): a store stopped on a lent page captures VSTART, which
returns to 0 (R53, R216). -/
def reissue (t : Thread) : Thread :=
  if t.pipe.any (·.partWay) then
    { t with pipe := t.pipe.map (Entry.resumeAt t.v.vstart), v := { t.v with vstart := 0 } }
  else t

end Sys2Proof.Machine
end

