-- ==== Sys2Proof/Machine/Flags.lean ====
section
/-! DEFINITION. FSTAT.FLAGS and EIX (R56, R57): how an instruction's classes merge at its completion. -/

namespace Sys2Proof.Machine

/-- Classes raised, each at an element index: (index, set of classes in FLAGS order). -/
abbrev Raised := List (Nat × Nat)

/-- The union of the classes raised. -/
def allRaised : Raised → Nat
  | [] => 0
  | (_, f) :: r => f ||| allRaised r

/-- The lowest index at which class `c` (0–6) was raised. -/
def lowestOf (c : Nat) : Raised → Option Nat
  | [] => none
  | (i, f) :: r =>
    if bit f c then (match lowestOf c r with | none => some i | some j => some (if i < j then i else j)) else lowestOf c r

/-- FSTAT with classes merged into FLAGS (R56). -/
def orFlags (fstat : W64) (f : Nat) : W64 := fstat ||| BitVec.ofNat 64 (f % 2 ^ 7 * 2 ^ 8)

/-- One EIX entry with index `j` recorded (R57): bit 63 is V. -/
def eixNote (x : W64) (j : Nat) : W64 :=
  if bit x.toNat 63 then BitVec.ofNat 64 (2 ^ 63 + (if bits x.toNat 31 0 < j then bits x.toNat 31 0 else j))
  else BitVec.ofNat 64 (2 ^ 63 + j % 2 ^ 32)

/-- Records the lowest index of each class from `c` upward, `n` classes. -/
def noteAll (t : Tab W64) (r : Raised) : Nat → Nat → Tab W64
  | 0, _ => t
  | n + 1, c => match lowestOf c r with
    | none => noteAll t r n (c + 1)
    | some j => noteAll (t.upd 0 c (eixNote · j)) r n (c + 1)

/-- Merges an instruction's classes into FLAGS and EIX (R56, R57). -/
def mergeFlags (v : VecState) (r : Raised) : VecState :=
  if allRaised r == 0 then v else { v with fstat := orFlags v.fstat (allRaised r), eix := noteAll v.eix r 7 0 }

/-- TEN (R56). -/
def trapEnables (v : VecState) : Nat := bits v.fstat.toNat 22 16

/-- The lowest index at which any class of a set was raised. -/
def lowestIn (set : Nat) : Raised → Option Nat
  | [] => none
  | (i, f) :: r =>
    if f &&& set == 0 then lowestIn set r
    else match lowestIn set r with
      | none => some i
      | some j => some (if i < j then i else j)

end Sys2Proof.Machine
end

