-- ==== Sys2Proof/Machine/Harm.lean ====
section
/-! DEFINITION. Harm accounting: arbiters, blame, wait quanta, settlement (R306–R317), and rdharm and hclr (R318–R321). -/

namespace Sys2Proof.Machine

/-! ## Keys, classes and arbiter numbers -/

/-- The key of an owner of a partition (R306). -/
def keyOf (part owner : Nat) : Nat := part * 64 + owner
/-- The key of the thread whose turn it is. -/
def State.ownKey (s : State) : Nat := keyOf s.th.part s.th.owner
/-- The key that stands for the environment (R308). -/
def envKey : Nat := 1024
/-- A key's partition. -/
def keyPart (k : Nat) : Nat := k / 64
/-- A key's owner. -/
def keyOwner (k : Nat) : Nat := k % 64

/-- An arbiter's number: its class of R318 above its index (R16). -/
def arbNum (cls idx : Nat) : Nat := cls * 2 ^ 20 + idx
/-- An arbiter's class. -/
def arbCls (a : Nat) : Nat := a / 2 ^ 20
def clsSpad : Nat := 1
def clsPort : Nat := 2
def clsNet : Nat := 3
def clsHbm : Nat := 4
def clsCopy : Nat := 5
def clsHost : Nat := 6
def clsWalk : Nat := 7
def clsSeq : Nat := 8
def clsGlasal : Nat := 9

/-- The memory port of a physical address (R12): stack × 4 + the 256-byte unit's place. -/
def portOf (pa : Nat) : Nat :=
  let s := pa / 2 ^ 33 % 64
  (2 * (s / 16) + s % 16 / 8) * 4 + pa / 256 % 4

/-- The bank of a core's scratchpad that holds a word (R162). -/
def bankOf (word : Nat) : Nat := (word ^^^ (word / 64)) % 64

/-! Units that send and receive messages, beyond the cores (R10): memory ports, CXL ports, PCIe links, Glasal ports, the I/O die, and
each die's barrier unit and translation unit. -/

def unitPort (p : Nat) : Nat := 1536 + p
def unitCxl (p : Nat) : Nat := 1600 + p
def unitLink (l : Nat) : Nat := 1616 + l
def unitGlasal (g : Nat) : Nat := 1632 + g
def unitIo : Nat := 1664
def unitBar (d : Nat) : Nat := 1668 + d
def unitWalk (d : Nat) : Nat := 1672 + d
/-- The unit of a party: its core, or the I/O die for one that is no control thread. -/
def unitOf (k : ThreadKey) : Nat := if k < 6144 then coreOf k else unitIo

/-- A key's weight (R306, R316). -/
def State.weight (s : State) (key : Nat) : Nat :=
  let w := bits (s.mgrReg (0x900 + 8 * keyPart key + keyOwner key / 8)).toNat (8 * (keyOwner key % 8) + 7) (8 * (keyOwner key % 8))
  if w == 0 then 1 else w

/-- PEN and REP of a partition; PPEN and PREP of the package (R316). -/
def State.pen (s : State) (p : Nat) : Nat := bits (s.mgrReg (0x980 + p)).toNat 7 0
def State.rep (s : State) (p : Nat) : Nat := bits (s.mgrReg (0x980 + p)).toNat 15 8
def State.ppen (s : State) : Nat := bits (s.mgrReg 0x990).toNat 7 0
def State.prep (s : State) : Nat := bits (s.mgrReg 0x990).toNat 15 8

/-! ## Virtual time (R315) -/

/-- x − y modulo 2^32, read as signed (R315). -/
def vtDiff (x y : Nat) : Int :=
  let d : Nat := (x + 2 ^ 32 - y % 2 ^ 32) % 2 ^ 32
  if d < 2 ^ 31 then (d : Int) else (d : Int) - ((2 ^ 32 : Nat) : Int)
/-- A VT raised by a signed amount, modulo 2^32. -/
def vtAdd (x : Nat) (d : Int) : Nat := (((x : Int) + d) % ((2 ^ 32 : Nat) : Int)).toNat
/-- One VT under a floor F: raised to F, or lowered to F + 2^24 (R315). -/
def clampVt (f x : Nat) : Nat :=
  if vtDiff x f < 0 then f else if 16777216 < vtDiff x f then vtAdd f 16777216 else x

/-- A key's VT at an arbiter. -/
def Arb.vtOf (a : Arb) (k : Nat) : Nat := a.vt.get a.base k
/-- The waiting requests that may be granted: those within their budgets (R317). -/
def Arb.ready (a : Arb) : List Req := a.waiting.filter (·.need == 0)
/-- The keys with such a request (R314). -/
def Arb.backlog (a : Arb) : List Nat := (a.ready.map (·.key)).eraseDups

/-- The smallest VT among keys. -/
def Arb.minVt (a : Arb) : List Nat → Option Nat
  | [] => none
  | k :: ks => match a.minVt ks with
    | none => some (a.vtOf k)
    | some m => some (if vtDiff (a.vtOf k) m ≤ 0 then a.vtOf k else m)

/-- Clamp() of R315. -/
def Arb.clamp (a : Arb) : Arb :=
  match a.minVt a.backlog with
  | none => a
  | some m =>
    let f := vtAdd m (-65536)
    { a with base := clampVt f a.base, vt := a.vt.mapV fun _ x => clampVt f x }

/-- Settlement of one key (R314). -/
def settleKey (s : State) (a : Arb) (k : Nat) : Arb :=
  let up := a.hsUp.get 0 k * s.pen (keyPart k) + a.hxUp.get 0 k * s.ppen + a.remU.get 0 k
  let dn := a.hsDn.get 0 k * s.rep (keyPart k) + a.hxDn.get 0 k * s.prep + a.remD.get 0 k
  { a with
    vt := a.vt.put k (vtAdd (a.vtOf k) (up / 64 - dn / 64 : Int))
    remU := a.remU.put k (up % 64), remD := a.remD.put k (dn % 64)
    hsUp := a.hsUp.put k 0, hxUp := a.hxUp.put k 0, hsDn := a.hsDn.put k 0, hxDn := a.hxDn.put k 0 }

/-- The keys with unsettled quanta. -/
def Arb.harmed (a : Arb) : List Nat :=
  ((a.hsUp.map (·.1)) ++ (a.hxUp.map (·.1)) ++ (a.hsDn.map (·.1)) ++ (a.hxDn.map (·.1))).eraseDups

/-- The better of two waiting requests: smaller VT, then longer wait, then lower owner, then lower partition (R314). -/
def Arb.better (a : Arb) (x y : Req) : Req :=
  let d := vtDiff (a.vtOf x.key) (a.vtOf y.key)
  if d < 0 then x else if 0 < d then y
  else if y.age < x.age then x else if x.age < y.age then y
  else if keyOwner x.key < keyOwner y.key then x else if keyOwner y.key < keyOwner x.key then y
  else if keyPart y.key < keyPart x.key then y else x

/-- Removes the first request equal to `r`. -/
def dropReq (r : Req) : List Req → List Req
  | [] => []
  | x :: xs => if x == r then xs else x :: dropReq r xs

/-- Whether a number is that of a pass-through queue, which serves its requests in the order they came and keeps no virtual time: a
die-to-die link (R16). -/
def isFifo (n : Nat) : Bool := arbCls n == clsNet && decide (2 ^ 19 ≤ n % 2 ^ 20)
/-- The request granted first of those that may be: `x` the longest there. -/
def Arb.first (a : Arb) (n : Nat) (x : Req) (rest : List Req) : Req := if isFifo n then x else rest.foldl a.better x

/-- One decision of R314: settle, clamp, choose, charge, clamp; the request chosen. -/
def decideArb (s : State) (a : Arb) : Arb × Option Req :=
  match a.ready with
  | [] => (a, none)
  | r0 :: rest =>
    let a := (a.harmed.foldl (settleKey s) a).clamp
    let w := rest.foldl a.better r0
    let t := w.beats * 4096 + a.remV.get 0 w.key
    let a := { a with
      vt := a.vt.put w.key (vtAdd (a.vtOf w.key) (t / s.weight w.key : Nat))
      remV := a.remV.put w.key (t % s.weight w.key) }
    let a := a.clamp
    ({ a with waiting := dropReq w a.waiting, serving := some w }, some w)

/-- An arbiter. -/
def State.arb (s : State) (n : Nat) : Arb := s.arbs.get {} n
/-- Changes an arbiter. -/
def State.modArb (s : State) (n : Nat) (f : Arb → Arb) : State := { s with arbs := s.arbs.put n (f (s.arb n)) }

/-- The decision of an arbiter or a pass-through queue. -/
def chooseArb (s : State) (n : Nat) (a : Arb) : Arb × Option Req :=
  if isFifo n then
    match a.ready with
    | [] => (a, none)
    | r :: _ => ({ a with waiting := dropReq r a.waiting, serving := some r }, some r)
  else decideArb s a

/-- Whether an arbiter takes no new request at once: it serves one, others wait there, or the environment holds it. -/
def Arb.busy (a : Arb) : Bool := a.serving.isSome || !a.ready.isEmpty || a.env

/-- A request arrives at an arbiter: a free one decides and serves it at once; at a busy one it waits. -/
def enterArb (s : State) (t : Tab Arb) (n : Nat) (r : Req) : Tab Arb :=
  t.upd {} n fun a =>
    let b := { a with waiting := a.waiting ++ [r] }
    if a.busy then b else { (chooseArb s n b).1 with serving := none }

/-- B of a grant for a request of `n` bytes (R313). -/
def beatsAt (arb n : Nat) : Nat :=
  if arbCls arb == clsSpad then 1 else if arbCls arb == clsPort then cdiv n 32 else max 1 (cdiv n 64)

/-- A request arrives at the first stage of a path, and passes on to the next while it is served at once. -/
def askArb (s : State) (r : Req) : List Nat → Tab Arb → Tab Arb
  | [], t => t
  | n :: rest, t =>
    let x := { r with beats := beatsAt n r.bytes, next := rest }
    if (t.get {} n).busy then enterArb s t n x
    else (askArb s r rest (enterArb s t n x)).upd {} n fun a =>
      { a with serving := if (rest.head?).any fun m => (t.get {} m).busy then some x else a.serving }

/-- A request granted at an arbiter enters its next stage; while that stage holds it, it holds the arbiter (R308). -/
def passArb (s : State) (t : Tab Arb) (n : Nat) (r : Req) : Tab Arb :=
  if (r.next.head?).any fun m => (t.get {} m).busy then (askArb s r r.next t).upd {} n fun a => { a with serving := some r }
  else askArb s r r.next t

/-- A request of `n` bytes along a path of stages. -/
def pathArb (s : State) (t : Tab Arb) (key n : Nat) (src : Option ThreadKey) (l : List Nat) : Tab Arb :=
  askArb s { key, beats := 0, blame := key, age := 0, bytes := n, src } l t

/-- A request arrives. -/
def State.enter (s : State) (n : Nat) (r : Req) : State := { s with arbs := enterArb s s.arbs n r }
/-- A request of `beats` beats arrives. -/
def State.request (s : State) (n key beats : Nat) : State := s.enter n { key, beats, blame := key, age := 0 }

/-- The die of a unit, 4 for the I/O die (R10). -/
def dieOfUnit (u : Nat) : Nat :=
  if u < 1536 then dieOf u else if u < 1600 then (u - 1536) / 8 else if u < 1616 then u - 1600
  else if 1632 ≤ u && u < 1664 then (u - 1632) / 3 else if 1668 ≤ u && u < 1672 then u - 1668
  else if 1672 ≤ u then u - 1672 else 4
/-- The router outputs of a die on the way between two units; the I/O die has none (R16). -/
def routersOn (d from_ dest : Nat) : List Nat :=
  if 4 ≤ d then [] else (Config.routerOutputs d from_ dest).map fun o => arbNum clsNet (o % 2 ^ 19)
/-- The die-to-die link from one die to another, a pass-through queue (R16). -/
def dieLink (a b : Nat) : Nat := arbNum clsNet (2 ^ 19 + 5 * a + b)
/-- The stages of a message between two units: the routers of its dies, and the link between them (R10, R16). -/
def route (from_ dest : Nat) : List Nat :=
  let a := dieOfUnit from_
  let b := dieOfUnit dest
  if from_ == dest then [] else if a == b then routersOn a from_ dest
  else routersOn a from_ dest ++ dieLink a b :: routersOn b from_ dest

/-- A message of `n` bytes between two units. -/
def State.message (s : State) (from_ dest key n : Nat) : State := { s with arbs := pathArb s s.arbs key n none (route from_ dest) }

/-- The arbiter of a Glasal port in one direction (R16). -/
def glasalArb (port : Nat) (inbound : Bool) : Nat := arbNum clsGlasal (2 * port + if inbound then 1 else 0)

/-- A message of `n` bytes to or from another package: the Glasal port of its route, and the routers between it and a unit (R307). -/
def State.crosses (s : State) (unit key pkg : Nat) (inbound : Bool) (n : Nat) : State :=
  let p := Config.glasalPort pkg inbound % 12
  let l := if inbound then glasalArb p true :: route (unitGlasal p) unit else route unit (unitGlasal p) ++ [glasalArb p false]
  { s with arbs := pathArb s s.arbs key n none l }

/-- The PCIe link of a request to a host bus address (R340): bit 12 while both links are up, the live one otherwise. -/
def State.hostLink (s : State) (a : Nat) : Nat :=
  if (s.pcie.get {} 0).up && (s.pcie.get {} 1).up then a / 4096 % 2 else if (s.pcie.get {} 1).up then 1 else 0

/-- A partition's budget for reads or writes, in bytes an interval; 0 is none (R316). -/
def State.budgetOf (s : State) (p : Nat) (wr : Bool) : Nat :=
  let r := (s.mgrReg (0x9A0 + p)).toNat
  (if wr then bits r 31 16 else bits r 15 0) * 4096

/-- What is left of a direction's budget in this interval. -/
def Budget.left (b : Budget) (wr : Bool) : Nat := if wr then b.wr else b.rd
/-- What an oversize request still takes of the next intervals. -/
def Budget.due (b : Budget) (wr : Bool) : Nat := if wr then b.wrDue else b.rdDue
/-- Sets both. -/
def Budget.put (b : Budget) (wr : Bool) (left due : Nat) : Budget :=
  if wr then { b with wr := left, wrDue := due } else { b with rd := left, rdDue := due }

/-- A host link's arbiter: one for host-originated requests, one for the device's own (R16). -/
def hostArb (link : Nat) (fromHost : Bool) : Nat := arbNum clsHost (2 * link + if fromHost then 0 else 1)

/-- A request at a host-link arbiter; one past its partition's budget waits there for an interval (R317). -/
def State.hostRequest (s : State) (link : Nat) (fromHost : Bool) (key n : Nat) (wr : Bool) : State :=
  let p := keyPart key
  let i := link * 16 + p
  let b := s.budgets.get {} i
  let a := hostArb link fromHost
  let beats := max 1 (cdiv n 64)
  let free := s.budgetOf p wr == 0
  let within := decide (n ≤ b.left wr)
  { s with
    budgets := if !free && within then s.budgets.put i (b.put wr (b.left wr - n) (b.due wr)) else s.budgets
    arbs := if free || within then enterArb s s.arbs a { key, beats, blame := key, age := 0 }
      else s.arbs.upd {} a fun x => { x with waiting := x.waiting ++ [{ key, beats, blame := key, age := 0, need := n, wr }] } }

/-- A word access at a bank of a core's scratchpad (R162, R313), with the message that a unit other than the core sends there. -/
def wordArb (s : State) (unit key : Nat) (src : Option ThreadKey) (t : Tab Arb) (word : Nat) : Tab Arb :=
  let core := word / 2 ^ 18 % 2 ^ 11
  pathArb s t key 8 src (route unit core ++ [arbNum clsSpad (core * 64 + bankOf (word % 2 ^ 18))])

/-- A request for `n` bytes of one 64-byte block of HBM: the routers, the memory port, and the channel scheduler behind it (R12, R313). -/
def blockArb (s : State) (unit key : Nat) (src : Option ThreadKey) (t : Tab Arb) (lo n : Nat) : Tab Arb :=
  let p := portOf lo
  pathArb s t key n src (route unit (unitPort p) ++ [arbNum clsPort p, arbNum clsHbm p])

/-- The requests of an access of `n` bytes inside the package, made by unit `unit` (R385): one for each word of a scratchpad, and one for
each 64-byte block of HBM or of far memory. -/
def accessArb (s : State) (unit key : Nat) (src : Option ThreadKey) (t : Tab Arb) (flat n : Nat) : Tab Arb :=
  let blocks := if n == 0 then 0 else (flat + n - 1) / 64 - flat / 64 + 1
  let lo := fun i => if i == 0 then flat else (flat / 64 + i) * 64
  let hi := fun i => if i + 1 == blocks then flat + n else (flat / 64 + i + 1) * 64
  if isSpadFlat flat then
    (List.range (if n == 0 then 0 else (flat + n - 1) / 8 - flat / 8 + 1)).foldl (fun t i => wordArb s unit key src t (flat / 8 + i)) t
  else if isHbm flat then (List.range blocks).foldl (fun t i => blockArb s unit key src t (lo i) (hi i - lo i)) t
  else if isHostFlat flat then pathArb s t key n src (route unit (unitLink (s.hostLink flat)))
  else (List.range blocks).foldl (fun t i => pathArb s t key (hi i - lo i) src (route unit (unitCxl (flat / 2 ^ 40 % 4)))) t

/-- The requests of an access of `n` bytes at a flat address, and the host link's (R313, R385). -/
def State.accessReqs (s : State) (unit key flat n : Nat) (wr : Bool) (src : Option ThreadKey) : State :=
  let t := { s with arbs := accessArb s unit key src s.arbs flat n }
  if isHostFlat flat then t.hostRequest (s.hostLink flat) false key n wr else t

/-- The host link's requests of several elements of `n` bytes, one for each 64-byte block. -/
def State.elemHostReqs (s : State) (key n : Nat) (wr : Bool) (flats : List Nat) : State :=
  (((flats.filter isHostFlat).map (· / 64)).eraseDups).foldl (fun s b =>
    s.hostRequest (s.hostLink (b * 64)) false key (n * (flats.filter (· / 64 == b)).length) wr) s

/-- The requests of a vec-path access, or of a copy strip's reads or writes, whose elements stood at `flats`, of `n` bytes each: one for
each distinct word of a scratchpad, and one of 64 bytes for each distinct block elsewhere (R162, R385). -/
def State.elemReqs (s : State) (unit key n : Nat) (wr : Bool) (src : Option ThreadKey) (flats : List Nat) : State :=
  let words := ((flats.filter isSpadFlat).map (· / 8)).eraseDups
  let blocks := ((flats.filter (!isSpadFlat ·)).map (· / 64)).eraseDups
  let t := words.foldl (fun t w => wordArb s unit key src t w) s.arbs
  let t := blocks.foldl (fun t b => accessArb s unit key src t (b * 64) 64) t
  ({ s with arbs := t } : State).elemHostReqs key n wr flats

/-! ## Quanta (R308, R309, R311) -/

/-- Adds to a 48-bit saturating counter (R311). -/
def sat48 (x d : Nat) : Nat := if x + d < 2 ^ 48 then x + d else 2 ^ 48 - 1

/-- The cell index of a partition matrix (R311). -/
def cellIdx (cls row col : Nat) : Nat := (cls * 64 + row) * 65 + col
/-- The cell index of a package matrix (R312). -/
def pkgIdx (cls row col : Nat) : Nat := (cls * 16 + row) * 17 + col

/-- Records `n` quanta of a victim under the culprit `c` (R309). -/
def State.recordWait (s : State) (cls victim c n : Nat) : State :=
  let p := keyPart victim
  if c == envKey then
    let s := s.modPart p fun x => { x with delay := x.delay.upd 0 (cellIdx cls (keyOwner victim) 64) (sat48 · n) }
    { s with pkgDelay := s.pkgDelay.upd 0 (pkgIdx cls p 16) (sat48 · n) }
  else if keyPart c == p then
    s.modPart p fun x => { x with delay := x.delay.upd 0 (cellIdx cls (keyOwner victim) (keyOwner c)) (sat48 · n) }
  else { s with pkgDelay := s.pkgDelay.upd 0 (pkgIdx cls p (keyPart c)) (sat48 · n) }

/-- Counts a victim's quanta toward settlement at the arbiter where it waited (R309); diagonal and environment quanta never. -/
def Arb.unsettled (a : Arb) (victim c n : Nat) : Arb :=
  if c == envKey || c == victim then a
  else if keyPart c == keyPart victim then
    { a with hsUp := a.hsUp.upd 0 c (· + n), hsDn := a.hsDn.upd 0 victim (· + n) }
  else { a with hxUp := a.hxUp.upd 0 c (· + n), hxDn := a.hxDn.upd 0 victim (· + n) }

/-- The current blame of a request of key `k` that arbiter `n` keeps back: the environment's, or that of the request served there or
granted first, which the stages before it may keep back in turn; `fuel` bounds the chain (R308). -/
def blameFrom (s : State) : Nat → Nat → Nat → Nat
  | 0, _, k => k
  | f + 1, n, k =>
    let a := s.arb n
    if a.env then envKey
    else match a.serving with
      | some g => (match g.next with
        | [] => g.key
        | m :: _ => blameFrom s f m g.key)
      | none => match a.ready with
        | [] => k
        | x :: rest => (a.first n x rest).key

/-- The current blame of a request waiting at an arbiter (R308); its own while it waits for its budget (R317). -/
def blameAt (s : State) (n : Nat) (r : Req) : Nat := if r.need != 0 then r.key else blameFrom s (s.arbs.length + 1) n r.key

/-- The core on which an arbiter stands, for the two classes whose arbiters run at a core's clocks (R16). -/
def arbCore (n : Nat) : Option Nat :=
  if arbCls n == clsSpad then some (n % 2 ^ 20 / 64) else if arbCls n == clsSeq then some (n % 2 ^ 20) else none

/-- The clock of a cluster's step in MHz (R1, R335). -/
def stepMhz : Nat → Nat
  | 0 => 2400
  | 1 => 2640
  | _ => 2880

/-- What one cycle of a core's clock counts, in 1/256 of a quantum: 2,400 ÷ f, twice that at half clock (R309, R330). -/
def coreQuantum (step : Nat) (half : Bool) (frac : Nat) : Nat :=
  let n := 2400 * 256 * if half then 2 else 1
  n / stepMhz step + if n % stepMhz step != 0 && Config.quantumUp step half frac then 1 else 0

/-- The number of a cell, for the fraction carried in it. -/
def cellOf (victim c : Nat) : Nat := victim * 1025 + c
/-- What a cell holds with this cycle's count, in 1/256 of a quantum: a cycle of the main clock counts 256 (R309). -/
def State.cellUnits (s : State) (n victim c : Nat) : Nat :=
  let frac := (s.arb n).frac.get 0 (cellOf victim c)
  frac + match arbCore n with
    | none => 256
    | some k => coreQuantum (s.clu (cluOf k)).cur (s.str (strOf k)).half frac
/-- Records the whole quanta of a cycle in a cell, and carries the fraction (R309). -/
def State.postCell (s : State) (n victim c : Nat) : State :=
  let u := s.cellUnits n victim c
  let s := s.recordWait (arbCls n) victim c (u / 256)
  if u % 256 == (s.arb n).frac.get 0 (cellOf victim c) then s
  else s.modArb n fun a => { a with frac := a.frac.put (cellOf victim c) (u % 256) }

/-- One waiting request's cycle: recorded, and counted toward settlement (R309). -/
def postReq (n : Nat) (s : State) (r : Req) : State :=
  let c := blameAt s n r
  let q := s.cellUnits n r.key c / 256
  (s.postCell n r.key c).modArb n fun a => if isFifo n then a else a.unsettled r.key c q

/-- One cycle of waiting at an arbiter (R309). -/
def State.postQuanta (s : State) (n : Nat) : State :=
  let rs := (s.arb n).waiting
  let blames := rs.map fun r => blameAt s n r
  let s := rs.foldl (postReq n) s
  s.modArb n fun a => { a with waiting := (rs.zip blames).map fun p => { p.1 with age := p.1.age + 1, blame := p.2 } }

/-- A strip's request has been granted: the channel may start it (R295). -/
def State.grantStrip (s : State) (r : Req) : State :=
  match r.strip with
  | none => s
  | some (k, ch) =>
    (s.modTh k fun t => if ch == 0 then { t with ch0 := { t.ch0 with go := t.ch0.asked } } else { t with ch1 := { t.ch1 with go := t.ch1.asked } }).later
      (.stripStart k ch)

/-- ARBITER_GRANT (R314): the request served passes on, and the arbiter decides if its resource is free and a key backlogged. -/
def arbiterGrant (s : State) (n : Nat) : State :=
  let a := s.arb n
  if a.env then s
  else
    let held := match a.serving with
      | none => false
      | some r => (r.next.head?).any fun m => (s.arb m).busy
    if held then s
    else match chooseArb s n { a with serving := none } with
      | (a, none) => s.modArb n fun _ => a
      | (a, some r) => ({ s with arbs := passArb s (s.arbs.put n a) n r } : State).grantStrip r

/-- HBM_REFRESH (R15): holds or frees an HBM channel scheduler. -/
def hbmRefresh (s : State) (n : Nat) (on : Bool) : State :=
  if arbCls n == clsHbm then s.modArb n fun a => { a with env := on } else s

/-! ## Reading and clearing -/

/-- A partition-matrix cell, class 0 the saturated sum of the nine (R318, R319). -/
def State.delayCell (s : State) (p cls r c : Nat) : Nat :=
  let d := (s.part p).delay
  if cls == 0 then ((List.range 9).foldl (fun a i => sat48 a (d.get 0 (cellIdx (i + 1) r c))) 0) else d.get 0 (cellIdx cls r c)
/-- A package-matrix cell, likewise. -/
def State.pkgCell (s : State) (cls r c : Nat) : Nat :=
  if cls == 0 then ((List.range 9).foldl (fun a i => sat48 a (s.pkgDelay.get 0 (pkgIdx (i + 1) r c))) 0)
  else s.pkgDelay.get 0 (pkgIdx cls r c)

/-- The value rdharm returns (R319). -/
def rdharmValue (s : State) (t : Thread) (r c : Nat) : Nat :=
  let cls := bits t.hsel.toNat 3 0
  if bit t.hsel.toNat 4 then
    if 15 < r || 16 < c || (r != t.part && c != t.part) then 0 else s.pkgCell cls r c
  else if 63 < r || 64 < c then 0 else s.delayCell t.part cls r c

/-- RDHARM (R319). -/
def execRdharm (d a b : SReg) (s : State) : Host.Outcome State Fault Refusal :=
  .next ((s.setS d (BitVec.ofNat 64 (rdharmValue s s.th (s.getS a).toNat (s.getS b).toNat))).advance)

/-- MAT of hclr: clears the owner's row and column in every class (R320). -/
def clearMat (x : PartSt) (o : Nat) : PartSt :=
  { x with delay := x.delay.filter fun e => !(e.1 / 65 % 64 == o || e.1 % 65 == o) }

/-- VTR of hclr at one arbiter (R320). -/
def clearVtr (k : Nat) (a : Arb) : Arb :=
  let v := match a.minVt a.backlog with
    | some m => m
    | none => a.vtOf k
  { a with vt := a.vt.put k v, remV := a.remV.put k 0, remU := a.remU.put k 0, remD := a.remD.put k 0,
           hsUp := a.hsUp.put k 0, hxUp := a.hxUp.put k 0, hsDn := a.hsDn.put k 0, hxDn := a.hxDn.put k 0 }

/-- PWR of hclr (R320, R329). -/
def clearPwr (x : PartSt) (o : Nat) : PartSt := { x with gateu := x.gateu.put o 0, washu := x.washu.put o 0 }

/-- The clears of hclr for one owner of partition `p`. -/
def hclrOwner (p : Nat) (x : Nat) (s : State) (o : Nat) : State :=
  let s := if bit x 7 then s.modPart p (clearMat · o) else s
  let s : State := if bit x 8 then { s with arbs := s.arbs.mapV fun n a => if isFifo n then a else clearVtr (keyOf p o) a } else s
  if bit x 9 then s.modPart p (clearPwr · o) else s

/-- HCLR (R320). The model holds no quantum waited and not posted, so the hold ends at once. -/
def execHclr (a : SReg) (s : State) : Host.Outcome State Fault Refusal :=
  let x := (s.getS a).toNat
  .next <|
    if !s.th.sup then s.trap cPRIV 0
    else if x / 2 ^ 10 != 0 || bits x 9 7 == 0 then s.trap cHARMFAULT 1
    else
      let os := if bit x 6 then List.range 64 else [bits x 5 0]
      (os.foldl (hclrOwner s.th.part x) s).advance

/-- ARBITER_GRANT (R314). -/
def execArbiterGrant (n : Nat) (s : State) : Host.Outcome State Fault Refusal := .next (arbiterGrant s n)
/-- HBM_REFRESH (R15). -/
def execHbmRefresh (n : Nat) (on : Bool) (s : State) : Host.Outcome State Fault Refusal := .next (hbmRefresh s n on)

/-- A partition's budgets on a link at the start of an interval, less what an oversize request still takes (R317). -/
def freshBudget (s : State) (p : Nat) (b : Budget) : Budget :=
  let left := fun wr => s.budgetOf p wr - min (s.budgetOf p wr) (b.due wr)
  let due := fun wr => if s.budgetOf p wr == 0 then 0 else b.due wr - min (s.budgetOf p wr) (b.due wr)
  { rd := left false, wr := left true, tr := bits (s.mgrReg (0x9A0 + p)).toNat 47 32 * 4096, rdDue := due false, wrDue := due true }

/-- A waiting request at the start of an interval: it passes its budget, or takes the whole of it and of those that follow as far as it
needs, or waits on (R317). -/
def passBudget (s : State) (r : Req) (b : Budget) : Req × Budget :=
  let lim := s.budgetOf (keyPart r.key) r.wr
  let left := b.left r.wr
  if lim == 0 then ({ r with need := 0 }, b)
  else if r.need ≤ left then ({ r with need := 0 }, b.put r.wr (left - r.need) (b.due r.wr))
  else if left == lim then ({ r with need := 0 }, b.put r.wr 0 (r.need - lim))
  else (r, b)

/-- The waiting requests of an arbiter of a link, in order. -/
def passBudgets (s : State) (link : Nat) : List Req → Tab Budget → List Req × Tab Budget
  | [], b => ([], b)
  | r :: rs, b =>
    if r.need == 0 then
      let (rs, b) := passBudgets s link rs b
      (r :: rs, b)
    else
      let i := link * 16 + keyPart r.key
      let (r, x) := passBudget s r (b.get {} i)
      let (rs, b) := passBudgets s link rs (b.put i x)
      (r :: rs, b)

/-- The requests that waited at an arbiter of a link for the interval. -/
def State.passArbBudgets (s : State) (link n : Nat) : State :=
  let (rs, b) := passBudgets s link (s.arb n).waiting s.budgets
  ({ s with budgets := b } : State).modArb n fun a => { a with waiting := rs }

/-- BUDGET_INTERVAL (R317): every partition's budgets on a link renew, and the requests that waited are looked at in order. -/
def execBudgetInterval (link : Nat) (s : State) : Host.Outcome State Fault Refusal :=
  let s : State := { s with budgets := (List.range 16).foldl (fun b p =>
    b.put (link * 16 + p) (freshBudget s p (b.get {} (link * 16 + p)))) s.budgets }
  .next ((s.passArbBudgets link (hostArb link true)).passArbBudgets link (hostArb link false))

end Sys2Proof.Machine
end

