-- ==== Sys2Proof/Machine/Translate.lean ====
section
/-! DEFINITION. Address spaces (R189–R193), page tables (R262–R270), and one access of a party: where it lands, whom it waits
for, or how it fails. -/

namespace Sys2Proof.Machine

/-- Where an address leads before translation (R189). `remote` and `paged` hold offsets; `bad` fails check 1 of R270. -/
inductive Target where
  | spad (core off : Nat)
  | paged (tgt va : Nat)
  | remote (pkg off : Nat)
  | bad
deriving DecidableEq, Repr

/-- The offset limit of the scratchpad spaces (R189). -/
def spadLimit : Nat := 0x180000

/-- A scalar address (R190), issued on die `die` by core `core`. -/
def scalarTarget (core : Nat) (a : W64) : Target :=
  let x := a.toNat
  match x / 2 ^ 60 with
  | 0 => if x / 2 ^ 57 == 0 then .paged 0 x else .bad
  | 1 => if bits x 59 57 == 0 then .paged 1 (x % 2 ^ 57) else .bad
  | 2 => if bits x 59 57 == 0 then .paged 2 (x % 2 ^ 57) else .bad
  | 3 => .remote (bits x 59 54) (x % 2 ^ 54)
  | 14 =>
    if bits x 59 30 == 0 && bits x 29 21 < 384 && x % 2 ^ 21 < spadLimit then .spad (dieOf core * 384 + bits x 29 21) (x % 2 ^ 21)
    else .bad
  | 15 => if bits x 59 21 == 0 && x % 2 ^ 21 < spadLimit then .spad core (x % 2 ^ 21) else .bad
  | _ => .bad

/-- An address of a vector, matrix-fill, copy or gather access under a captured MTR (R191): bits 63:60 are ignored, and the
package or core bits too where MTR supplies them. -/
def vectorTarget (core : Nat) (m : Mtr) (a : W64) : Target :=
  let x := a.toNat
  match m.space with
  | 0 => if bits x 59 21 == 0 && x % 2 ^ 21 < spadLimit then .spad core (x % 2 ^ 21) else .bad
  | 1 => if bits x 59 30 == 0 && x % 2 ^ 21 < spadLimit then .spad (dieOf core * 384 + m.core) (x % 2 ^ 21) else .bad
  | 2 => if bits x 59 57 == 0 then .paged 0 (x % 2 ^ 57) else .bad
  | 3 => if bits x 59 57 == 0 then .paged 1 (x % 2 ^ 57) else .bad
  | 4 => .remote m.pkg (x % 2 ^ 54)
  | 5 => if bits x 59 57 == 0 then .paged 2 (x % 2 ^ 57) else .bad
  | _ => .bad

/-! ## Page tables -/

/-- The levels of the tree: bit of the lowest index bit, index bits, whether a leaf may stand there (R262). -/
def levels : List (Nat × Nat × Bool) := [(48, 9, false), (39, 9, false), (30, 9, true), (21, 9, true), (16, 5, true)]

/-- What a walk finds (R262–R265). -/
inductive Walk where
  | leaf (entry lvl : Nat)
  | invalid
  | malformed (addr : Nat)
deriving DecidableEq, Repr

/-- Whether a leaf is well formed at a level with `lo` as its lowest index bit (R265). -/
def leafOk (slices : List Nat) (lo : Nat) (mayLeaf : Bool) (e : Nat) : Bool :=
  mayLeaf && bits e 63 52 == 0 && !bit e 15 && bits e 6 5 != 3 && decide (bits e 12 10 ≤ 4)
    && (bits e 51 16 * 2 ^ 16) % 2 ^ lo == 0
    && (bits e 6 5 != 0 || (decide (bits e 51 16 * 2 ^ 16 < 2 ^ 39) && slices.contains (bits e 51 33)))

/-- Whether a table pointer is well formed (R265): the next level decides its alignment. -/
def tableOk (lastLevel : Bool) (nextSmall : Bool) (e : Nat) : Bool :=
  !lastLevel && bits e 63 52 == 0 && bits e 7 2 == 0 && (nextSmall || bits e 11 8 == 0)

/-- Whether a tree of tables has a leaf that passes a test (R262). -/
def treeAny (mem : List Host.Cell) (slices : List Nat) (p : Nat → Nat → Bool) : List (Nat × Nat × Bool) → Nat → Bool
  | [], _ => false
  | (lo, n, ml) :: rest, base =>
    (List.range (2 ^ n)).any fun i =>
      let e := leNat (memGets mem (base + 8 * i) 8)
      bit e 0 && (if bit e 1 then leafOk slices lo ml e && p e lo
        else tableOk rest.isEmpty (rest.length == 1) e && treeAny mem slices p rest (bits e 51 8 * 2 ^ 8))

/-- Walks the tree from a table's physical address (R262). -/
def walkFrom (mem : List Host.Cell) (slices : List Nat) (va : Nat) : List (Nat × Nat × Bool) → Nat → Walk
  | [], _ => .invalid
  | (lo, n, ml) :: rest, base =>
    let addr := base + va / 2 ^ lo % 2 ^ n * 8
    let e := leNat (memGets mem addr 8)
    if !bit e 0 then .invalid
    else if bit e 1 then if leafOk slices lo ml e then .leaf e lo else .malformed addr
    else if tableOk rest.isEmpty (rest.length == 1) e then walkFrom mem slices va rest (bits e 51 8 * 2 ^ 8)
    else .malformed addr

/-- A walk of a context's tree (R262, R207). -/
def State.walk (s : State) (c : Nat) (va : Nat) : Walk :=
  let x := s.ctx c
  walkFrom s.mem (s.part x.part).slices va levels x.ptroot

/-- The translation unit that serves a core's misses: its die's; the I/O die's serves every other party (R269). -/
def tlbUnit (core : Nat) : Nat := if core < 1536 then 1536 + dieOf core else 1540
/-- The number of a party that is no core. -/
def ioCore : Nat := 1536

/-- The translation of a page for a core: one cached there or in its translation unit first, otherwise the walk's (R269). -/
def State.lookup (s : State) (core c : Nat) (va : Nat) : Walk :=
  match s.tlb.find? fun t => ((decide (core < 1536) && t.unit == core) || t.unit == tlbUnit core) && t.ctx == c && t.page == va / 2 ^ 16 with
  | some t => .leaf t.leaf.toNat t.lvl
  | none => s.walk c va

/-- The flat address of a leaf's target at an offset (R263). -/
def leafFlat (e lo va : Nat) : Nat :=
  let pa := bits e 51 16 * 2 ^ 16 + va % 2 ^ lo
  match bits e 6 5 with
  | 0 => pa
  | 1 => farFlat pa
  | _ => hostFlat pa

/-- Whether a flat address's 64 KiB page is lent: a live link holds it (R268, R288). -/
def State.isLent (s : State) (flat : Nat) : Bool :=
  s.origins.any fun o => (o.st == .opened || o.st == .delivered || o.st == .pulling) && o.pages.contains (flat / 65536)

/-- Whether a range meets a lent page. -/
def State.lentRange (s : State) (addr n : Nat) : Bool :=
  (List.range ((addr + n - 1) / 65536 - addr / 65536 + 1)).any fun i => s.isLent ((addr / 65536 + i) * 65536)

/-- Kinds of access (R273). -/
inductive AKind where
  | read | write | fetch | atomic
deriving DecidableEq, Repr

/-- The code of a kind in a fault record (R273). -/
def AKind.code : AKind → Nat
  | .read => 0 | .write => 1 | .fetch => 2 | .atomic => 3
/-- Writes and atomics. -/
def AKind.writes : AKind → Bool
  | .write | .atomic => true
  | _ => false

/-- The state of a deferred-backed address (R270 check 9, R287). -/
inductive SegState where
  | plain
  | unpulled (sid : W64) (seg : Nat) (inFlight : Bool)
  | severed
deriving DecidableEq, Repr

/-- The holder record whose window holds an address of a context, and the segment (R275, R287). -/
def State.segment (s : State) (c va : Nat) : SegState :=
  match s.holders.find? fun h =>
    h.ctx == c && decide (h.stub.laddr.toNat ≤ va) && decide (va < h.stub.laddr.toNat + cdiv h.stub.len 4096 * 4096) with
  | none => .plain
  | some h =>
    let seg := (va - h.stub.laddr.toNat) / 4096
    if bit h.pulled seg then .plain
    else if h.st == .severed then .severed
    else if h.st == .drained then .plain
    else .unpulled h.stub.sid seg (h.flight.contains seg)

/-- The outcome of the checks of R270 for one access. -/
inductive Trans where
  | ok (flat : Nat) (leaf : Nat)
  | notPresent (migw : Bool)
  | prot
  | malformed (addr : Nat)
  | lent (flat : Nat)
  | unpulled (sid : W64) (seg : Nat) (inFlight : Bool)
  | severed
deriving DecidableEq, Repr

/-- Checks 2 to 9 of R270 in a context's tables, for a core or `ioCore`; `tgts` are the targets the access accepts (check 4). -/
def State.translate (s : State) (core c : Nat) (user : Bool) (kind : AKind) (tgts : List Nat) (va : Nat) : Trans :=
  match s.lookup core c va with
  | .invalid => .notPresent false
  | .malformed a => .malformed a
  | .leaf e lo =>
    let flat := leafFlat e lo va
    if !tgts.contains (bits e 6 5) then .prot
    else if user && !bit e 4 then .prot
    else if kind == .fetch && !bit e 3 then .prot
    else if kind.writes && !bit e 2 then .prot
    else if kind.writes && bit e 14 && !s.isLent flat then .notPresent true
    else if kind.writes && s.isLent flat then .lent flat
    else if bit e 13 then
      match s.segment c va with
      | .plain => .ok flat e
      | .unpulled sid seg f => .unpulled sid seg f
      | .severed => .severed
    else .ok flat e

/-- Whether a group of a context holds a range on a core. -/
def Group.holdsOn (g : Group) (c core : Nat) : Bool :=
  (g.st == .loaded || g.st == .stopping) && g.ctx == c && g.mems.any (fun m => m.1 == core)

/-- Whether a scratchpad range holds the bytes: the thread's own group's where it holds one on the core, otherwise one of its context's
groups there (R192). -/
def State.spadOk (s : State) (k : ThreadKey) (c core off n : Nat) : Bool :=
  let mine := fun (g : Group) => (s.thOf k).group == some g.id
  let own := core == coreOf k || s.groups.any fun g => mine g && g.holdsOn c core
  s.groups.any fun g =>
    g.holdsOn c core && (!own || mine g) && decide (g.scrOff ≤ off) && decide (off + n ≤ g.scrOff + g.scrb * 4096)

/-- PEERTAB entry of a package: the peer context, when one is bound (R207); the table is read at a physical address, as PTROOT is. -/
def State.peerCtx (s : State) (c pkg : Nat) : Option Nat :=
  let p := (s.ctx c).peertab.toNat
  if p == 0 then none
  else
    let e := s.load (p + 8 * pkg) 8
    if bit e 63 then some (bits e 11 0) else none

/-- Whether a package is reached: in the domain and not lost (R54, R350). -/
def State.reachable (s : State) (pkg : Nat) : Bool :=
  s.urnyx.members.contains pkg && !s.urnyx.lostPeers.contains pkg

/-- What an access comes to. -/
inductive AccOut where
  /-- It is performed at a flat address. -/
  | at (flat : Nat) (leaf : Nat)
  /-- A peer performed it. -/
  | replied (bytes : List Byte)
  /-- A peer found that the element misses its scope (R199). -/
  | missed
  | fault (cause : Nat) (migw : Bool) (s : State)
  /-- It waits; the state holds any message sent for it. -/
  | stall (h : Hold) (s : State)

/-- The launch of a thread's group, or of the exited one whose strips run on. -/
def State.launchId (s : State) (k : ThreadKey) : Option Nat :=
  let t := s.thOf k
  match t.exitedOf with
  | some l => some l
  | none => (t.group.bind s.grp).map (·.launch)

/-- Starts the pull of a segment for a unit (R287): one request to the origin, and the stub is pulling; `l` is the launch that started it (R239). -/
def State.startPull (s : State) (unit c : Nat) (sid : W64) (seg part owner : Nat) (l : Option Nat) : State :=
  let s := (s.send (.pullReq (bits sid.toNat 63 58) sid seg part owner)).crosses unit (keyOf part owner) (bits sid.toNat 63 58) false 0
  { s with holders := s.holders.map fun h =>
      if h.ctx == c && h.stub.sid == sid then
        { h with flight := h.flight ++ [seg], pullers := h.pullers ++ l.toList.map ((seg, ·)), st := if h.st == .delivered then .pulling else h.st }
      else h }

/-- A party of a thread waits with a write to a lent page (R288). -/
def Thread.waitLent (who : Nat) (t : Thread) : Thread := { t with stall := t.stall.upd 0 who id }
/-- Forgets a party's stall: the access has been made or has failed. -/
def Thread.endStall (who : Nat) (t : Thread) : Thread := { t with stall := t.stall.del who }
/-- Forgets a party's stall. -/
def State.clearStall (s : State) (k : ThreadKey) (who : Nat) : State :=
  if (s.thOf k).stall.isEmpty then s else s.modTh k (Thread.endStall who)

/-- Drops the replies and requests of a party's access that has ended. -/
def State.endReplies (s : State) (k : ThreadKey) (who : Nat) : State :=
  let t := s.thOf k
  if t.replies.isEmpty && t.asked.isEmpty then s
  else s.modTh k fun t => { t with
    replies := t.replies.filter fun r => r.who != who
    asked := t.asked.filter fun x => x.1 != who }

/-- Whether a remote access writes or is an atomic. -/
def remoteWrites : RemoteOp → Bool
  | .read _ => false
  | _ => true

/-- The data bytes that a remote access sends. -/
def remoteBytes : RemoteOp → Nat
  | .read _ => 0
  | .write bs => bs.length
  | .capp idx => 4 * idx.length
  | _ => 8

/-- A remote access has been sent. -/
def Thread.asks (q : Nat × Nat × W64 × Bool) (t : Thread) : Thread := { t with asked := t.asked ++ [q] }

/-- A remote access (R193, R350): PROT, a reply already here, or a request and a wait. Request and reply name the address on the peer. -/
def State.remote (s : State) (k : ThreadKey) (who : Nat) (user : Bool) (pkg off : Nat) (n : Nat) (rop : RemoteOp) : AccOut :=
  let t := s.thOf k
  let va := BitVec.ofNat 64 off
  if !s.reachable pkg then .fault cPROT false s
  else match s.peerCtx t.ctx pkg with
    | none => .fault cPROT false s
    | some pc =>
      match t.replies.find? fun r => r.who == who && r.pkg == pkg && r.va == va && r.wr == remoteWrites rop with
      | some r =>
        match r.out with
        | .data bs => .replied bs
        | .notPresent m => .fault cPAGEFAULT m s
        | .prot => .fault cPROT false s
        | .ring _ absent m => .fault (if absent then cPAGEFAULT else cPROT) m s
        | .miss => .missed
      | none =>
        if t.asked.contains (who, pkg, va, remoteWrites rop) then
          if remoteWrites rop && t.stall.get 0 who != 0 then .fault cLENTWRITE false s else .stall (.remote pkg) s
        else .stall (.remote pkg)
          (((s.send (.remote pkg k pc va user n rop)).crosses (unitOf k) (keyOf t.part t.owner) pkg false (remoteBytes rop)).modTh k fun t =>
            (if remoteWrites rop then t.waitLent who else t).asks (who, pkg, va, remoteWrites rop))

/-- One access of thread `k` to a target: `n` bytes, naturally aligned (R189–R193, R270, R288). A fetch reaches the global, far and
host spaces alone. -/
def State.access (s : State) (k : ThreadKey) (who : Nat) (user : Bool) (kind : AKind) (tg : Target) (n : Nat) (rop : RemoteOp) :
    AccOut :=
  let t := s.thOf k
  match tg with
  | .bad => .fault cPROT false s
  | .spad core off =>
    if kind != .fetch && s.spadOk k t.ctx core off n then .at (spadFlat core off) 0 else .fault cPROT false s
  | .paged tgt v =>
    match s.translate (coreOf k) t.ctx user kind [tgt] v with
    | .ok flat e =>
      if tgt == 1 && (s.cxl.get {} (flat / 2 ^ 40 % 4)).down then .fault cPROT false s else .at flat e
    | .notPresent m => .fault cPAGEFAULT m s
    | .prot => .fault cPROT false s
    | .malformed a => .fault cPROT false (s.log (s.part t.part).func 3 a 0)
    | .severed => .fault cSEVERED false s
    | .lent flat =>
      if t.stall.get 0 who < (s.ctx t.ctx).lnkbnd * 1024 then .stall (.lent flat) (s.modTh k (Thread.waitLent who)) else .fault cLENTWRITE false s
    | .unpulled sid seg f => .stall .pull (if f then s else s.startPull (unitOf k) t.ctx sid seg t.part t.owner (s.launchId k))
  | .remote pkg off => if kind == .fetch then .fault cPROT false s else s.remote k who user pkg off n rop

/-- The place of a leaf's atomics and accesses: the line a near cache holds (R266, R267). -/
def State.nearTouch (s : State) (flat leaf : Nat) : State :=
  if isHbm flat && bit leaf 7 && !bit leaf 8 && !s.nearLines.contains (flat / 64) then
    { s with nearLines := s.nearLines ++ [flat / 64] }
  else s

/-- The live contexts of a partition. -/
def State.ctxsOf (s : State) (p : Nat) : List Nat := (s.ctxs.filter fun e => e.2.part == p && e.2.st != .dead).map (·.1)

/-- Whether a leaf of device memory maps an address. -/
def leafHolds (addr e lo : Nat) : Bool :=
  bits e 6 5 == 0 && decide (bits e 51 16 * 2 ^ 16 ≤ addr) && decide (addr < bits e 51 16 * 2 ^ 16 + 2 ^ lo)

/-- Whether a live context of a partition maps an address of device memory through a leaf that passes a test. -/
def State.anyMaps (s : State) (p addr : Nat) (f : Nat → Bool) : Bool :=
  (s.ctxsOf p).any fun c =>
    s.tlb.any (fun t => t.ctx == c && leafHolds addr t.leaf.toNat t.lvl && f t.leaf.toNat)
      || treeAny s.mem (s.part p).slices (fun e lo => leafHolds addr e lo && f e) levels (s.ctx c).ptroot

/-- The near-cache lines of an access that has no leaf of its own, of a host or a pull, in a partition's memory (R267). -/
def State.nearReach (s : State) (p addr n : Nat) : State :=
  let lines := (List.range ((addr + n - 1) / 64 - addr / 64 + 1)).map (addr / 64 + ·)
  let pages := (lines.map (· / 1024)).eraseDups.filter fun g => s.anyMaps p (g * 65536) fun e => bit e 7 && !bit e 8
  (lines.filter fun l => pages.contains (l / 1024)).foldl (fun s l => s.nearTouch (64 * l) (2 ^ 7)) s

/-- The requests and the near-cache touch of an access performed for party `who` of thread `k`. -/
def State.touched (s : State) (k : ThreadKey) (who flat n leaf : Nat) (wr : Bool) : State :=
  let t := s.thOf k
  ((s.accessReqs (unitOf k) (keyOf t.part t.owner) flat n wr (if who == 1 then some k else none)).nearTouch flat leaf).clearStall k who

/-- A fault record waits to be posted, unless its page is fault-pending already (R272 step 2, R268). -/
def State.faultPending (s : State) (k : ThreadKey) (va : W64) (path kind : Nat) (migw : Bool) : State :=
  let t := s.thOf k
  let page := va.toNat % 2 ^ 57 / 2 ^ 16
  if s.faults.any fun f => f.ctx == t.ctx && f.va.toNat % 2 ^ 57 / 2 ^ 16 == page then s
  else
    let r : FaultRec := { ctx := t.ctx, owner := t.owner, path, kind, migw, va, core := coreOf k, thr := tidOf k, seq := 0,
                          part := t.part, posted := false }
    { s with faults := s.faults ++ [r], agenda := s.agenda ++ [.event (.faultRecordPost (dieOf (coreOf k)))] }

/-- Swaps a context out for a page fault (R272): the record waits to be posted, the groups stop, the context waits for the page;
a frozen context is not swapped out. -/
def State.pageFault (s : State) (k : ThreadKey) (va : W64) (path kind : Nat) (migw : Bool) : State :=
  let t := s.thOf k
  let page := va.toNat % 2 ^ 57 / 2 ^ 16
  let s := s.faultPending k va path kind migw
  if (s.ctx t.ctx).st == .frozen then s
  else
    let s := s.modCtx t.ctx fun x => { x with waits := x.waits ++ [⟨page, t.group.getD 0, none⟩] }
    match (s.ctx t.ctx).st with
    | .running | .resident | .preempting => (s.modCtx t.ctx fun x => { x with st := .preempting }).stopGroups t.ctx false
    | _ => s

/-- A failed access of the instruction being run: the trap, and for PAGEFAULT the swap-out (R95, R272), once the routed instructions that
have started have completed (R41). -/
def State.accessFault (s : State) (cause detail : Nat) (va : W64) (path kind : Nat) (migw : Bool) : State :=
  let k := s.cur
  if !s.th.canStop then s.holdOn .none
  else
    let s := (s.trap cause detail va).clearStall k s.who
    if cause == cPAGEFAULT then s.pageFault k va path kind migw else s

end Sys2Proof.Machine
end

