-- ==== Sys2Proof/Machine/Regs.lean ====
section
/-! DEFINITION. The state-register space (R49–R60): what each number holds, and what a write to it does. -/

namespace Sys2Proof.Machine

/-- Privilege levels of R49: 0 user, 1 supervisor, 2 manager. -/
def regLevel (num : Nat) : Nat := if num < 0x400 then 0 else if num < 0x800 then 1 else 2

/-- Whether R51 names the number among the user and supervisor registers. -/
def regAllocated (num : Nat) : Bool :=
  decide (num ≤ 0x004) || (decide (0x008 ≤ num) && decide (num ≤ 0x00B)) || num == 0x010 || num == 0x011
    || (decide (0x020 ≤ num) && decide (num ≤ 0x027)) || num == 0x030 || num == 0x038 || num == 0x039
    || (decide (0x040 ≤ num) && decide (num ≤ 0x042)) || num == 0x044 || num == 0x045
    || (decide (0x050 ≤ num) && decide (num ≤ 0x05F)) || num == 0x060 || num == 0x061
    || (decide (0x070 ≤ num) && decide (num ≤ 0x073))
    || (decide (0x400 ≤ num) && decide (num ≤ 0x403)) || num == 0x410 || num == 0x411 || num == 0x420
    || num == 0x430 || num == 0x431 || num == 0x440 || num == 0x450

/-- Working lane groups of a core (R13, R28). -/
def CoreSt.work (c : CoreSt) : Nat := 8 - c.retired

/-- The share in effect of thread `t` of core `c`: that of the span member or group it is, as its last vsetl applied it (R55). -/
def State.shareOf (s : State) (c t : Nat) : Nat :=
  s.threads.foldl (fun acc e => e.2.v.members.foldl (fun a m => if m.attached && m.core == c && m.tid == t then m.share else a) acc) 0

/-- LPART (R55), with PEND formed from the shares in effect. -/
def State.lpart (s : State) (c : Nat) : Nat :=
  let x := s.core c
  let f := fun i => x.lg.getD i 0
  let p := fun i => if f i == s.shareOf c i then 0 else 2 ^ (20 + i)
  f 0 + f 1 * 2 ^ 4 + f 2 * 2 ^ 8 + f 3 * 2 ^ 12 + x.work * 2 ^ 16 + p 0 + p 1 + p 2 + p 3

/-- Bit k set: member k is attached (R250). -/
def attBits : List Member → Nat → Nat
  | [], _ => 0
  | m :: ms, i => (if m.attached then 2 ^ i else 0) + attBits ms (i + 1)

/-- MTR as a word (R54). -/
def Mtr.word (m : Mtr) : Nat := m.space + m.core * 2 ^ 8 + m.pkg * 2 ^ 24
/-- Reserved fields of MTR (R54). -/
def mtrOk (x : Nat) : Bool := decide (bits x 2 0 < 6) && decide (bits x 16 8 ≤ 383)
/-- MTR as a write leaves it. -/
def mtrOf (x : Nat) : Mtr := { space := bits x 2 0, core := bits x 16 8, pkg := bits x 29 24 }

/-- XCHn (R297). -/
def Chan.word (c : Chan) : Nat :=
  c.done % 2 ^ 48 + c.err * 2 ^ 56 + (if c.frz then 2 ^ 60 else 0) + (if c.done < c.next then 2 ^ 61 else 0)
/-- Whether a transfer has a started strip that is not complete. -/
def Chan.running (c : Chan) (x : Xfer) : Bool := c.active.any fun id => decide (x.first ≤ id) && decide (id < x.first + x.started)
/-- A supervisor write of 1 to FRZ (R297): FRZ and ERR clear, unstarted strips go, DONE becomes NEXT. -/
def Chan.unfreeze (c : Chan) : Chan :=
  { c with frz := false, err := 0, finished := [], done := c.next
           xfers := (c.xfers.filter c.running).map fun x => { x with count := x.started } }

/-- A palette-free view of CBSLOTn (R178). -/
def CbSlot.word (c : CbSlot) : Nat := (if c.v then 1 else 0) + c.gen * 2 ^ 8 + c.thr * 2 ^ 16

/-- Eight tags of VTAGn (R51). -/
def tagWord (v : VecState) (n : Nat) : Nat :=
  (List.range 8).foldr (fun k a => (tagOf v (8 * n + k)).code + 256 * a) 0

/-- IMBWIN of a partition, at its reset value when it has not been written (R326). -/
def State.imb (s : State) (p : Nat) : W64 := s.imbwin.get (BitVec.ofNat 64 (2048 + 18432 * 2 ^ 16)) p

/-- GRPID (R250); no member is declared until the dispatcher writes it. -/
def Thread.grpid (t : Thread) (k : ThreadKey) : Nat :=
  t.gnum % 2 ^ 24 + (t.nmem - 1) * 2 ^ 26 + attBits t.v.members 0 * 2 ^ 28 + (if t.nmem == 0 then 0 else levelOf (coreOf k) * 2 ^ 32)
    + (if t.quad then 2 ^ 34 else 0)

/-- The value of an allocated user or supervisor register of thread `k`. -/
def State.regRead (s : State) (k : ThreadKey) (num : Nat) : W64 :=
  let t := s.thOf k
  let v := t.v
  let n : Nat := match num with
    | 0x000 => v.vl
    | 0x001 => v.vlgrant
    | 0x002 => v.maxBytes % 2 ^ 32 + v.maxNw * 2 ^ 32
    | 0x003 => v.vstart
    | 0x004 => v.gc + v.cb * 2 ^ 4 + v.ltag.code * 2 ^ 8
    | 0x008 => tagWord v 0
    | 0x009 => tagWord v 1
    | 0x00A => tagWord v 2
    | 0x00B => tagWord v 3
    | 0x010 => v.mtr.word
    | 0x011 => s.lpart (coreOf k)
    | 0x020 => v.fstat.toNat
    | 0x030 => v.mdest + v.missCount % 2 ^ 32 * 2 ^ 16
    | 0x038 => t.trap.info.toNat
    | 0x039 => t.trap.va.toNat
    | 0x040 => t.ui.vec.toNat
    | 0x041 => t.ui.epc.toNat
    | 0x042 => t.ui.pend + t.ui.taken * 2 ^ 8 + (if t.ui.inn then 2 ^ 16 else 0)
    | 0x044 => t.ch0.word
    | 0x045 => t.ch1.word
    | 0x060 => t.hsel.toNat
    | 0x061 => (s.imb t.part).toNat
    | 0x400 => t.trap.epc.toNat
    | 0x401 => t.trap.tvec.toNat
    | 0x402 => t.trap.pc.toNat
    | 0x403 => t.trap.evstart
    | 0x410 => t.ctx % 2 ^ 12 + t.owner % 2 ^ 6 * 2 ^ 12 + t.part % 2 ^ 4 * 2 ^ 18
    | 0x411 => t.grpid k
    | 0x420 => t.pgcmd.cmd.toNat + t.pgcmd.status * 2 ^ 60 + (if t.pgcmd.busy then 2 ^ 63 else 0)
    | 0x430 => (s.ctx t.ctx).lnkin.toNat
    | 0x431 => (s.ctx t.ctx).lnkbnd
    | 0x440 => let c := s.clu (cluOf (coreOf k)); c.req + c.cur * 4
    | 0x450 => t.sampctl.toNat
    | _ =>
      if 0x021 ≤ num && num ≤ 0x027 then (v.eix.get 0 (num - 0x021)).toNat
      else if 0x050 ≤ num && num ≤ 0x05F then ((s.core (coreOf k)).cbs.get {} (num - 0x050)).word
      else if 0x070 ≤ num && num ≤ 0x073 then (t.barpend.get 0 (num - 0x070)).toNat
      else 0
  BitVec.ofNat 64 n

/-- A write's outcome: the state after it, or a reserved value (R49). -/
inductive RegWrite where
  | ok (s : State)
  | reserved

/-- Whether a supervisor's LPART value is reserved (R55). -/
def lpartOk (work x : Nat) : Bool :=
  let f := fun i => bits x (4 * i + 3) (4 * i)
  decide (f 0 ≤ 8) && decide (f 1 ≤ 8) && decide (f 2 ≤ 8) && decide (f 3 ≤ 8) && decide (f 0 + f 1 + f 2 + f 3 ≤ work)

/-- FSTAT's writable bits (R56). -/
def fstatMask : Nat := 0x7F7F3F

/-- The part of a PGCMD write that PGCMD keeps: OP, REF, SIZE, VA (R271). -/
def pgcmdMask : Nat := 0x3F + (2 ^ 57 - 2 ^ 16)

/-- Writes an allocated user or supervisor register of thread `k`, at supervisor level or not (R49, R121). -/
def State.regWrite (s : State) (k : ThreadKey) (sup : Bool) (num : Nat) (w : W64) : RegWrite :=
  let x := w.toNat
  let t := s.thOf k
  let put := fun (f : Thread → Thread) => RegWrite.ok (s.modTh k f)
  match num with
  | 0x003 => put fun t => { t with v := { t.v with vstart := x % 2 ^ 32 } }
  | 0x010 => if mtrOk x then put fun t => { t with v := { t.v with mtr := mtrOf x } } else .reserved
  | 0x011 =>
    if !sup then .ok s
    else if lpartOk (s.core (coreOf k)).work x then
      .ok ((s.modCore (coreOf k) fun c => { c with lg := [bits x 3 0, bits x 7 4, bits x 11 8, bits x 15 12] }).later (.placeGroup t.part))
    else .reserved
  | 0x020 => put fun t => { t with v := { t.v with fstat := BitVec.ofNat 64 (x &&& fstatMask) } }
  | 0x030 => if bits x 2 0 == 0 then .reserved else put fun t => { t with v := { t.v with mdest := bits x 2 0 } }
  | 0x040 => put fun t => { t with ui := { t.ui with vec := w &&& ~~~(2 : W64) } }
  | 0x041 => put fun t => { t with ui := { t.ui with epc := pcField w } }
  | 0x044 => if sup && bit x 60 then put fun t => { t with ch0 := t.ch0.unfreeze, hold := if t.hold = .xwait 0 then .none else t.hold } else .ok s
  | 0x045 => if sup && bit x 60 then put fun t => { t with ch1 := t.ch1.unfreeze, hold := if t.hold = .xwait 1 then .none else t.hold } else .ok s
  | 0x060 => if 9 < bits x 3 0 then .reserved else put fun t => { t with hsel := BitVec.ofNat 64 (x % 32) }
  | 0x400 => if 1 < bits x 1 0 then .reserved else put fun t => { t with trap := { t.trap with epc := w } }
  | 0x401 => put fun t => { t with trap := { t.trap with tvec := pcField w } }
  | 0x403 => put fun t => { t with trap := { t.trap with evstart := x % 2 ^ 32 } }
  | 0x420 =>
    if bits x 1 0 == 3 || 3 < bits x 5 3 then .reserved
    else
      let busy := bits x 1 0 != 0
      let s := s.modTh k fun t => { t with pgcmd := { t.pgcmd with cmd := BitVec.ofNat 64 (x &&& pgcmdMask), busy, todo := busy } }
      if bits x 1 0 == 1 then .ok (s.later (.inval (.pgcmd k)))
      else if bits x 1 0 == 2 then .ok (s.later (.pagedone (.pgcmd k)))
      else .ok s
  | 0x430 => .ok (s.modCtx t.ctx fun c => { c with lnkin := BitVec.ofNat 64 (x &&& (1 + (2 ^ 57 - 2 ^ 6))) })
  | 0x431 => .ok (s.modCtx t.ctx fun c => { c with lnkbnd := x % 2 ^ 24 })
  | 0x440 =>
    if bits x 1 0 == 3 then .reserved else .ok (s.modClu (cluOf (coreOf k)) fun c => { c with req := bits x 1 0, asked := c.asked || bits x 1 0 != 0 })
  | 0x450 => if bits x 31 8 == 0 then .reserved
    else put fun t => { t with sampctl := BitVec.ofNat 64 (x &&& (3 + (2 ^ 32 - 2 ^ 8))) }
  | _ =>
    if 0x021 ≤ num && num ≤ 0x027 && bit x 63 then
      put fun t => { t with v := { t.v with eix := t.v.eix.put (num - 0x021) 0 } }
    else .ok s

/-! ## Instructions that wait until the thread's execute queue has completed (R30, R56, R57) -/

/-- Runs `f` once the execute queue is empty; until then the instruction is retried. -/
def State.whenIdle (s : State) (f : State → State) : State :=
  if s.th.pipe.any (·.inExe) then s.holdOn .none else f s

/-- Numbers whose reading holds the control front (R120). -/
def srrHolds (num : Nat) : Bool := num == 0x003 || (decide (0x020 ≤ num) && decide (num ≤ 0x027))
/-- Numbers whose writing holds the control front (R56, R57, R271). -/
def srwHolds (num : Nat) : Bool := (decide (0x020 ≤ num) && decide (num ≤ 0x027)) || num == 0x420

/-- Runs `f` when every older access of the thread is performed: both queues empty, no scalar access pending. -/
def State.whenPerformed (s : State) (f : State → State) : State :=
  if s.th.pipe.isEmpty && s.th.pending.isEmpty then f s else s.holdOn .none

/-- The checks of R49 for a number; none when they pass. -/
def regCheck (sup : Bool) (num : Nat) : Option (Nat × Nat) :=
  if (if sup then 1 else 0) < regLevel num then some (cPRIV, 0)
  else if !regAllocated num then some (cILLREG, num)
  else none

/-- A write of the running instruction to a register: the outcome with the pc moved on, or the ILLREG trap. -/
def State.writeReg (s : State) (num : Nat) (w : W64) : State :=
  match s.regWrite s.cur s.th.sup num w with
  | .ok s' => s'.advance
  | .reserved => s.trap cILLREG num

/-- SRR (R120). -/
def execSrr (d : SReg) (num : BitVec 12) (s : State) : Host.Outcome State Fault Refusal :=
  let n := num.toNat
  .next <| match regCheck s.th.sup n with
    | some (c, det) => s.trap c det
    | none =>
      let go := fun (s : State) => (s.setS d (s.regRead s.cur n)).advance
      if srrHolds n then s.whenIdle go else go s

/-- SRW (R121). -/
def execSrw (num : BitVec 12) (a : SReg) (s : State) : Host.Outcome State Fault Refusal :=
  let n := num.toNat
  .next <| match regCheck s.th.sup n with
    | some (c, det) => s.trap c det
    | none =>
      let go := fun (s : State) => s.writeReg n (s.getS a)
      if n == 0x420 then (if s.th.pgcmd.busy then s.holdOn .command else s.whenPerformed go)
      else if srwHolds n then s.whenIdle go else go s

end Sys2Proof.Machine
end

