-- ==== Sys2Proof/WellFormed.lean ====
section
/-! DEFINITION. Which terms of `Instr` stand for a word: `encodable` (checks 2 to 4 of R91 that rest on the word's bits
alone), `specifiersOk` (check 7 of R91, the limits of R74), and `wellFormed`, both. Events are no words. -/

namespace Sys2Proof

/-- A scalar named by a 6-bit field has top bit 0 (R74). -/
def isScalar6 (v : VReg) : Bool := v.toNat < 32
/-- A compute source: v0–v31 or an lq head (R74). -/
def isVSrc (v : VReg) : Bool := v.toNat < 36
/-- A compute destination: v0–v31 or an sq tail (R74). -/
def isVDst (v : VReg) : Bool := v.toNat < 32 || v.toNat == 36 || v.toNat == 37
/-- v0–v31 and nothing else (R74, R83). -/
def isVPlain (v : VReg) : Bool := v.toNat < 32
/-- A load's data register: v0–v31 or an lq (R74). -/
def isLoadData (v : VReg) : Bool := v.toNat < 36
/-- A mask source in a 6-bit field (R83). -/
def isMask6 (v : VReg) : Bool := v.toNat < 8
/-- A mask destination: m1–m7 (R74). -/
def isMaskDst (v : VReg) : Bool := 1 ≤ v.toNat && v.toNat < 8
/-- A palette slot, 0–23 (R74). -/
def isSlot (x : BitVec 5) : Bool := x.toNat < 24
/-- A codebook slot, 0–15 (R74). -/
def isCbSlot (x : BitVec 5) : Bool := x.toNat < 16
/-- A queue specifier, 32–37 (R74). -/
def isQueueSpec (v : VReg) : Bool := 32 ≤ v.toNat && v.toNat < 38

/-- The second source of a V word: a scalar when c = 1 (R83). -/
def isVSrcOrScalar (v : VReg) (c : Bool) : Bool := if c then isScalar6 v else isVSrc v

/-- The short form carries no payload (R89). -/
def VPay.shortOk (p : VPay) : Bool :=
  p.present || (p.ord == 0 && p.scope == 0 && !p.tv && p.tag == 0)

/-- SCOPE 5–7 is reserved, and SCOPE must be 0 when ORD is 0 (R80, R89). -/
def VPay.scopeOk (p : VPay) : Bool :=
  decide (p.scope.toNat < 5) && (p.scope == 0 || p.ord != 0)

/-- TV is 1 exactly when the data register is a queue; the queue needs the prefix (R85, R89). -/
def VPay.tvOk (p : VPay) (vd : VReg) : Bool := p.tv == isQueueSpec vd && (!isQueueSpec vd || p.present)

/-- Loads take ORD 0 or 1 (R89). -/
def VPay.loadOk (p : VPay) (vd : VReg) : Bool :=
  p.shortOk && p.scopeOk && (p.ord == 0 || p.ord == 1) && p.tvOk vd
/-- Stores take ORD 0 or 2 (R89). -/
def VPay.storeOk (p : VPay) (vd : VReg) : Bool :=
  p.shortOk && p.scopeOk && (p.ord == 0 || p.ord == 2) && p.tvOk vd
/-- A vector atomic takes any ORD; with a prefix, TV is 1 exactly when the data register is a queue (R85, R89). -/
def VPay.atomOk (p : VPay) (vd : VReg) : Bool := p.shortOk && p.scopeOk && (!p.present || p.tv == isQueueSpec vd)
/-- bxld and capp have no data register, so TV is 0 (R89). -/
def VPay.bareOk (p : VPay) : Bool := p.shortOk && p.scopeOk && !p.tv

/-- SCOPE 5–7 is reserved, and a non-zero SCOPE with ORD 0 is a reserved combination (R98). -/
def Amo.ok (o : Amo) : Bool := decide (o.scope.toNat < 5) && (o.scope == 0 || o.ord != 0)

/-- Whether the term has a word in R73–R90 that passes checks 1 to 4 of R91 as far as they rest on bits. -/
def Instr.encodable : Instr → Bool
  | .add .. | .sub .. | .mul .. | .mulh .. | .mulhu .. | .div .. | .divu .. | .rem .. | .remu .. | .and .. | .or ..
  | .xor .. | .sll .. | .srl .. | .sra .. | .slt .. | .sltu .. | .seq .. | .min .. | .max .. | .minu .. | .maxu ..
  | .clz .. | .ctz .. | .popc .. | .sel .. => true
  | .addi .. | .andi .. | .ori .. | .xori .. | .slti .. | .slli .. | .srli .. | .srai .. | .lb .. | .lbu .. | .lh ..
  | .lhu .. | .lw .. | .lwu .. | .ld .. | .lih .. | .sb .. | .sh .. | .sw .. | .sd .. => true
  | .amoadd o | .amomin o | .amomax o | .amominu o | .amomaxu o | .amoand o | .amoor o | .amoxor o | .amoswap o
  | .amocas o => o.ok
  | .beq .. | .bne .. | .blt .. | .bge .. | .bltu .. | .bgeu .. | .bany .. | .ball .. | .bnone .. | .j .. | .jal .. => true
  | .loop _ _ _ len => len != 0
  | .vfetch .. | .vthr .. | .vjoin | .srr .. | .srw .. => true
  | .vadd _ | .vsub _ | .vmul _ | .vmulh _ | .vdiv _ | .vrem _ | .vmin _ | .vmax _ | .vand _ | .vor _ | .vxor _
  | .vsll _ | .vsrl _ | .vsra _ | .vsadd _ | .vssub _ | .vfma _ | .vfms _ | .vfnma _ | .vfnms _ => true
  | .vsqrt _ | .vrcpe _ | .vrsqe _ | .vexp2 _ | .vlog2 _ | .vabs _ | .vneg _ | .vnot _ | .vclz _ | .vpopc _ => true
  | .vceq _ | .vcne _ | .vclt _ | .vcle _ | .vcgt _ | .vcge _ | .vcun _ => true
  | .mand .. | .mor .. | .mxor .. | .mandn .. | .mnot .. | .msbf .. | .msif .. => true
  | .vperm _ | .vslideup _ | .vslidedn _ | .vcompress _ | .vexpand _ | .viota .. | .vmerge _ | .vins .. | .vext ..
  | .xch _ | .mpop .. | .mff1 .. => true
  | .vraddT _ | .vraddO _ | .vrminT _ | .vrminO _ | .vrmaxT _ | .vrmaxO _ | .vrand _ | .vror _ | .vrxor _ => true
  | .vcvt .. | .vsetl .. | .vmt .. => true
  | .vcfg first last _ _ _ => decide (first.toNat ≤ last.toNat)
  | .vld o | .vldFf o | .vldO o => o.p.loadOk o.vd
  | .vldS o | .vldSo o => o.p.loadOk o.vd
  | .vldX o | .vldXo o => o.p.loadOk o.vd
  | .vst o | .vstO o => o.p.storeOk o.vd
  | .vstS o | .vstSo o => o.p.storeOk o.vd
  | .vstX o | .vstXo o => o.p.storeOk o.vd
  | .vamoAdd o | .vamoMin o | .vamoMax o | .vamoAnd o | .vamoOr o | .vamoXor o | .vamoSwap o | .vscadd o =>
    o.p.atomOk o.vd
  | .bxld _ _ _ p | .capp _ _ p => p.bareOk
  | .mma .. | .mmax .. | .mmab .. | .mclaim .. | .mrel .. | .mldt .. | .cbld .. => true
  | .barinit .. | .bararr .. | .barwait .. | .barwaitA .. | .launch .. => true
  | .xcfg _ ch | .xtid _ ch | .xwait _ ch => decide (ch.toNat < 2)
  | .dsend .. | .dpull .. | .ddrop .. | .dresend .. | .dlstat .. => true
  | .trap .. | .eret | .brk .. | .wait | .uiret | .jalr .. => true
  | .fence scope ord ty => decide (scope.toNat < 5) && ord != 3 && ty != 3
  | .xfence src dst scope =>
    decide (1 ≤ src.toNat) && decide (src.toNat ≤ 5) && decide (1 ≤ dst.toNat) && decide (dst.toNat ≤ 5) && src != dst
      && decide (scope.toNat < 5)
  | .rdharm .. | .rdimb .. | .rdsamp .. | .hclr .. | .setwash .. => true
  | .laneThreadStart .. | .relocation .. | .waitTimeout .. | .userInterruptEntry .. | .vectorSequencerGrant ..
  | .instructionRelease .. | .washIssue .. | .instructionComplete .. | .accessUnitComplete .. | .spanMemberLost ..
  | .pageWalk .. | .faultRecordPost .. | .nearCacheEvict .. | .create .. | .setslice .. | .freeze .. | .teardown ..
  | .teardownComplete .. | .query .. | .inval .. | .pagedone .. | .attest .. | .qtailWrite .. | .queueEnable ..
  | .queueDrain .. | .queueClear .. | .registerWrite .. | .xchFrzClear .. | .queueHeadTake .. | .launchComplete ..
  | .placeGroup .. | .groupLoadComplete .. | .pendingAgeLimit .. | .returnedLanesTimeout .. | .spanDetachTimeout ..
  | .spanAttachMark .. | .svtCharge .. | .preemptForSpace .. | .saveComplete .. | .softError .. | .functionReset ..
  | .packageReset | .firmwareLoad .. | .partitionSetup .. | .clusterMove .. | .domainSetup .. | .barrierWriteback ..
  | .barrierBroken .. | .stubDelivery .. | .deliveryAck .. | .deliveryRefusal .. | .pullRequest .. | .segmentLanding ..
  | .endMessage .. | .dropMessage .. | .referenceRequest .. | .referenceGrant .. | .severNotice .. | .peerLossTimeout ..
  | .lentwriteBound .. | .hostLentWriteTimeout | .stripStart .. | .stripComplete .. | .bxldComplete .. | .arbiterGrant ..
  | .quantumPost .. | .budgetInterval .. | .stringIntervalEnd .. | .powerInterval .. | .supplyDroop ..
  | .hostMemoryWrite .. | .hostMemoryRead .. | .hostAtomicop .. | .flushReadComplete | .pcieLinkTraining ..
  | .cxlPortTraining .. | .cxlPortDown .. | .glasalLinkTraining .. | .glasalFlitRetry .. | .remoteAccessRequest ..
  | .remoteReply .. | .halt | .resume | .srrd | .srwr | .sregrd | .sregwr | .memrd | .memwr | .brkhalt | .stoprd
  | .debugForward .. | .scalarAccessPerformed .. | .hbmRefresh .. | .stripBufferError .. | .pcieLinkDown ..
  | .unallocatedWordFetch .. | .instructionFetchFault .. | .commandComplete .. => false

/-- Limits of a V word's registers (R74, R83). -/
def VBin.specOk (o : VBin) : Bool := isVDst o.vd && isVSrc o.va && isVSrcOrScalar o.vb o.c
/-- Limits of a fused word: vd is also the addend (R83). -/
def VBin.fmaSpecOk (o : VBin) : Bool := isVPlain o.vd && isVSrc o.va && isVSrcOrScalar o.vb o.c
/-- Limits of a compare: vd is a mask (R83). -/
def VBin.cmpSpecOk (o : VBin) : Bool := isMaskDst o.vd && isVSrc o.va && isVSrcOrScalar o.vb o.c
/-- Limits of a unary word (R83). -/
def VUn.specOk (o : VUn) : Bool := isVDst o.vd && isVSrc o.va
/-- Limits of a word with a scalar second source (R83). -/
def VSc.specOk (o : VSc) : Bool := isVDst o.vd && isVSrc o.va && isScalar6 o.sb
/-- Limits of a reduction: vd is a scalar (R83). -/
def VSc.redSpecOk (o : VSc) : Bool := isScalar6 o.vd && isVSrc o.va && isScalar6 o.sb

/-- Check 7 of R91: every specifier of the word is within its limits (R74). -/
def Instr.specifiersOk : Instr → Bool
  | .bany m _ | .ball m _ | .bnone m _ => decide (m.toNat < 8)
  | .vadd o | .vsub o | .vmul o | .vmulh o | .vdiv o | .vrem o | .vmin o | .vmax o | .vand o | .vor o | .vxor o
  | .vsll o | .vsrl o | .vsra o | .vsadd o | .vssub o | .vperm o | .vmerge o => o.specOk
  | .vfma o | .vfms o | .vfnma o | .vfnms o => o.fmaSpecOk
  | .vceq o | .vcne o | .vclt o | .vcle o | .vcgt o | .vcge o | .vcun o => o.cmpSpecOk
  | .vsqrt o | .vrcpe o | .vrsqe o | .vexp2 o | .vlog2 o | .vabs o | .vneg o | .vnot o | .vclz o | .vpopc o
  | .vcompress o | .vexpand o | .vcvt o _ => o.specOk
  | .mand md ma mb | .mor md ma mb | .mxor md ma mb | .mandn md ma mb => isMaskDst md && isMask6 ma && isMask6 mb
  | .mnot md ma | .msbf md ma | .msif md ma => isMaskDst md && isMask6 ma
  | .vslideup o | .vslidedn o | .xch o => o.specOk
  | .viota vd _ => isVDst vd
  | .vins vd sa ix => isVDst vd && isScalar6 sa && isScalar6 ix
  | .vext rd va ix => isScalar6 rd && isVSrc va && isScalar6 ix
  | .mpop rd ma | .mff1 rd ma => isScalar6 rd && isMask6 ma
  | .vraddT o | .vraddO o | .vrminT o | .vrminO o | .vrmaxT o | .vrmaxO o | .vrand o | .vror o | .vrxor o => o.redSpecOk
  | .vsetl rd sa => isScalar6 rd && isScalar6 sa
  | .vmt sa => isScalar6 sa
  | .vld o | .vldFf o | .vldO o => isLoadData o.vd && isScalar6 o.sa
  | .vldS o | .vldSo o => isLoadData o.vd && isScalar6 o.sa && isScalar6 o.sb
  | .vldX o | .vldXo o => isLoadData o.vd && isScalar6 o.sa && isVPlain o.vb
  | .vst o | .vstO o => isVDst o.vd && isScalar6 o.sa
  | .vstS o | .vstSo o => isVDst o.vd && isScalar6 o.sa && isScalar6 o.sb
  | .vstX o | .vstXo o => isVDst o.vd && isScalar6 o.sa && isVPlain o.vb
  | .vamoAdd o | .vamoMin o | .vamoMax o | .vamoAnd o | .vamoOr o | .vamoXor o | .vamoSwap o | .vscadd o =>
    isVPlain o.vd && isScalar6 o.sa && isVPlain o.vb
  | .bxld md sa vb _ => isMaskDst md && isScalar6 sa && isVPlain vb
  | .capp sa _ _ => isScalar6 sa
  | .mma vd x y _ | .mmab vd x y _ _ => isVPlain vd && isSlot x && isSlot y
  | .mmax vd x va vi _ => isVPlain vd && isSlot x && isVSrc va && isVSrc vi
  | .mclaim sa x | .mldt sa x => isScalar6 sa && isSlot x
  | .mrel x => isSlot x
  | .cbld sa cb => isScalar6 sa && isCbSlot cb
  | _ => true

/-- A well-formed instruction: it has a word, and its specifiers are within their limits. -/
def Instr.wellFormed (i : Instr) : Bool := i.encodable && i.specifiersOk

end Sys2Proof
end

