-- ==== Sys2Proof/Machine/Operands.lean ====
section
/-! DEFINITION. Routing: specifier limits (R74, R91 check 7), queue counts (R32), operand tags, groups and capacity (R124, R130),
the capture of R50, and the entry that goes to the queues (R29, R30). -/

namespace Sys2Proof.Machine

/-! ## Check 7 -/

/-- The first of several (within limits, field, value) that is out of limits, as (field, value). R91 and R183 give no order among the
fields of check 7; DESIGN CHOICE (log entry 52): vd, then va, vb, x, y, then the prefix fields. -/
def firstBad : List (Bool × Nat × Nat) → Option (Nat × Nat)
  | [] => none
  | (true, _, _) :: t => firstBad t
  | (false, f, v) :: _ => some (f, v)

/-- Fields of DETAIL in check 7 (R91). -/
def fD : Nat := 0
def fA : Nat := 1
def fB : Nat := 2
def fX : Nat := 4
def fY : Nat := 5
def fP : Nat := 6

/-- Check 7 on a vd field. -/
def ckD (ok : VReg → Bool) (v : VReg) : Bool × Nat × Nat := (ok v, fD, v.toNat)
/-- Check 7 on a va field. -/
def ckA (ok : VReg → Bool) (v : VReg) : Bool × Nat × Nat := (ok v, fA, v.toNat)
/-- Check 7 on a vb field. -/
def ckB (ok : VReg → Bool) (v : VReg) : Bool × Nat × Nat := (ok v, fB, v.toNat)
/-- Check 7 on a prefix field. -/
def ckP (ok : VReg → Bool) (v : VReg) : Bool × Nat × Nat := (ok v, fP, v.toNat)
/-- Check 7 on an x field. -/
def ckX (ok : BitVec 5 → Bool) (v : BitVec 5) : Bool × Nat × Nat := (ok v, fX, v.toNat)
/-- Check 7 on a y field. -/
def ckY (ok : BitVec 5 → Bool) (v : BitVec 5) : Bool × Nat × Nat := (ok v, fY, v.toNat)

/-! ## Operands -/

/-- Whether a specifier names a queue. -/
def isQ (n : Nat) : Bool := 32 ≤ n
/-- The tag a compute source has: its register's, or that of the lq entry it will pop (R124). -/
def Thread.srcTag (t : Thread) (n : Nat) : ETag :=
  if isQ n then ((t.v.counts.get [] n).head?).getD .n64 else tagOf t.v n
/-- The registers of a group (R123). -/
def gOf (gc : Nat) : Nat := 2 ^ gc
/-- Whether a specifier is a multiple of G, when it is grouped (R124). -/
def grouped (gc n : Nat) : Bool := isQ n || n % gOf gc == 0

/-- ILLTYPE's DETAIL (R130). -/
def typeDetail (reason content : Nat) : Nat × Nat := (cILLTYPE, reason * 1024 + content)

/-- The first failure of a list of checks, in order. -/
def firstSome {α : Type} : List (Option α) → Option α
  | [] => none
  | some x :: _ => some x
  | none :: t => firstSome t

/-- Reason 2 for one specifier. -/
def ckGroup (gc n : Nat) : Option (Nat × Nat) := if grouped gc n then none else some (typeDetail 2 n)
/-- Reason 3: the operands' tags against the first, each `none` when its tag is not compared. -/
def ckShare (first : ETag) : List (Option ETag) → Option (Nat × Nat)
  | [] => none
  | none :: t => ckShare first t
  | some x :: t => if x == first then ckShare first t else some (typeDetail 3 (first.code * 32 + x.code))
/-- Reason 4: the operation is not implemented for the tag. -/
def ckImpl (ok : Bool) (t : ETag) : Option (Nat × Nat) := if ok then none else some (typeDetail 4 (t.code * 32))
/-- Reason 5: the destination's tag. -/
def ckDest (src : ETag) (dst : Option ETag) : Option (Nat × Nat) :=
  match dst with
  | none => none
  | some d => if d == src then none else some (typeDetail 5 (src.code * 32 + d.code))
/-- Reason 7. -/
def ckSplit (bad : Bool) (t : ETag) : Option (Nat × Nat) := if bad && t.isScaled then some (typeDetail 7 (t.code * 32)) else none
/-- Reason 8: an index tag. -/
def ckIndex (t : ETag) : Option (Nat × Nat) := if t.isInt then none else some (typeDetail 8 (t.code * 32))
/-- Bits a member's operand holds (R124), from the captured G (log entry 61). -/
def memberBits (gc : Nat) (m : Member) : Nat := gOf gc * m.nw * 512
/-- The attached members. -/
def attached (ms : List Member) : List Member := ms.filter (·.attached)
/-- Whether each of several members' blocks of `vl` elements fits its operand. -/
def blocksFit (gc w : Nat) : Nat → List Member → Bool
  | vl, [] => vl == 0
  | vl, m :: ms => decide (min vl m.grant * w ≤ memberBits gc m) && blocksFit gc w (vl - m.grant) ms
/-- Whether `vl` elements of a size fit every member's block; on one core the block is the whole vector (R124, R25). -/
def fits (gc : Nat) (ms : List Member) (vl w : Nat) : Bool :=
  match attached ms with
  | [] => vl == 0
  | [m] => decide (vl * w ≤ memberBits gc m)
  | l => blocksFit gc w vl l
/-- Reason 9 for one operand, a register or a queue entry (R124, R130). -/
def ckCap (gc : Nat) (ms : List Member) (vl n : Nat) (t : ETag) : Option (Nat × Nat) :=
  if fits gc ms vl t.bits then none else some (typeDetail 9 n)

/-- The tag of a destination register; none for an sq tail, which takes the result's (R124). -/
def Thread.dstTag (t : Thread) (n : Nat) : Option ETag := if isQ n then none else some (tagOf t.v n)

/-! ## Counts and capture -/

/-- Occupancy of a queue, as counted at routing (R32). -/
def Thread.occ (t : Thread) (n : Nat) : Nat := (t.v.counts.get [] n).length
/-- The queue whose count the instruction would take out of range, if any (R32). -/
def qbalFault (t : Thread) (pops pushes : List Nat) : Option Nat :=
  match pops.find? fun n => t.occ n == 0 with
  | some n => some n
  | none => pushes.find? fun n => decide (4 ≤ t.occ n)

/-- The queue specifiers among sources, once each. -/
def popsOf (l : List Nat) : List Nat := (l.filter isQ).eraseDups

/-- The captures of R50 and R53, and what the entry needs to know of the thread. -/
def Thread.entry (t : Thread) (op : VOp) : Entry :=
  let f := t.v.fstat.toNat
  { fu := t.fu, op, vl := t.v.vl, gc := t.v.gc, cb := t.v.cb, mtr := t.v.mtr
    rm := rmOfCode (bits f 1 0), arm := rmOfCode (bits f 3 2), ftz := bit f 4, daz := bit f 5, mdest := t.v.mdest
    start := if t.off then 0 else t.v.vstart, user := !t.sup, dist := t.v.members, dropped := t.off }

/-- What routing needs to know of an instruction: check 7, the queues popped and pushed with the tag pushed, check 8 and the
traps after it, the tag it sets (R149), and the entry. -/
structure Routing where
  bad    : Option (Nat × Nat)
  pops   : List Nat := []
  push   : Option Nat := none
  pushTag : ETag := .n64
  typ    : Option (Nat × Nat) := none
  setTag : Option (Nat × ETag) := none
  ent    : Entry

/-- Counts after routing (R32), the entry popped leaving and the one pushed joining. -/
def countQueues (v : VecState) (pops : List Nat) (push : Option Nat) (tag : ETag) : VecState :=
  let v := pops.foldl (fun v n => { v with counts := v.counts.upd [] n (·.drop 1) }) v
  match push with
  | none => v
  | some n => { v with counts := v.counts.upd [] n (· ++ [tag]) }

/-- Whether a queue the entry needs is full (R29). -/
def queuesFull (t : Thread) (e : Entry) : Bool :=
  (e.inAcc && decide (32 ≤ (t.pipe.filter fun x => x.inAcc && !x.accDone).length))
    || (e.inExe && decide (32 ≤ (t.pipe.filter (·.inExe)).length))

/-- The tag a routing sets (R149). -/
def setRoutedTag (v : VecState) : Option (Nat × ETag) → VecState
  | none => v
  | some (n, g) => { v with tags := v.tags.put n g }

/-- The copy engine's and the links' instructions: they take an access-queue entry and touch no vector state (R29, R53). -/
def VOp.noVector : VOp → Bool
  | .xcfg | .dsend | .dpull | .ddrop | .dresend => true
  | _ => false

/-- The thread after routing: the pc moves on, VSTART returns to 0 unless the instruction touches no vector state (R53), the counts
move, the entry stands in its queues. An instruction disabled by its stage moves the counts alone (R104). -/
def Thread.routed (t : Thread) (r : Routing) : Thread :=
  let v := countQueues t.v r.pops r.push r.pushTag
  let v := if t.off || r.ent.op.noVector then v else { setRoutedTag v r.setTag with vstart := 0 }
  { t.seqTo t.fu.nextAddr with v := v, pipe := t.pipe ++ [r.ent], hold := .none }

/-- The trap that routing takes, if any: check 7, the queue counts, check 8 (R91). -/
def Thread.routeFault (t : Thread) (r : Routing) : Option (Nat × Nat) :=
  match r.bad with
  | some (f, v) => some (cILLREG, f * 2 ^ 8 + v % 2 ^ 8)
  | none => match qbalFault t r.pops r.push.toList with
    | some n => some (cQBAL, n)
    | none => r.typ

end Sys2Proof.Machine
end

