-- ==== Sys2Proof/Machine/Compute.lean ====
section
/-! DEFINITION. What a compute instruction does to vector, mask and queue state when it completes (R128–R149): one element's
result, the order of reading and writing, reductions and conversions. -/

namespace Sys2Proof.Machine

/-! ## One element (R133–R138) -/

/-- The integer operations of major 0x28 on n-bit patterns (R133). -/
def intBin (o : BinK) (sg : Bool) (n a b : Nat) : Nat × Nat :=
  let x := readInt sg n a
  let y := readInt sg n b
  let a' := a % 2 ^ n
  let b' := b % 2 ^ n
  match o with
  | .add => wrapFlag sg n (x + y)
  | .sub => wrapFlag sg n (x - y)
  | .mul => wrapFlag sg n (x * y)
  | .mulh => (wrapInt n (x * y / ((2 ^ n : Nat) : Int)), 0)
  | .div => let (q, _, f) := divInt sg n a b; (q, f)
  | .rem => let (_, r, f) := divInt sg n a b; (r, f)
  | .min => (if x ≤ y then a' else b', 0)
  | .max => (if x ≤ y then b' else a', 0)
  | .and => (a' &&& b', 0)
  | .or => (a' ||| b', 0)
  | .xor => (a' ^^^ b', 0)
  | .sll => (a' * 2 ^ (b % n) % 2 ^ n, 0)
  | .srl => (a' / 2 ^ (b % n), 0)
  | .sra => (wrapInt n (readInt true n a / ((2 ^ (b % n) : Nat) : Int)), 0)
  | .sadd => clampFlag sg n (x + y)
  | .ssub => clampFlag sg n (x - y)

/-- The operations of major 0x28 that take float tags (R134); the others are never asked for (R132). -/
def fpBin (o : BinK) (t : ETag) (rm : Rm) (ftz daz : Bool) (a b : Nat) : Nat × Nat :=
  match o with
  | .add => fAdd t rm ftz daz a b
  | .sub => fSub t rm ftz daz a b
  | .mul => fMul t rm ftz daz a b
  | .div => fDiv t rm ftz daz a b
  | .min => fMinMax false t daz a b
  | .max => fMinMax true t daz a b
  | _ => (0, 0)

/-- One element of major 0x28. -/
def binElem (o : BinK) (t : ETag) (rm : Rm) (ftz daz : Bool) (a b : Nat) : Nat × Nat :=
  if t.isInt then intBin o t.isI t.bits a b else fpBin o t rm ftz daz a b

/-- One element of the fused forms (R133, R135). -/
def fmaElem (np nd : Bool) (t : ETag) (rm : Rm) (ftz daz : Bool) (a b d : Nat) : Nat × Nat :=
  if t.isInt then
    let p := readInt t.isI t.bits a * readInt t.isI t.bits b
    let z := readInt t.isI t.bits d
    wrapFlag t.isI t.bits ((if np then -p else p) + (if nd then -z else z))
  else fFma np nd t rm ftz daz a b d

/-- One element of the unary forms (R133, R134, R136, R137). -/
def unElem (o : UnK) (t : ETag) (rm : Rm) (ftz daz : Bool) (a : Nat) : Nat × Nat :=
  let n := t.bits
  if t.isInt then
    match o with
    | .abs => wrapFlag t.isI n (readInt t.isI n a).natAbs
    | .neg => wrapFlag t.isI n (-(readInt t.isI n a))
    | .not => (2 ^ n - 1 - a % 2 ^ n, 0)
    | .clz => (clzNat n a, 0)
    | .popc => (popNat n a, 0)
    | _ => (0, 0)
  else
    match o with
    | .sqrt => fSqrt t rm ftz daz a
    | .rcpe => fRcpe t ftz daz a
    | .rsqe => fRsqe t ftz daz a
    | .exp2 => fExp2 t rm ftz daz a
    | .log2 => fLog2 t rm ftz daz a
    | .abs => fAbs t daz a
    | .neg => fNeg t daz a
    | _ => (0, 0)

/-- One element of a compare (R138). -/
def cmpElem (r : Rel) (t : ETag) (daz : Bool) (a b : Nat) : Bool × Nat :=
  if t.isInt then (iCmp r t a b, 0) else fCmp r t daz a b

/-! ## Sources -/

/-- The head entry of a queue. -/
def headEntry (v : VecState) (q : Nat) : Option VEntry := (v.queues.get [] q).head?
/-- Element `i` of a queue entry; none when it was not supplied (R48). -/
def VEntry.elem (x : VEntry) (i : Nat) : Option Nat :=
  if i < x.n && bit x.act i then some (x.data / 2 ^ (i * x.tag.bits) % 2 ^ x.tag.bits) else none
/-- Element `i` of a source specifier under a tag. -/
def srcElem (v : VecState) (e : Entry) (n : Nat) (t : ETag) (i : Nat) : Option Nat :=
  if isQ n then (headEntry v n).bind (·.elem i) else some (readElem v e.dist n t.bits i)
/-- Element `i` of va. -/
def srcA (v : VecState) (e : Entry) (i : Nat) : Option Nat := srcElem v e e.a e.tagA i
/-- Element `i` of vb, or the captured scalar under the tag of va (R128). -/
def srcB (v : VecState) (e : Entry) (i : Nat) : Option Nat :=
  if e.c then some (e.capB.toNat % 2 ^ e.tagA.bits) else srcElem v e e.b e.tagB i
/-- Bit `i` of k. -/
def kBit (v : VecState) (e : Entry) (i : Nat) : Bool := maskBit v e.dist e.k i

/-- A result: the element, its bits, the classes it raised. -/
structure Res where
  i  : Nat
  x  : Nat
  fl : Nat := 0

/-- The classes of a list of results. -/
def raisedOf (l : List Res) : Raised := (l.filter fun r => r.fl != 0).map fun r => (r.i, r.fl)

/-- The active elements below VL whose value `f` gives; an element that reads an empty place is inactive (R48, R129). -/
def activeMap (v : VecState) (e : Entry) (f : Nat → Option (Nat × Nat)) : List Res :=
  (List.range e.vl).filterMap fun i =>
    if kBit v e i then (f i).map fun p => { i, x := p.1, fl := p.2 } else none

/-! ## Destinations -/

/-- Writes results to a register (R46). -/
def writeAll (v : VecState) (ms : List Member) (n w : Nat) : List Res → VecState
  | [] => v
  | r :: rest => writeAll (writeElem v ms n w r.i r.x) ms n w rest

/-- The entry that a list of results makes (R31, R48). -/
def entryOf (t : ETag) (n : Nat) (l : List Res) : VEntry :=
  { tag := t, n
    data := l.foldl (fun a r => setBits a (r.i * t.bits) t.bits r.x) 0
    act := l.foldl (fun a r => setBit a r.i true) 0 }

/-- Pushes an entry to the tail of a queue. -/
def pushEntry (v : VecState) (q : Nat) (x : VEntry) : VecState := { v with queues := v.queues.upd [] q (· ++ [x]) }
/-- Pops the head of a queue. -/
def popEntry (v : VecState) (q : Nat) : VecState := { v with queues := v.queues.upd [] q (·.drop 1) }

/-- Writes results to the destination of an entry: a register group, or an sq tail. -/
def writeDest (v : VecState) (e : Entry) (n : Nat) (l : List Res) : VecState :=
  if isQ e.d then pushEntry v e.d (entryOf e.tagD n l)
  else if n == 0 then v else touch (writeAll v e.dist e.d e.tagD.bits l) e.dist e.d (gOf e.gc) n e.tagD.bits

/-- Clears a mask on every member. -/
def clearMask (v : VecState) (k : Nat) : VecState := { v with masks := v.masks.filter fun p => p.1 % 8 != k }
/-- Writes a mask: bits below `n` as listed, zero at and above it (R47). -/
def writeMask (v : VecState) (ms : List Member) (k : Nat) (set : List Nat) : VecState :=
  set.foldl (fun v i => setMaskBit v ms k i true) (clearMask v k)

/-- Pops the lq heads an entry named, once each (R31). -/
def popAll (v : VecState) (l : List Nat) : VecState := l.foldl popEntry v

/-! ## Member blocks (R25, R141) -/

/-- The blocks of the attached members below `vl`, as (lo, hi); one core has [0, vl). -/
def blocks (ms : List Member) (vl : Nat) : List (Nat × Nat) :=
  match attached ms with
  | [] => [(0, vl)]
  | [_] => [(0, vl)]
  | l => (l.foldl (fun (acc : List (Nat × Nat) × Nat) m =>
      (acc.1 ++ [(min acc.2 vl, min (acc.2 + m.grant) vl)], acc.2 + m.grant)) ([], 0)).1
/-- The block that holds element `i`. -/
def blockOf (ms : List Member) (vl i : Nat) : Nat × Nat :=
  ((blocks ms vl).find? fun b => decide (b.1 ≤ i) && decide (i < b.2)).getD (0, vl)

/-! ## Permutes (R142–R147) -/

/-- vperm (R142). -/
def permElem (v : VecState) (e : Entry) (i : Nat) : Option (Nat × Nat) :=
  let x? : Option Int :=
    if e.c then some e.capB.toNat
    else (srcElem v e e.b e.tagB i).map fun x => readInt e.tagB.isI e.tagB.bits x
  x?.bind fun x =>
    let b := blockOf e.dist e.vl i
    if 0 ≤ x && x < e.vl && (b.1 : Int) ≤ x && x < b.2 then (srcA v e x.toNat).map (·, 0) else some (0, 0)
/-- vslideup (R143): none leaves the element as it was. -/
def slideUpElem (v : VecState) (e : Entry) (i : Nat) : Option (Nat × Nat) :=
  let s := e.capB.toNat
  if (blockOf e.dist e.vl i).1 + s ≤ i then (srcA v e (i - s)).map (·, 0) else none
/-- vslidedn (R143). -/
def slideDnElem (v : VecState) (e : Entry) (i : Nat) : Option (Nat × Nat) :=
  let s := e.capB.toNat
  if i + s < (blockOf e.dist e.vl i).2 then (srcA v e (i + s)).map (·, 0) else some (0, 0)
/-- The active indices of a block whose va element was supplied. -/
def activeIn (v : VecState) (e : Entry) (b : Nat × Nat) : List Nat :=
  ((List.range (b.2 - b.1)).map (b.1 + ·)).filter fun i => kBit v e i && (srcA v e i).isSome
/-- vcompress within one block (R144). -/
def compressBlock (v : VecState) (e : Entry) (b : Nat × Nat) : List Res :=
  (activeIn v e b).zipIdx.filterMap fun p => (srcA v e p.1).map fun x => { i := b.1 + p.2, x }
/-- vexpand within one block (R144). DESIGN CHOICE (log entry 56): a position whose source element the lq entry lacks still counts in
the numbering. -/
def expandBlock (v : VecState) (e : Entry) (b : Nat × Nat) : List Res :=
  (((List.range (b.2 - b.1)).map (b.1 + ·)).filter (kBit v e)).zipIdx.filterMap fun p =>
    (srcA v e (b.1 + p.2)).map fun x => { i := p.1, x }
/-- viota (R145). -/
def iotaRes (v : VecState) (e : Entry) : List Res :=
  ((List.range e.vl).foldl (fun (acc : List Res × Nat) i =>
    let (x, f) := wrapFlag e.tagD.isI e.tagD.bits acc.2
    (acc.1 ++ [{ i, x, fl := f }], acc.2 + (if kBit v e i then 1 else 0))) ([], 0)).1
/-- vmerge (R145). -/
def mergeRes (v : VecState) (e : Entry) : List Res :=
  (List.range e.vl).filterMap fun i =>
    (if kBit v e i then srcA v e i else srcB v e i).map fun x => { i, x }
/-- The elements that the members' grants hold, which a trimmed VL does not lower (R125, R156). -/
def grantSum (ms : List Member) : Nat := ((attached ms).map (·.grant)).foldl (· + ·) 0
/-- xch (R147): the element at the same place of the block `s` members on. -/
def xchElem (v : VecState) (e : Entry) (i : Nat) : Option (Nat × Nat) :=
  let bs := blocks e.dist (max e.vl (grantSum e.dist))
  let m := (bs.findIdx? fun b => decide (b.1 ≤ i) && decide (i < b.2)).getD 0
  let j := i - (bs.getD m (0, e.vl)).1
  let src := (m + e.capB.toNat) % bs.length
  let b := bs.getD src (0, 0)
  if b.1 + j < b.2 then (srcA v e (b.1 + j)).map (·, 0) else some (0, 0)

/-! ## Masks (R139, R140) -/

/-- Bit `i` of mask `m`. -/
def mBit (v : VecState) (e : Entry) (m i : Nat) : Bool := maskBit v e.dist m i
/-- The lowest index below VL whose bit of `m` is set. -/
def firstSet (v : VecState) (e : Entry) (m : Nat) : Option Nat := (List.range e.vl).find? (mBit v e m)
/-- Bit `i` of md (R139). -/
def mlogBit (o : MLogK) (v : VecState) (e : Entry) (first : Option Nat) (i : Nat) : Bool :=
  let a := mBit v e e.a i
  let b := mBit v e e.b i
  match o with
  | .and => a && b
  | .or => a || b
  | .xor => a != b
  | .andn => a && !b
  | .not => !a
  | .sbf => match first with
    | none => true
    | some j => decide (i < j)
  | .sif => match first with
    | none => true
    | some j => decide (i ≤ j)

/-! ## Reductions (R148, R69) -/

/-- The operation of a reduction as one of major 0x28. -/
def RedK.bin : RedK → BinK
  | .add => .add | .min => .min | .max => .max | .and => .and | .or => .or | .xor => .xor
/-- The identity (R69). -/
def redIdent (o : RedK) (t : ETag) : Nat :=
  if t.isInt then
    match o with
    | .add | .or | .xor => 0
    | .and => 2 ^ t.bits - 1
    | .min => wrapInt t.bits (hiInt t.isI t.bits)
    | .max => wrapInt t.bits (loInt t.isI t.bits)
  else
    match o with
    | .min => infBits t false
    | .max => infBits t true
    | _ => signBit t true
/-- One level of the tree: pairs combine, each result at the lower index (R69). -/
def treeLevel (f : Nat → Nat → Nat × Nat) : List (Nat × Nat) → List (Nat × Nat) × Raised
  | (i, x) :: (_, y) :: rest =>
    let (z, fl) := f x y
    let (l, r) := treeLevel f rest
    ((i, z) :: l, (i, fl) :: r)
  | l => (l, [])
/-- The tree from `2^n` leaves (R69). -/
def treeRed (f : Nat → Nat → Nat × Nat) : Nat → List (Nat × Nat) → List (Nat × Nat) × Raised
  | 0, l => (l, [])
  | n + 1, l =>
    let (l', r) := treeLevel f l
    let (l'', r') := treeRed f n l'
    (l'', r ++ r')
/-- The least n with vl ≤ 2^n. -/
def log2Up (vl : Nat) : Nat := if vl ≤ 1 then 0 else Nat.log2 (vl - 1) + 1
/-- The result of a reduction and the classes it raised (R69). -/
def reduce (o : RedK) (tree : Bool) (v : VecState) (e : Entry) : Nat × Raised :=
  let t := e.tagA
  let f := binElem o.bin t e.rm e.ftz e.daz
  let seed := e.capB.toNat % 2 ^ t.bits
  let elem := fun i => if kBit v e i then srcA v e i else none
  if e.vl == 0 then (seed, [])
  else if tree then
    let n := log2Up e.vl
    let leaves := (List.range (2 ^ n)).map fun i => (i, (if i < e.vl then elem i else none).getD (redIdent o t))
    let (l, r) := treeRed f n leaves
    let (z, fl) := f seed ((l.head?.map (·.2)).getD 0)
    (z, r ++ [(0, fl)])
  else
    (List.range e.vl).foldl (fun (acc : Nat × Raised) i => match elem i with
      | none => acc
      | some x => let (z, fl) := f acc.1 x; (z, acc.2 ++ [(i, fl)])) (seed, [])
/-- A tag's value in a scalar register: sign-extended for I tags, zero-extended otherwise (R146, R148). -/
def scalarOf (t : ETag) (x : Nat) : W64 :=
  if t.isI then BitVec.ofInt 64 (readInt true t.bits x) else BitVec.ofNat 64 (x % 2 ^ t.bits)

/-! ## Conversions (R149) -/

/-- The table of a codebook slot of a core, entry by entry; none when it is invalid (R65, R178). -/
def CoreSt.codebook (c : CoreSt) (slot : Nat) : Option (Nat → Nat) :=
  let x := c.cbs.get {} slot
  if slot < 16 && x.v then some fun i => (x.table.extractLsb' (16 * i) 16).toNat else none
/-- The core of the member that holds element `i`. -/
def coreAt (ms : List Member) (i : Nat) : Nat := ((ms[(locate ms 0 i).1]?).map (·.core)).getD 0
/-- A distribution whose blocks count `n` elements for each one. -/
def scaleDist (ms : List Member) (n : Nat) : List Member := ms.map fun m => { m with grant := m.grant * n }

/-- The unit checks of a conversion from a scaled tag (R149, R71, R65): cause, DETAIL, INDEX. -/
def unitFault (s : State) (e : Entry) (us : List (Nat × Nat)) : Option (Nat × Nat × Nat) :=
  match us.find? fun p => unitByte p.2 3 != 0 with
  | some p => some (cSCALECOUNT, 1, p.1)
  | none => match us.find? fun p => decide (unitCap e.tagA < unitFill p.2) with
    | some p => some (cSCALECOUNT, 2, p.1)
    | none =>
      if e.tagA == .sk4 then
        match us.find? fun p => ((s.core (coreAt e.dist p.1)).codebook (unitSlot p.2)).isNone with
        | some p => some (cPALSTATE, unitSlot p.2 * 256 + 4, 0)
        | none => none
      else none

/-- The units a conversion reads, each with its index. -/
def unitsOf (v : VecState) (e : Entry) : List (Nat × Nat) :=
  (List.range e.vl).filterMap fun u => (srcA v e u).map (u, ·)

/-- The destination elements of a conversion from a scaled tag. -/
def cvtUnits (s : State) (v : VecState) (e : Entry) (us : List (Nat × Nat)) : List Res :=
  let cap := unitCap e.tagA
  let ms := scaleDist e.dist cap
  (us.map fun p =>
    let tab := ((s.core (coreAt e.dist p.1)).codebook (unitSlot p.2)).getD fun _ => 0
    (List.range cap).filterMap fun q =>
      let i := cap * p.1 + q
      if maskBit v ms e.k i then
        let (x, fl) := cvtDecoded e.tagA e.tagD e.rm e.ftz (unitElem e.tagA tab p.2 q)
        some { i, x, fl }
      else none).flatten

/-- One element of a K4 source (R68). -/
def cvtK4 (s : State) (v : VecState) (e : Entry) (i : Nat) : Option (Nat × Nat) :=
  (srcA v e i).map fun c =>
    let tab := ((s.core (coreAt e.dist i)).codebook e.cb).getD fun _ => 0
    cvtDecoded .k4 e.tagD e.rm e.ftz (decFp .bf16 false (tab c))

/-! ## The whole instruction -/

/-- How a compute entry completes: the vector state, the scalar it writes, the classes raised; or a precise fault. -/
inductive ComputeOut where
  | ok (v : VecState) (sd : Option W64) (r : Raised)
  | free (v : VecState)          -- vext of an element that its entry does not supply: a free value
  | fault (cause detail index : Nat)

/-- A vector result. -/
def vecOut (v : VecState) (e : Entry) (l : List Res) : ComputeOut := .ok (writeDest v e e.vl l) none (raisedOf l)

/-- The faults of a conversion at its release (R65, R71, R149): cause, DETAIL, INDEX. -/
def cvtFault (s : State) (v : VecState) (e : Entry) : Option (Nat × Nat × Nat) :=
  if e.vl == 0 then none
  else if e.tagA.isScaled then unitFault s e (unitsOf v e)
  else if e.tagA == .k4 && (attached e.dist).any fun m => ((s.core m.core).codebook e.cb).isNone then some (cPALSTATE, e.cb * 256 + 4, 0)
  else none

/-- The results of a conversion (R149). -/
def cvtOut (s : State) (v : VecState) (e : Entry) : ComputeOut :=
  if e.vl == 0 then vecOut v e []
  else if e.tagA.isScaled then
    let l := cvtUnits s v e (unitsOf v e)
    let e' := { e with dist := scaleDist e.dist (unitCap e.tagA) }
    .ok (writeDest v e' (unitCap e.tagA * e.vl) l) none (raisedOf l)
  else if e.tagA == .k4 then vecOut v e (activeMap v e (cvtK4 s v e))
  else vecOut v e (activeMap v e fun i => (srcA v e i).map fun a => cvtElem e.tagA e.tagD e.rm e.ftz e.daz a)

/-- Completion of a compute entry of majors 0x28–0x2D over vector state `v`, the entries it pops still at their heads. -/
def computeCore (s : State) (v : VecState) (e : Entry) : ComputeOut :=
  match e.op with
  | .bin o => vecOut v e (activeMap v e fun i => (srcA v e i).bind fun a => (srcB v e i).map fun b =>
      binElem o e.tagA e.rm e.ftz e.daz a b)
  | .fma np nd => vecOut v e (activeMap v e fun i => (srcA v e i).bind fun a => (srcB v e i).map fun b =>
      fmaElem np nd e.tagA e.rm e.ftz e.daz a b (readElem v e.dist e.d e.tagD.bits i))
  | .un o => vecOut v e (activeMap v e fun i => (srcA v e i).map fun a => unElem o e.tagA e.rm e.ftz e.daz a)
  | .cmp r =>
    if e.vl == 0 then .ok v none []
    else
      let l := activeMap v e fun i => (srcA v e i).bind fun a => (srcB v e i).map fun b =>
        let (x, f) := cmpElem r e.tagA e.daz a b; ((if x then 1 else 0), f)
      let keep := (List.range e.vl).filter fun i => match l.find? fun r => r.i == i with
        | some r => r.x == 1
        | none => mBit v e e.d i
      .ok (writeMask v e.dist e.d keep) none (raisedOf l)
  | .mlog o =>
    if e.vl == 0 then .ok v none []
    else
      let first := firstSet v e e.a
      .ok (writeMask v e.dist e.d ((List.range e.vl).filter (mlogBit o v e first))) none []
  | .perm => vecOut v e (activeMap v e (permElem v e))
  | .slideup => vecOut v e (activeMap v e (slideUpElem v e))
  | .slidedn => vecOut v e (activeMap v e (slideDnElem v e))
  | .compress => vecOut v e ((blocks e.dist e.vl).map (compressBlock v e)).flatten
  | .expand => vecOut v e ((blocks e.dist e.vl).map (expandBlock v e)).flatten
  | .iota => vecOut v e (iotaRes v e)
  | .merge => vecOut v e (mergeRes v e)
  | .ins =>
    let x := e.capB.toNat
    vecOut v e (if x < e.vl then [{ i := x, x := e.capA.toNat % 2 ^ e.tagD.bits }] else [])
  | .ext =>
    let x := e.capB.toNat
    if x < e.vl then
      match srcA v e x with
      | some a => .ok v (some (scalarOf e.tagA a)) []
      | none => .free v
    else .ok v (some 0) []
  | .xch => vecOut v e (activeMap v e (xchElem v e))
  | .mpop => .ok v (some (BitVec.ofNat 64 ((List.range e.vl).filter (mBit v e e.a)).length)) []
  | .mff1 => .ok v (some (match firstSet v e e.a with | some i => BitVec.ofNat 64 i | none => -1)) []
  | .red o tree => let (x, r) := reduce o tree v e; .ok v (some (scalarOf e.tagA x)) (r.filter fun p => p.2 != 0)
  | .cvt _ =>
    (match cvtFault s v e with
      | some (c, d, i) => .fault c d i
      | none => cvtOut s v e)
  | _ => .ok v none []

/-- The lq heads a compute entry pops: va, and vb when it is no scalar (R31); mmax pops both of its. -/
def Entry.popList (e : Entry) : List Nat := popsOf (if e.c then [e.a] else [e.a, e.b])

end Sys2Proof.Machine
end

