-- ==== Sys2Proof/Machine/Matrix.lean ====
section
/-! DEFINITION. Palette slots and the matrix products (R171–R188, R70, R71). -/

namespace Sys2Proof.Machine

/-! ## Shapes (R172) -/

/-- A slot's shape. -/
structure Shape where
  tag   : ETag
  cb    : Nat
  lines : Nat
  depth : Nat
  pitch : Nat
  ksum  : Nat
deriving DecidableEq, Repr

/-- The shape of a shape scalar; none when it is impossible. -/
def shapeOf (w : W64) : Option Shape :=
  let x := w.toNat
  match tagOfCode (bits x 5 0) with
  | none => none
  | some t =>
    let s : Shape := { tag := t, cb := bits x 9 6, lines := bits x 19 10 + 1, depth := bits x 31 20 + 1,
                       pitch := bits x 47 32, ksum := bits x 63 48 }
    let tagOk := t == .bf16 || t == .f8a || t == .f8b || t == .k4 || t.isScaled
    if tagOk && (t == .k4 || s.cb == 0) && !(t == .k4 && s.depth % 2 == 1) && decide (s.lines * s.depth * t.bits ≤ 131072)
        && (if t.isScaled then s.ksum != 0 else s.ksum == 0)
    then some s else none

/-- A shape already judged possible. -/
def shapeGet (w : W64) : Shape := (shapeOf w).getD ⟨.bf16, 0, 1, 1, 0, 0⟩

/-- A palette slot of a core. -/
def CoreSt.slot (c : CoreSt) (x : Nat) : Slot := c.slots.get {} x

/-- Whether the thread has claimed the slot (R171). -/
def State.claimed (s : State) (k : ThreadKey) (x : Nat) : Bool := ((s.core (coreOf k)).slot x).st == .claimed k

/-- PALSTATE's DETAIL (R182). -/
def palDetail (c slot : Nat) : Nat × Nat := (cPALSTATE, slot * 256 + c)

/-- Whether an entry names a palette slot. -/
def Entry.names (e : Entry) (x : Nat) : Bool :=
  match e.op with
  | .mma | .mmab => e.x == x || e.y == x
  | .mmax | .mldt => e.x == x
  | _ => false

/-- Whether an entry names palette slots at all. -/
def Entry.usesSlots (e : Entry) : Bool :=
  match e.op with
  | .mma | .mmab | .mmax | .mldt => true
  | _ => false

/-- Whether an older instruction of the thread that names the slot has not completed. -/
def Thread.uses (t : Thread) (x : Nat) : Bool := t.pipe.any (·.names x) || t.trap.stop.any (·.names x)

/-- Whether a slot is RELEASING and no older instruction of its thread names it. -/
def State.letGo (s : State) (n : Nat) (sl : Slot) : Bool :=
  match sl.st with
  | .releasing k => !(s.thOf k).uses n
  | _ => false

/-- RELEASING slots become FREE once no older instruction of their thread names them (R174, R175); the dispatcher then looks at its
list (R241). -/
def State.sweepSlots (s : State) (c : Nat) : State :=
  if (s.core c).slots.any fun p => s.letGo p.1 p.2 then
    (s.modCore c fun x => { x with slots := x.slots.mapV fun n sl => if s.letGo n sl then { sl with st := .free } else sl }).later
      (.placeGroup s.th.part)
  else s

/-! ## Operand pairs (R180) -/

/-- Classes of R180's table. -/
inductive PairCls where
  | b | f | k | s | q | no
deriving DecidableEq, Repr

/-- The class of a tag. -/
def pairCls : ETag → PairCls
  | .bf16 => .b
  | .f8a | .f8b => .f
  | .k4 => .k
  | .sf8a | .sf8b => .s
  | .sk4 => .q
  | _ => .no

/-- The weight index of a pair: 14 for 1,024 multiply-accumulates per lane cycle, 15 for 2,048, 16 for scaled pairs; none when
the array has no such pair (R180, R323). -/
def pairWeight (first second : ETag) : Option Nat :=
  match pairCls first, pairCls second with
  | .b, .b | .b, .k | .k, .b => some 14
  | .f, .f | .f, .k | .k, .f => some 15
  | .s, .s | .s, .q | .q, .s => some 16
  | _, _ => none

/-! ## Slot contents -/

/-- Element `j` of line `l`, as stored. -/
def lineElem (d : Nat) (sh : Shape) (l j : Nat) : Nat := d / 2 ^ ((l * sh.depth + j) * sh.tag.bits) % 2 ^ sh.tag.bits

/-- An unscaled element's value (R65, R70). -/
def plainValue (t : ETag) (tab : Nat → Nat) (x : Nat) : Fp :=
  match t with
  | .f8a => decFp .f8a false x
  | .f8b => decFp .f8b false x
  | .k4 => decFp .bf16 false (tab x)
  | _ => decFp .bf16 false x

/-- The values of a line along k: `n` elements of an unscaled slot, or the filled positions of a scaled one (R70, R185); none in a
zero block. -/
def lineValues (cbs : Nat → Nat → Nat) (d : Nat) (sh : Shape) (l n : Nat) : List (Option Fp) :=
  if sh.tag.isScaled then
    ((List.range sh.depth).map fun u =>
      let un := lineElem d sh l u
      (List.range (unitFill un)).map fun p =>
        if unitByte un 0 == 128 then none else some (unitElem sh.tag (cbs (unitSlot un)) un p)).flatten
  else (List.range n).map fun j => some (plainValue sh.tag (cbs sh.cb) (lineElem d sh l j))

/-- The content of a slot as a number. -/
def State.slotData (s : State) (k : ThreadKey) (x : Nat) : Nat := ((s.core (coreOf k)).slot x).data.toNat
/-- The codebooks of a thread's core, an invalid one reading as zeros (it is refused before it is read). -/
def State.books (s : State) (k : ThreadKey) : Nat → Nat → Nat := fun slot =>
  ((s.core (coreOf k)).codebook slot).getD fun _ => 0

/-! ## Checks at release (R183 steps 4 to 6) -/

/-- Every unit of a scaled slot, with its number (R185). -/
def slotUnits (d : Nat) (sh : Shape) : List (Nat × Nat) :=
  ((List.range sh.lines).map fun l => (List.range sh.depth).map fun u => (l * sh.depth + u, lineElem d sh l u)).flatten

/-- SCALECOUNT for one scaled operand: DETAIL and INDEX (R71, R185). -/
def scaleFault (d : Nat) (sh : Shape) (vl kx : Nat) : Option (Nat × Nat) :=
  let us := slotUnits d sh
  match us.find? fun p => unitByte p.2 3 != 0 with
  | some p => some (1, p.1)
  | none => match us.find? fun p => decide (unitCap sh.tag < unitFill p.2) with
    | some p => some (2, p.1)
    | none =>
      if sh.depth != vl then some (3, 0)
      else if sh.ksum != kx ||
          (List.range sh.lines).any fun l =>
            ((List.range sh.depth).foldl (fun a u => a + unitFill (lineElem d sh l u)) 0) != kx then some (4, 0)
      else none

/-- PALSTATE 4 for one operand: a K4 slot's CB, and then the SLOT bytes of SK4 units (R183). -/
def bookFault (c : CoreSt) (d : Nat) (sh : Shape) : Option Nat :=
  if sh.tag == .k4 then if (c.codebook sh.cb).isNone then some sh.cb else none
  else if sh.tag == .sk4 then
    ((slotUnits d sh).find? fun p => (c.codebook (unitSlot p.2)).isNone).map fun p => unitSlot p.2
  else none

/-- Steps 4 and 5 of R183 over the slots a product reads: cause, DETAIL, INDEX. -/
def slotFaults (s : State) (k : ThreadKey) (vl : Nat) (ops : List (Nat × Shape)) : Option (Nat × Nat × Nat) :=
  let kx := ((ops.head?).map (·.2.ksum)).getD 0
  let sc := firstSome (ops.map fun p =>
    if p.2.tag.isScaled then (scaleFault (s.slotData k p.1) p.2 vl kx).map fun q => (cSCALECOUNT, q.1, q.2) else none)
  let c := s.core (coreOf k)
  let pick := fun (t : ETag) => firstSome (ops.map fun p =>
    if p.2.tag == t then (bookFault c (s.slotData k p.1) p.2).map fun sl => (cPALSTATE, sl * 256 + 4, 0) else none)
  firstSome [sc, pick .k4, pick .sk4]

/-! ## The products -/

/-- One output element: `i` accumulates the products of two lines. -/
def outElem (v : VecState) (ms : List Member) (e : Entry) (i : Nat) (ps : List Fp) : Option Res :=
  if maskBit v ms e.k i && !ps.isEmpty then
    let (x, fl) := accumulate e.arm (readElem v ms e.d 32 i) 0 ps
    some { i, x, fl }
  else none

/-- Writes the outputs (R184): unselected elements do not change. -/
def matOut (v : VecState) (ms : List Member) (e : Entry) (n : Nat) (l : List Res) : ComputeOut :=
  .ok (touch (writeAll v ms e.d 32 l) ms e.d (gOf e.gc) n 32) none (raisedOf l)

/-- The product of two positions: +0 when one of them lies in a zero block (R185). -/
def posProd : Option Fp → Option Fp → Fp
  | some x, some y => mulFp x y
  | _, _ => .fin false 0 0
/-- Products of two lists, position by position. -/
def prods (a b : List (Option Fp)) : List Fp := (a.zip b).map fun p => posProd p.1 p.2

/-- The live positions of mmax: (j, activation, index) (R186). -/
def mmaxLive (v : VecState) (e : Entry) : List (Nat × Nat × Int) :=
  (List.range e.vl).filterMap fun j =>
    (srcElem v e e.a e.tagA j).bind fun a => (srcElem v e e.b e.tagB j).map fun x =>
      (j, a, readInt e.tagB.isI e.tagB.bits x)

/-- Steps 4 to 6 of R183 for a product, made at its release: cause, DETAIL, INDEX; none over no element. -/
def prodFault (s : State) (k : ThreadKey) (v : VecState) (e : Entry) : Option (Nat × Nat × Nat) :=
  let sx := shapeGet e.capA
  if e.vl == 0 then none
  else match e.op with
    | .mma | .mmab => slotFaults s k e.vl [(e.x, sx), (e.y, shapeGet e.capB)]
    | .mmax =>
      (match slotFaults s k e.vl [(e.x, sx)] with
        | some f => some f
        | none => ((mmaxLive v e).find? fun p => decide (p.2.2 < 0) || decide ((sx.depth : Int) ≤ p.2.2)).map fun p =>
          (cPALSTATE, e.x * 256 + 6, p.1))
    | _ => none

/-- MMA (R184, R185). -/
def mmaCore (s : State) (k : ThreadKey) (v : VecState) (e : Entry) : ComputeOut :=
  let sx := shapeGet e.capA
  let sy := shapeGet e.capB
  let ms := e.dist.take 1
  if e.vl == 0 then .ok v none []
  else match prodFault s k v e with
    | some (c, d, i) => .fault c d i
    | none =>
      let books := s.books k
      let dx := s.slotData k e.x
      let dy := s.slotData k e.y
      let l := ((List.range sx.lines).map fun m =>
        let a := lineValues books dx sx m e.vl
        (List.range sy.lines).filterMap fun n =>
          outElem v ms e (m * sy.lines + n) (prods a (lineValues books dy sy n e.vl))).flatten
      matOut v ms e (sx.lines * sy.lines) l

/-- MMAX (R186). -/
def mmaxCore (s : State) (k : ThreadKey) (v : VecState) (e : Entry) : ComputeOut :=
  let sx := shapeGet e.capA
  let ms := e.dist.take 1
  if e.vl == 0 then .ok v none []
  else match prodFault s k v e with
    | some (c, d, i) => .fault c d i
    | none =>
      let live := mmaxLive v e
      let books := s.books k
      let dx := s.slotData k e.x
      let a := live.map fun p => some (plainValue e.tagA (books e.cb) p.2.1)
      let l := (List.range sx.lines).filterMap fun n =>
        outElem v ms e n (prods a (live.map fun p => some (plainValue sx.tag (books sx.cb) (lineElem dx sx n p.2.2.toNat))))
      matOut v ms e sx.lines l

/-- Lane groups of the thread, L of R187. -/
def laneGroups (ms : List Member) : Nat := nwOf ms 0 / 8
/-- P of R187: output elements of one batch, from the captured G (log entry 61). -/
def batchOut (gc : Nat) (ms : List Member) : Nat := gOf gc * nwOf ms 0 * 16 / laneGroups ms
/-- K(b) of R187. -/
def batchLen (sl : W64) (vl b : Nat) : Nat := min (bits sl.toNat (8 * b + 7) (8 * b)) vl
/-- The length scalar an mmab entry holds. -/
def Entry.lens (e : Entry) : W64 := BitVec.ofNat 64 ((e.buf.head?.map (·.2)).getD 0)

/-- MMAB (R187). -/
def mmabCore (s : State) (k : ThreadKey) (v : VecState) (e : Entry) : ComputeOut :=
  let sx := shapeGet e.capA
  let sy := shapeGet e.capB
  let ms := e.dist.take 1
  if e.vl == 0 then .ok v none []
  else match prodFault s k v e with
    | some (c, d, i) => .fault c d i
    | none =>
      let books := s.books k
      let dx := s.slotData k e.x
      let dy := s.slotData k e.y
      let lg := laneGroups ms
      let ma := sx.lines / lg
      let nb := sy.lines / lg
      let p := batchOut e.gc ms
      let l := ((List.range lg).map fun b =>
        let kb := batchLen e.lens e.vl b
        ((List.range ma).map fun m =>
          let a := lineValues books dx sx (b * ma + m) kb
          (List.range nb).filterMap fun n =>
            outElem v ms e (b * p + m * nb + n) (prods a (lineValues books dy sy (b * nb + n) kb))).flatten).flatten
      matOut v ms e (lg * p) l

end Sys2Proof.Machine
end

