-- ==== Sys2Proof/Machine/Vmem.lean ====
section
/-! DEFINITION. The access half of an entry (R151–R168, R176, R177, R199, R230, R231, R302): elements in ascending order, each
performed at one instant, up to the first that faults or waits. -/

namespace Sys2Proof.Machine

/-! ## Elements -/

/-- How far an access half went. -/
inductive AccHalf where
  /-- Every element is performed. -/
  | done (s : State) (e : Entry)
  /-- Element (or line) `i` waits; the elements below it are performed. -/
  | wait (s : State) (e : Entry) (h : Hold)
  /-- Element (or line) `i` faults; the elements below it are performed. -/
  | fault (s : State) (e : Entry) (cause detail i : Nat) (va : W64) (kind : AKind) (migw : Bool)

/-- Bytes of one element; a K4 element is half a byte, reached through its byte. -/
def elemBytes (t : ETag) : Nat := if t == .k4 then 1 else t.bits / 8

/-- The index element X(vb[i]) (R151). -/
def indexOf (v : VecState) (e : Entry) (i : Nat) : W64 :=
  BitVec.ofInt 64 (readInt e.tagB.isI e.tagB.bits (readElem v e.dist e.b e.tagB.bits i))

/-- The form of an entry's addresses. -/
def Entry.form (e : Entry) : MemForm :=
  match e.op with
  | .load f _ _ => f
  | .store f _ => f
  | .vamo _ | .scadd => .indexed
  | _ => .unit

/-- The address of element `i` (R151), modulo 2^64. -/
def elemAddr (v : VecState) (e : Entry) (i : Nat) : W64 :=
  match e.form with
  | .unit => e.capA + (if e.tagD == .k4 then BitVec.ofNat 64 (i / 2) else BitVec.ofNat 64 (i * elemBytes e.tagD))
  | .strided => e.capA + BitVec.ofNat 64 i * e.capB
  | .indexed => e.capA + indexOf v e i

/-- Whether an address breaks the alignment of the tag (R153). -/
def misaligned (t : ETag) (a : W64) : Bool := a.toNat % elemBytes t != 0

/-- The scope an acquire gather's elements are judged at; a span on several dies acts at pkg (R194). -/
def Entry.effScope (e : Entry) : Nat :=
  if e.scope < 2 && 1 < ((attached e.dist).map fun m => dieOf m.core).eraseDups.length then 2 else e.scope

/-- Whether the entry is an acquire gather (R159). -/
def Entry.gather (e : Entry) : Bool :=
  match e.op with
  | .load .indexed _ _ => e.ord == 1
  | _ => false

/-- The OP code of R78 for a vector atomic under a tag. -/
def AmoK.code (o : AmoK) (t : ETag) : Nat :=
  match o with
  | .add => 0
  | .min => if t.isN then 3 else 1
  | .max => if t.isN then 4 else 2
  | .minu => 3 | .maxu => 4 | .and => 5 | .or => 6 | .xor => 7 | .swap => 8 | .cas => 9

/-- The new value of an atomic and the classes raised (R97, R165): `sg` reads signed, `e` is the expected value of cas. -/
def amoNew (o : AmoK) (sg : Bool) (n old x e : Nat) : Nat × Nat :=
  match o with
  | .add => wrapFlag sg n (readInt sg n old + readInt sg n x)
  | .min => (if readInt sg n old ≤ readInt sg n x then old else x, 0)
  | .max => (if readInt sg n old ≤ readInt sg n x then x else old, 0)
  | .minu => (if old ≤ x then old else x, 0)
  | .maxu => (if old ≤ x then x else old, 0)
  | .and => (old &&& x, 0)
  | .or => (old ||| x, 0)
  | .xor => (old ^^^ x, 0)
  | .swap => (x, 0)
  | .cas => (if old == e then x else old, 0)

/-- A vector atomic's new value: a float add rounds by RM (R165). -/
def vamoNew (e : Entry) (o : AmoK) (old x : Nat) : Nat × Nat :=
  let t := e.tagD
  if o == .add && !t.isInt then fAdd t e.rm e.ftz e.daz old x else amoNew o t.isI t.bits old x 0

/-- What one element comes to: performed, with what it gave, the classes it raised and its flat address where it has one here. -/
inductive ElemOut where
  | ok (s : State) (got : Option Nat) (fl : Nat) (flat : Option Nat)
  | miss
  | wait (s : State) (h : Hold)
  | fault (s : State) (cause : Nat) (migw : Bool)

/-- The near-cache touch of an element's access; its request is made with those of the other elements. -/
def State.elemTouched (s : State) (k : ThreadKey) (who flat leaf : Nat) : State := (s.nearTouch flat leaf).clearStall k who

/-- One load element (R154). -/
def loadOne (s : State) (k : ThreadKey) (e : Entry) (i : Nat) (a : W64) : ElemOut :=
  let n := elemBytes e.tagD
  let nib := fun (b : Nat) => if e.tagD == .k4 then b / (if i % 2 == 0 then 1 else 16) % 16 else b
  match s.access k 1 e.user .read (vectorTarget (coreAt e.dist i) e.mtr a) n
      (.read (if e.gather then some e.effScope else none)) with
  | .at flat leaf => .ok (s.elemTouched k 1 flat leaf) (some (nib (s.load flat n))) 0 (some flat)
  | .replied bs => .ok (s.endReplies k 1) (some (nib (leNat bs))) 0 none
  | .missed => .miss
  | .fault c m s => .fault s c m
  | .stall h s => .wait s h

/-- One store element (R154). -/
def storeOne (s : State) (k : ThreadKey) (e : Entry) (i : Nat) (a : W64) (x : Nat) : ElemOut :=
  let n := elemBytes e.tagD
  let rop := if e.tagD == .k4 then RemoteOp.nib (i % 2 == 1) x else .write (leBytes n x)
  match s.access k 1 e.user .write (vectorTarget (coreAt e.dist i) e.mtr a) n rop with
  | .at flat leaf =>
    let x := if e.tagD == .k4 then setBits (s.load flat 1) (4 * (i % 2)) 4 x else x
    .ok ((s.store (some k) flat n x).elemTouched k 1 flat leaf) none 0 (some flat)
  | .replied _ => .ok (s.endReplies k 1) none 0 none
  | .missed => .miss
  | .fault c m s => .fault s c m
  | .stall h s => .wait s h

/-- One element of a vector atomic (R165–R168): one read-modify-write; the host space has no place for it (R167). -/
def atomOne (s : State) (k : ThreadKey) (e : Entry) (o : AmoK) (i : Nat) (a : W64) (x : Nat) : ElemOut :=
  let n := elemBytes e.tagD
  if e.mtr.space == 5 then .fault s cPROT false
  else
    let rop := if e.tagD.isInt || o != .add then RemoteOp.atomic (o.code e.tagD) x 0 else .famo e.tagD.code (rmCode e.rm) e.ftz e.daz x
    match s.access k 1 e.user .atomic (vectorTarget (coreAt e.dist i) e.mtr a) n rop with
    | .at flat leaf =>
      let old := s.load flat n
      let (new, fl) := vamoNew e o old x
      .ok ((s.store (some k) flat n new).elemTouched k 1 flat leaf) (some old) fl (some flat)
    | .replied bs => .ok (s.endReplies k 1) (some (leNat bs)) (vamoNew e o (leNat bs) x).2 none
    | .missed => .miss
    | .fault c m s => .fault s c m
    | .stall h s => .wait s h

/-- The value element `i` of the data register supplies; none where a popped entry has no element (R161). -/
def dataElem (v : VecState) (e : Entry) (i : Nat) : Option Nat := srcElem v e e.d e.tagD i

/-- One element of the entry. -/
def elemOne (s : State) (k : ThreadKey) (v : VecState) (e : Entry) (i : Nat) (a : W64) : ElemOut :=
  match e.op with
  | .load .. => loadOne s k e i a
  | .store .. => storeOne s k e i a ((dataElem v e i).getD 0)
  | .vamo o => atomOne s k e o i a ((dataElem v e i).getD 0)
  | .scadd => atomOne s k e .add i a ((dataElem v e i).getD 0)
  | _ => .ok s none 0 none

/-- The kind of an entry's accesses. -/
def Entry.akind (e : Entry) : AKind :=
  match e.op with
  | .store .. => .write
  | .vamo _ | .scadd => .atomic
  | _ => .read

/-- DETAIL of an element's fault: the vec path, or 1 for an atomic in the host space, which is the same number (R155, R167). -/
def vecDetail (cause : Nat) : Nat := if cause == cMISALIGN || cause == cPAGEFAULT || cause == cPROT then 1 else 0

/-- Whether an entry is an unordered store, whose elements at one address may take effect in either order (R158). -/
def Entry.anyOrder (e : Entry) : Bool :=
  match e.op with
  | .store .unit _ => false
  | .store _ ordered => !ordered
  | _ => false

/-- The state after an element of an unordered store: where a lower one of the instruction went to the same address, a free value
says which of the two the location keeps (R158). -/
def State.keepsOne (s s' : State) (again : Bool) : State :=
  if again then { s' with freeCtr := s.freeCtr + 1, mem := if (Config.freeValue s.freeCtr).getLsbD 0 then s.mem else s'.mem } else s'

/-- Whether an element of an acquire gather lies on a synchronisation page of a wider home (R199): it is then neither read nor checked. -/
def missesPage (s : State) (k : ThreadKey) (e : Entry) : Target → Bool
  | .paged _ va =>
    e.gather && match s.lookup (coreOf k) (s.thOf k).ctx va with
      | .leaf leaf _ => bit leaf 9 && decide (e.effScope < bits leaf 12 10)
      | _ => false
  | _ => false

/-- The requests of the elements performed, by the core of each. -/
def State.vecReqs (s : State) (k : ThreadKey) (e : Entry) (flats : List (Nat × Nat)) : State :=
  let t := s.thOf k
  ((flats.map (·.1)).eraseDups).foldl (fun s c =>
    s.elemReqs c (keyOf t.part t.owner) (elemBytes e.tagD) e.akind.writes (some k) ((flats.filter (·.1 == c)).map (·.2))) s

/-- What the elements of an entry have come to so far: the targets stored to, and the places accessed here. -/
structure ElemLog where
  seen  : List Target := []
  flats : List (Nat × Nat) := []

/-- The elements in ascending order, up to the first fault or wait (R154). `v` is the vector state the addresses and data are
read from, as it stood before the instruction wrote anything. -/
def runElems (k : ThreadKey) (v : VecState) : List Nat → ElemLog → State → Entry → AccHalf
  | [], l, s, e => .done (s.vecReqs k e l.flats) e
  | i :: rest, l, s, e =>
    let a := elemAddr v e i
    let core := coreAt e.dist i
    let tg := vectorTarget core e.mtr a
    if missesPage s k e tg then runElems k v rest l s { e with miss := e.miss ++ [i] }
    else if misaligned e.tagD a then .fault (s.vecReqs k e l.flats) { e with start := i } cMISALIGN 1 i a e.akind false
    else match elemOne s k v e i a with
      | .ok s' got fl flat =>
        let s' := s.keepsOne s' (e.anyOrder && l.seen.contains tg)
        let e := match got with
          | some x => if e.op == .scadd then e else { e with buf := e.buf ++ [(i, x)] }
          | none => e
        runElems k v rest { seen := if e.anyOrder then tg :: l.seen else l.seen, flats := l.flats ++ flat.toList.map ((core, ·)) } s'
          (if fl == 0 then e else { e with fl := e.fl ++ [(i, fl)] })
      | .miss => runElems k v rest l (s.endReplies k 1) { e with miss := e.miss ++ [i] }
      | .wait s h => .wait (s.vecReqs k e l.flats) { e with start := i } h
      | .fault s c m =>
        .fault (((s.vecReqs k e l.flats).endReplies k 1).clearStall k 1) { e with start := i } c (vecDetail c) i a e.akind m

/-- The active elements from the entry's start (R152, R161). -/
def memActive (v : VecState) (e : Entry) : List Nat :=
  ((List.range (e.vl - e.start)).map (e.start + ·)).filter fun i =>
    kBit v e i && (!(isQ e.d && e.akind == .write) || (dataElem v e i).isSome)

/-- Loads, stores and atomics. -/
def elemsHalf (s : State) (k : ThreadKey) (e : Entry) : AccHalf :=
  let v := (s.thOf k).v
  runElems k v (memActive v e) {} s e

/-! ## Runs of bytes -/

/-- Cuts a run of bytes at 64-byte boundaries. -/
def cutRun : Nat → W64 → Nat → List (W64 × Nat)
  | 0, _, _ => []
  | f + 1, a, n =>
    if n == 0 then []
    else
      let m := min n (64 - a.toNat % 64)
      (a, m) :: cutRun f (a + BitVec.ofNat 64 m) (n - m)

/-- The outcome of reading several runs. -/
inductive RunOut where
  | ok (s : State) (bs : List Byte)
  | wait (s : State) (h : Hold)
  | fault (s : State) (cause : Nat) (va : W64) (migw : Bool)

/-- Reads runs in order; replies of a peer are kept until the caller ends the access. -/
def readRuns (k : ThreadKey) (who : Nat) (user : Bool) (tg : W64 → Target) : List (W64 × Nat) → State → RunOut
  | [], s => .ok s []
  | (a, n) :: rest, s =>
    match s.access k who user .read (tg a) n (.read none) with
    | .at flat leaf =>
      match readRuns k who user tg rest (s.touched k who flat n leaf false) with
      | .ok s' bs => .ok s' (s.bytes flat n ++ bs)
      | r => r
    | .replied bs0 =>
      match readRuns k who user tg rest s with
      | .ok s' bs => .ok s' (bs0 ++ bs)
      | r => r
    | .missed => .ok s []
    | .fault c m s => .fault s c a m
    | .stall h s => .wait s h

/-- Reads `n` bytes from an address. -/
def readRun (s : State) (k : ThreadKey) (who : Nat) (user : Bool) (tg : W64 → Target) (a : W64) (n : Nat) : RunOut :=
  readRuns k who user tg (cutRun (n / 64 + 2) a n) s

/-- The fault of a matrix fill (R176, R177): path 2. -/
def matDetail (cause : Nat) : Nat := if cause == cMISALIGN || cause == cPAGEFAULT || cause == cPROT then 2 else 0

/-- The bytes of a slot with line `l` replaced. -/
def putLine (d : Nat) (lb l : Nat) (bs : List Byte) : Nat := setBits d (l * lb * 8) (lb * 8) (leNat bs)

/-- Writes a slot's content. -/
def State.setSlotData (s : State) (c x d : Nat) : State :=
  s.modCore c fun y => { y with slots := y.slots.upd {} x fun sl => { sl with data := BitVec.ofNat 131072 d } }

/-- The lines of mldt, in order (R176). -/
def fillLines (k : ThreadKey) (e : Entry) (sh : Shape) (base : W64) : List Nat → Nat → State → AccHalf
  | [], d, s => .done ((s.endReplies k 1).setSlotData (coreOf k) e.x d) e
  | l :: rest, d, s =>
    let lb := sh.depth * sh.tag.bits / 8
    let a := base + BitVec.ofNat 64 (l * sh.pitch)
    match readRun s k 1 e.user (vectorTarget (coreOf k) e.mtr) a lb with
    | .ok s bs => fillLines k e sh base rest (putLine d lb l bs) s
    | .wait s h => .wait s e h
    | .fault s c va m => .fault ((s.endReplies k 1).setSlotData (coreOf k) e.x d) e c (matDetail c) l va .read m

/-- mldt (R176). -/
def mldtHalf (s : State) (k : ThreadKey) (e : Entry) : AccHalf :=
  let sh := shapeGet e.capB
  let a := if sh.tag.isScaled then 64 else if sh.tag == .bf16 then 2 else 1
  if e.capA.toNat % a != 0 || sh.pitch % a != 0 then .fault s e cMISALIGN 2 0 e.capA .read false
  else fillLines k e sh e.capA (List.range sh.lines) (s.slotData k e.x) s

/-- cbld (R177). -/
def cbldHalf (s : State) (k : ThreadKey) (e : Entry) : AccHalf :=
  if e.capA.toNat % 32 != 0 then .fault s e cMISALIGN 2 0 e.capA .read false
  else match readRun s k 1 e.user (vectorTarget (coreOf k) e.mtr) e.capA 32 with
    | .ok s bs =>
      .done ((s.endReplies k 1).modCore (coreOf k) fun y => { y with cbs := y.cbs.upd {} e.x fun c =>
        { v := true, gen := (c.gen + 1) % 256, thr := tidOf k, table := BitVec.ofNat 256 (leNat bs) } }) e
    | .wait s h => .wait s e h
    | .fault s c va m => .fault (s.endReplies k 1) e c (matDetail c) 0 va .read m

/-! ## capp (R230, R231) -/

/-- Writes checked before any is made: the flat places of several runs. -/
def placeRuns (k : ThreadKey) (user : Bool) (tg : W64 → Target) : List (W64 × List Byte) → State →
    List (Nat × Nat × List Byte) → AccOut ⊕ (List (Nat × Nat × List Byte) × W64)
  | [], _, acc => .inr (acc, 0)
  | (a, bs) :: rest, s, acc =>
    match s.access k 1 user .write (tg a) bs.length (.write bs) with
    | .at flat leaf => placeRuns k user tg rest s (acc ++ [(flat, leaf, bs)])
    | .replied _ => placeRuns k user tg rest s acc
    | .missed => placeRuns k user tg rest s acc
    | .fault c m s => .inl (.fault c m s)
    | .stall h s => .inl (.stall h s)

/-- The first address whose write fails, for TRAPVA. -/
def badRun (s : State) (k : ThreadKey) (user : Bool) (tg : W64 → Target) : List (W64 × List Byte) → W64
  | [] => 0
  | (a, bs) :: rest =>
    match s.access k 1 user .write (tg a) bs.length (.write bs) with
    | .fault .. => a
    | _ => badRun s k user tg rest

/-- Performs writes already checked. -/
def putRuns (k : ThreadKey) : List (Nat × Nat × List Byte) → State → State
  | [], s => s
  | (flat, leaf, bs) :: rest, s => putRuns k rest ((s.storeBytes (some k) flat bs).touched k 1 flat bs.length leaf true)

/-- A user-level cause becomes pending, which ends a wait (R303, R119). -/
def raiseUi (t : Thread) (bit_ : Nat) : Thread :=
  let t := t.endWait
  { t with ui := { t.ui with pend := setBit t.ui.pend bit_ true } }

/-- What capp makes of its descriptor's 32 bytes and its active indices (R231): a trap (cause, DETAIL, TRAPVA), or the ring writes, the
write of WR, and the counts WR − RD before and after, as exact numbers. -/
structure CappPlan where
  bad  : Option (Nat × Nat × W64)
  ring : List (W64 × List Byte)
  wr   : List Byte
  used : Int
  now  : Int

/-- The plan of a capp. -/
def cappPlan (bs : List Byte) (idx : List Nat) : CappPlan :=
  let x := leNat bs
  let ring := BitVec.ofNat 64 (bits x 63 0)
  let wr : Nat := bits x 191 128
  let used : Int := (wr : Int) - (bits x 255 192 : Int)
  let cap : Nat := 2 ^ bits x 68 64
  { bad :=
      if ring.toNat % 4 != 0 then some (cMISALIGN, 1, ring)
      else if bits x 68 64 < 6 || 24 < bits x 68 64 || bits x 95 69 != 0 then some (cQFULL, 5, 0)
      else if (cap : Int) < used + (idx.length : Int) then some (cQFULL, 4, 0)
      else none
    ring := idx.zipIdx.map fun (p : Nat × Nat) =>
      (ring + BitVec.ofNat 64 (4 * ((wr + p.2) % cap)), leBytes 4 ((p.1 + bits x 127 96) % 2 ^ 32))
    wr := leBytes 8 (wr + idx.length), used, now := used + (idx.length : Int) }

/-- The end of a capp: the interrupt when WR − RD reaches VL (R231). -/
def cappEnd (s : State) (k : ThreadKey) (e : Entry) (p : CappPlan) : AccHalf :=
  .done (if p.used < (e.vl : Int) && (e.vl : Int) ≤ p.now then s.modTh k (raiseUi · 2) else s) e

/-- The trap that a plan names. -/
def cappTrap (s : State) (k : ThreadKey) (e : Entry) (b : Nat × Nat × W64) : AccHalf :=
  .fault (s.endReplies k 1) e b.1 b.2.1 0 b.2.2 .read false

/-- The address of a capp's write that its peer found to fail; the descriptor's when it is none of them. -/
def State.ringFault (s : State) (k : ThreadKey) (d : W64) : W64 :=
  match (s.thOf k).replies.find? fun r => r.who == 1 with
  | some r => match r.out with
    | .ring va _ _ => va
    | _ => d
  | none => d

/-- A capp in the remote space: one operation at the package whose page names the place of WR (R167, R231). -/
def cappRemote (s : State) (k : ThreadKey) (e : Entry) (pkg off : Nat) (idx : List Nat) : AccHalf :=
  match s.remote k 1 e.user pkg off 32 (.capp idx) with
  | .replied bs =>
    let s := s.endReplies k 1
    let p := cappPlan bs idx
    match p.bad with
    | some b => cappTrap s k e b
    | none => cappEnd s k e p
  | .stall h s => .wait s e h
  | .fault c m s' => .fault ((s'.endReplies k 1).clearStall k 1) e c (vecDetail c) 0 (s.ringFault k e.capA) .write m
  | _ => .done s e

/-- capp. -/
def cappHalf (s : State) (k : ThreadKey) (e : Entry) : AccHalf :=
  let tg := vectorTarget (coreOf k) e.mtr
  let d := e.capA
  let idx := (List.range e.vl).filter (kBit (s.thOf k).v e)
  if e.vl == 0 then .done s e
  else if d.toNat % 32 != 0 then .fault s e cMISALIGN 1 0 d .read false
  else match tg d with
    | .remote pkg off => cappRemote s k e pkg off idx
    | _ => match readRun s k 1 e.user tg d 32 with
      | .wait s h => .wait s e h
      | .fault s c va m => .fault (s.endReplies k 1) e c (vecDetail c) 0 va .read m
      | .ok s bs =>
        let p := cappPlan bs idx
        match p.bad with
        | some b => cappTrap s k e b
        | none =>
          let runs := p.ring ++ [(d + 16, p.wr)]
          match placeRuns k e.user tg runs s [] with
          | .inl (.fault c m s') =>
            .fault ((s'.endReplies k 1).clearStall k 1) e c (vecDetail c) 0 (badRun s k e.user tg runs) .write m
          | .inl (.stall h s') => .wait s' e h
          | .inl _ => .done s e
          | .inr (places, _) => cappEnd ((putRuns k places s).endReplies k 1) k e p

/-! ## bxld (R302) -/

/-- The channel of a number. -/
def Thread.chan (t : Thread) (n : Nat) : Chan := if n == 0 then t.ch0 else t.ch1
/-- Changes a channel. -/
def Thread.modChan (t : Thread) (n : Nat) (f : Chan → Chan) : Thread :=
  if n == 0 then { t with ch0 := f t.ch0 } else { t with ch1 := f t.ch1 }

/-- The element size of a code (R293). -/
def eszOf (c : Nat) : Nat := 2 ^ c

/-- Repeats: indices whose value stands at a lower index (R302). -/
def dupIdx (l : List W64) : List Nat :=
  (l.zipIdx.filter fun p => (l.take p.2).contains p.1).map (·.2)

/-- bxld: its identifier, its mask and the elements its loads will move; the loads complete as BXLD_COMPLETE. -/
def bxldHalf (s : State) (k : ThreadKey) (e : Entry) : AccHalf :=
  let v := (s.thOf k).v
  if e.vl == 0 then .done s e
  else if !(s.thOf k).pending.isEmpty then .wait s e .none
  else match readRun s k 1 e.user (scalarTarget (coreOf k)) e.capA 32 with
    | .wait s h => .wait s e h
    | .fault s c va m => .fault (s.endReplies k 1) e c 0 0 va .read m
    | .ok s bs =>
      let s := s.endReplies k 1
      let x := leNat bs
      let ch := if bit x 131 then 1 else 0
      let n := eszOf (bits x 130 128)
      if e.capA.toNat % 32 != 0 then .fault s e cMISALIGN 0 0 e.capA .read false
      else if bits x 255 133 != 0 || 3 < bits x 130 128 then .fault s e cCOPYFAULT 1 0 0 .read false
      else if ((s.thOf k).chan ch).frz then .fault s e cCOPYFAULT 2 0 0 .read false
      else
        let idx := (List.range e.vl).map (indexOf v e)
        let pairs := idx.zipIdx.map fun p =>
          (BitVec.ofNat 64 (bits x 63 0) + p.1, BitVec.ofNat 64 (bits x 127 64) + BitVec.ofNat 64 (p.2 * n))
        match (pairs.zipIdx).find? fun p => p.1.1.toNat % n != 0 || p.1.2.toNat % n != 0 with
        | some (p, i) =>
          .fault s e cMISALIGN 4 i (if p.1.toNat % n != 0 then p.1 else p.2) .read false
        | none =>
          let t := s.thOf k
          let id := (t.chan ch).next
          let xf : Xfer := { first := id, count := 1, total := e.vl, esz := n, dloc := bit x 132, mtr := e.mtr, pairs, isBx := true,
                             user := e.user }
          let s := s.modTh k fun t => { t.modChan ch fun c => { c with next := id + 1, xfers := c.xfers ++ [xf] } with
            v := writeMask t.v e.dist e.d (dupIdx idx) }
          .done (s.later (.stripStart k ch)) e

/-- A scalar destination of a routed instruction. -/
def State.scalarDest (s : State) (k : ThreadKey) (d : Nat) (x : W64) : State := s.modTh k fun t => setScalar t none d x

end Sys2Proof.Machine
end

