-- ==== Sys2Proof/Machine/Gate.lean ====
section
/-! DEFINITION. The dispatch gate: charges (R323), element-beats and virtual times (R229), the bucket (R325), samples (R356). -/

namespace Sys2Proof.Machine

/-! ## Entries -/

/-- Operations that read k as an operand are never dropped (R145). -/
def Entry.readsK (e : Entry) : Bool :=
  match e.op with
  | .iota | .merge => true
  | _ => false

/-- Whether the gate or the access unit drops the entry: disabled by its stage, or its mask's all-false flag set (R34). -/
def isDropped (v : VecState) (e : Entry) : Bool := e.dropped || (!e.readsK && allFalse v e.k)

/-- Operations of vector memory: VSTART and R154 apply. -/
def Entry.isMem (e : Entry) : Bool :=
  match e.op with
  | .load .. | .store .. | .vamo _ | .scadd => true
  | _ => false
/-- A load. -/
def Entry.isLoad (e : Entry) : Bool :=
  match e.op with
  | .load .. => true
  | _ => false
/-- A store. -/
def Entry.isStore (e : Entry) : Bool :=
  match e.op with
  | .store .. => true
  | _ => false
/-- A fault-only-first load. -/
def Entry.isFf (e : Entry) : Bool :=
  match e.op with
  | .load _ ff _ => ff
  | _ => false

/-- Whether the entry is a product. -/
def isProduct (e : Entry) : Bool :=
  match e.op with
  | .mma | .mmax | .mmab => true
  | _ => false

/-- Whether an entry writes mask `m`. -/
def Entry.writesMask (e : Entry) (m : Nat) : Bool :=
  match e.op with
  | .cmp _ | .mlog _ | .bxld => e.d == m
  | .load .. => e.gather && e.mdest == m
  | _ => false

/-- Whether a slot's data is decoded through codebook slot `x`: its CB for K4, a unit's SLOT for SK4 (R65). -/
def shapeBook (w : W64) (x : Nat) : Bool :=
  let sh := shapeGet w
  (sh.tag == .k4 && sh.cb == x) || sh.tag == .sk4

/-- Whether an entry may decode K4 or SK4 data through codebook slot `x` (R65). -/
def Entry.readsBook (e : Entry) (x : Nat) : Bool :=
  match e.op with
  | .cvt _ => (e.tagA == .k4 && e.cb == x) || e.tagA == .sk4
  | .mma | .mmab => shapeBook e.capA x || shapeBook e.capB x
  | .mmax => (e.tagA == .k4 && e.cb == x) || shapeBook e.capA x
  | _ => false

/-- Whether an entry's access half reads vector state that older entries may still write: its mask, its index, its data. -/
def Entry.readsVec (e : Entry) : Bool :=
  e.k != 0 || e.form == .indexed || e.op == .bxld || e.op == .capp || (e.inExe && !e.isLoad)

/-- The first entry that passes, with the entries before it. -/
def splitAt (f : Entry → Bool) : List Entry → Option (List Entry × Entry)
  | [] => none
  | e :: es => if f e then some ([], e) else (splitAt f es).map fun p => (e :: p.1, p.2)

/-! ## Charges -/

/-- WTAB[x] (R324). -/
def State.wtab (s : State) (x : Nat) : Nat :=
  bits (s.mgrReg (0x9C0 + x / 16)).toNat (4 * (x % 16) + 3) (4 * (x % 16))

/-- The weight index of an entry (R323). -/
def weightIdx (e : Entry) : Nat :=
  match e.op with
  | .bin o =>
    if e.tagA.isInt then
      (match o with
        | .mul | .mulh => 2
        | .div | .rem => 4
        | _ => 0)
    else
      (match o with
        | .mul => 3
        | .div => 4
        | _ => 1)
  | .fma _ _ => if e.tagA.isInt then 2 else 3
  | .un o =>
    (match o with
      | .sqrt => 4
      | .rcpe | .rsqe | .exp2 | .log2 => 5
      | _ => if e.tagA.isInt then 0 else 1)
  | .cmp _ => if e.tagA.isInt then 0 else 1
  | .mlog _ | .mpop | .mff1 | .iota => 6
  | .perm | .slideup | .slidedn | .compress | .expand | .merge | .ins | .ext => 7
  | .xch => 8
  | .red .. => 9
  | .cvt _ => 10
  | .load .. => 11
  | .store .. => 12
  | .vamo _ | .scadd => 13
  | .mma | .mmab => (pairWeight (shapeGet e.capA).tag (shapeGet e.capB).tag).getD 14
  | .mmax => (pairWeight e.tagA (shapeGet e.capA).tag).getD 14
  | .bxld | .capp | .mldt | .cbld | .xcfg | .dsend | .dpull | .ddrop | .dresend => 19

/-- The element size of an entry, in bits: that of the data tag for vector memory, else the largest among its vector operands (R229,
R323); 0 where only masks are operands. -/
def maxBitsOf (e : Entry) : Nat :=
  match e.op with
  | .load .. | .store .. | .vamo _ | .scadd => e.tagD.bits
  | .mlog _ | .mpop | .mff1 => 0
  | .perm => if e.c then max e.tagD.bits e.tagA.bits else max e.tagD.bits (max e.tagA.bits e.tagB.bits)
  | _ => max e.tagD.bits (max e.tagA.bits e.tagB.bits)

/-- The charge of a relocation at a member whose larger Nw is `n` (R126). -/
def State.relocCharge (s : State) (n : Nat) : Nat := min (512 * n * s.wtab 7) (2 ^ 20 - 1)
/-- The element-beats of a relocation (R126). -/
def relocBeats (nmax nw : Nat) : Nat := cdiv (32 * 64 * nmax) (8 * max 1 nw)

/-- The multiply-accumulates of a product at `v` elements of k (R229, R323). -/
def macs (e : Entry) (v : Nat) : Nat :=
  let sx := shapeGet e.capA
  let sy := shapeGet e.capB
  match e.op with
  | .mma => sx.lines * sy.lines * (if sx.tag.isScaled then sx.ksum else v)
  | .mmax => sx.lines * v
  | .mmab =>
    let lg := laneGroups (e.dist.take 1)
    ((List.range lg).map fun b => (sx.lines / lg) * (sy.lines / lg) * batchLen e.lens v b).foldl (· + ·) 0
  | _ => 0

/-- E of R323 for `v` elements. -/
def gateElems (e : Entry) (v : Nat) : Nat :=
  if isProduct e then cdiv (macs e v) 64
  else if weightIdx e == 6 then max 1 (cdiv v 32)
  else max 1 (cdiv (v * maxBitsOf e) 32)

/-- The charge of an entry at a member holding `v` elements (R323). -/
def State.charge (s : State) (e : Entry) (v : Nat) : Nat :=
  if v == 0 then 0 else min (gateElems e v * s.wtab (weightIdx e)) (2 ^ 20 - 1)

/-- B of R229 on a core where the thread has `n` lanes. -/
def gateBeats (e : Entry) (n : Nat) : Nat :=
  let nw := max 1 n
  if isProduct e then
    let b := cdiv (macs e e.vl) (16 * nw)
    max 1 (if weightIdx e == 14 then b else cdiv b 2)
  else max 1 (cdiv (e.vl * maxBitsOf e) (64 * nw))

/-! ## The bucket -/

/-- The effective drain D of a core (R330): the least of its string's L and its cluster's C. -/
def State.drainOf (s : State) (c : Nat) : Nat := min (s.str (strOf c)).limit (s.clu (cluOf c)).cap

/-- Whether a charge may be released into a level (R325). -/
def gateOpens (level charge : Nat) : Bool := decide (level + charge ≤ 4096) || level == 0

/-- Books a release: the level, the interval's charge, GATEU of the owner (R325, R329). -/
def State.book (s : State) (c part owner charge : Nat) : State :=
  let s := s.modCore c fun x => { x with bucket := min (x.bucket + charge) (2 ^ 21 - 1), charge := x.charge + charge }
  s.modPart part fun p => { p with gateu := p.gateu.upd 0 owner (sat48 · charge) }

/-- Lane cycles until the gate opens for a charge, at least one: each drains D. -/
def cyclesToOpen (level charge d : Nat) : Nat :=
  let target := if charge ≤ 4096 then 4096 - charge else 0
  max 1 (cdiv (level - target) (max 1 d))

/-- Lets the lane cycles pass that the gate needs, and releases (R325). A charge of 0 does not wait. -/
def State.passGate (s : State) (c part owner charge : Nat) : State :=
  if charge == 0 then s
  else
    let d := s.drainOf c
    let n := cyclesToOpen (s.core c).bucket charge d
    (s.modCore c fun x => { x with bucket := x.bucket - n * d }).book c part owner charge

/-- One lane cycle of the gate for a charge: whether it was released (R325). -/
def State.gateCycle (s : State) (c part owner charge : Nat) : State × Bool :=
  let d := s.drainOf c
  let s := s.modCore c fun x => { x with bucket := x.bucket - d }
  if gateOpens (s.core c).bucket charge then (s.book c part owner charge, true) else (s, false)

/-! ## What stands at a gate (R33, R34, R126, R229) -/

/-- A place where an instruction passes a gate: the thread slot of a member, the elements it holds, and its Nw. -/
structure GateSpot where
  slot : ThreadKey
  n    : Nat
  nw   : Nat
deriving DecidableEq, Repr

/-- The gates an entry of thread `k` passes: its home member's for a product, else each attached member's (R325). A span member's V is
its own grant, whatever a fault-only-first load left of VL (R323). -/
def spotsOf (k : ThreadKey) (e : Entry) : List GateSpot :=
  if isProduct e then [⟨k, e.vl, nwOf e.dist 0⟩]
  else match (shares e.dist e.vl).filter (·.1.attached) with
    | [] => [⟨k, e.vl, 0⟩]
    | l => l.map fun p => ⟨4 * p.1.core + p.1.tid, if 1 < e.dist.length then p.1.grant else p.2, p.1.nw⟩

/-- The control thread that a thread slot serves: its own group's, or the span's whose member holds it. -/
def State.slotOwner (s : State) (j : ThreadKey) : Option ThreadKey :=
  if (s.thOf j).group.isSome then some j
  else (s.threads.find? fun p => p.2.group.isSome && p.2.v.members.any fun m => m.attached && 4 * m.core + m.tid == j).map (·.1)

/-- Whether a thread's routed instructions may start: its group is loaded, and it is not halted (R41, R240, R354). -/
def State.issues (s : State) (k : ThreadKey) : Bool :=
  let t := s.thOf k
  !t.halted && (t.group.bind s.grp).any fun g => g.st == .loaded

/-- Whether an entry may be released: every lq head it pops is there, and room in the sq it pushes (R31); the older writers of its mask
(R34), the older fills of the slots and codebooks it reads (R65, R179), and the older accesses that read vector state (R35) have
completed. -/
def gateReady (t : Thread) (older : List Entry) (e : Entry) : Bool :=
  e.popList.all (fun n => !(t.v.queues.get [] n).isEmpty) && (!isQ e.d || e.isMem || decide ((t.v.queues.get [] e.d).length < 4))
    && older.all fun o => !o.writesMask e.k && (o.inExe || !o.readsVec) && !(o.op == .mldt && e.names o.x)
      && !(o.op == .cbld && e.readsBook o.x)

/-- What stands at the gate for a thread slot: a relocation with its larger Nw and its Nw, or an instruction, the entries older than it,
and its place. -/
inductive Standing where
  | reloc (k : ThreadKey) (n nw : Nat)
  | entry (k : ThreadKey) (older : List Entry) (e : Entry) (p : GateSpot)
deriving DecidableEq, Repr

/-- The instruction of thread `k` that stands at the gate for slot `j`: its oldest in the execute queue, ready, not dropped, and not yet
past this gate. -/
def State.standingEntry (s : State) (k j : ThreadKey) : Option Standing :=
  match splitAt (·.inExe) (s.thOf k).pipe with
  | none => none
  | some (older, e) =>
    if e.released || (e.inAcc && !e.accDone) || e.gates.contains (coreOf j) || isDropped (s.thOf k).v e || !gateReady (s.thOf k) older e
    then none
    else ((spotsOf k e).find? (·.slot == j)).map (.entry k older e)

/-- What stands at the gate for a thread slot. A relocation stands ahead of every instruction routed after it (R126). -/
def State.standing (s : State) (j : ThreadKey) : Option Standing :=
  match s.slotOwner j with
  | none => none
  | some k =>
    let t := s.thOf k
    if !s.issues k then none
    else if t.reloc.isEmpty then s.standingEntry k j
    else match t.reloc.find? (·.1 == j) with
      | some r => some (.reloc k r.2 (((t.v.members.find? fun m => 4 * m.core + m.tid == j).map (·.nw)).getD 0))
      | none => none

/-- B of what stands (R229, R126). -/
def Standing.beats : Standing → Nat
  | .reloc _ n nw => relocBeats n nw
  | .entry _ _ e p => gateBeats e p.nw

/-- Control threads of a core. -/
def keysOf (c : Nat) : List ThreadKey := [4 * c, 4 * c + 1, 4 * c + 2, 4 * c + 3]

/-- The thread slots of a core that wait at the gate (R229); dropped instructions pass without a grant. -/
def State.contenders (s : State) (c : Nat) : List ThreadKey := (keysOf c).filter fun j => (s.standing j).isSome

/-- Notes which slots of a core have come to stand at the gate, in the order they came (R229). -/
def State.gateArrive (s : State) (c : Nat) : State :=
  (keysOf c).foldl (fun s j =>
    let age := (s.thOf j).seqAge
    if (s.standing j).isNone then if age == 0 then s else s.modTh j fun t => { t with seqAge := 0 }
    else if age != 0 || (s.core c).granted == some j then s
    else
      let n := (s.core c).seqClock + 1
      (s.modTh j fun t => { t with seqAge := n }).modCore c fun x => { x with seqClock := n }) s

/-- As `gateArrive`, on every core of a thread. -/
def State.gateArrivals (s : State) (k : ThreadKey) : State :=
  ((coreOf k :: (attached (s.thOf k).v.members).map (·.core)).eraseDups).foldl (fun s c => s.gateArrive c) s

/-- The least VT of a list of threads. -/
def State.minSeqVt (s : State) : List ThreadKey → Option Nat
  | [] => none
  | k :: ks => match s.minSeqVt ks with
    | none => some (s.thOf k).seqVt
    | some m => some (if vtDiff (s.thOf k).seqVt m ≤ 0 then (s.thOf k).seqVt else m)

/-- Clamp() over the control threads of a core, `w` waiting (R315, R229). -/
def State.clampSeq (s : State) (c : Nat) (w : List ThreadKey) : State :=
  match s.minSeqVt w with
  | none => s
  | some m =>
    let f := vtAdd m (-65536)
    (keysOf c).foldl (fun s k => s.modTh k fun t => { t with seqVt := clampVt f t.seqVt }) s

/-- A grant: VT rises by B × 4,096 ÷ W, the remainder carried (R229). -/
def grantVt (b : Nat) (t : Thread) : Thread :=
  let w := max 1 t.seqW
  let x := b * 4096 + t.seqRem
  { t with seqVt := vtAdd t.seqVt (x / w : Nat), seqRem := x % w, seqAge := 0 }

/-- Grants thread slot `k` of core `c` for B element-beats, among waiting slots `w`. -/
def State.seqGrant (s : State) (c : Nat) (w : List ThreadKey) (k : ThreadKey) (b : Nat) : State :=
  (((s.clampSeq c w).modTh k (grantVt b)).clampSeq c w)

/-- The gate of a core has released what slot `j` was granted. -/
def State.ungrant (s : State) (j : ThreadKey) : State :=
  s.modCore (coreOf j) fun x => if x.granted == some j then { x with granted := none } else x

/-- A grant and its release at once: the bucket's lane cycles pass (R229, R325). -/
def State.passSlot (s : State) (t : Thread) (j : ThreadKey) (beats charge : Nat) : State :=
  let s := if (s.core (coreOf j)).granted == some j then s else s.seqGrant (coreOf j) [j] j beats
  (s.passGate (coreOf j) t.part t.owner charge).ungrant j

/-- The relocation of a thread passes the gates of its members at once (R126). -/
def State.passReloc (s : State) (k : ThreadKey) : State :=
  let t := s.thOf k
  let nw := fun j => ((t.v.members.find? fun m => 4 * m.core + m.tid == j).map (·.nw)).getD 0
  let s := t.reloc.foldl (fun s r => s.passSlot t r.1 (relocBeats r.2 (nw r.1)) (s.relocCharge r.2)) s
  if t.reloc.isEmpty then s else s.modTh k fun t => { t with reloc := [] }

/-- The better of two contenders: smaller VT, then longer wait, then lower thread number (R229). -/
def State.seqBetter (s : State) (a b : ThreadKey) : ThreadKey :=
  let d := vtDiff (s.thOf a).seqVt (s.thOf b).seqVt
  if d < 0 then a else if 0 < d then b
  else if (s.thOf a).seqAge < (s.thOf b).seqAge then a
  else if (s.thOf b).seqAge < (s.thOf a).seqAge then b
  else if b < a then b else a

/-! ## Samples (R356, R358) -/

/-- Counts a release toward PER; true when the instruction is to be sampled. -/
def countRelease (t : Thread) : Thread × Bool :=
  if bit t.sampctl.toNat 0 then
    if bits t.sampctl.toNat 31 8 ≤ t.relCount + 1 then ({ t with relCount := 0 }, true) else ({ t with relCount := t.relCount + 1 }, false)
  else (t, false)

/-- Four lane-cycle values of each lane group: times, so free values (log entry 12: timing is not modelled). -/
def freeLgs : Nat → Nat → List (List Nat)
  | _, 0 => []
  | c, n + 1 =>
    [(Config.freeValue c).toNat, (Config.freeValue (c + 1)).toNat, (Config.freeValue (c + 2)).toNat, (Config.freeValue (c + 3)).toNat]
      :: freeLgs (c + 4) n

/-- Bytes of a sample's trace record (R358). -/
def traceSample (k : ThreadKey) (x : Sample) : List Byte :=
  leBytes 16 (2 + tidOf k * 2 ^ 4 + coreOf k * 2 ^ 6) ++ leBytes 8 x.addr.toNat ++ leBytes 4 x.seq ++ leBytes 4 x.vl
    ++ leBytes 4 x.it ++ leBytes 12 x.lvl ++ leBytes 16 0
    ++ (x.lgs.map fun l => (l.map fun v => leBytes 2 (min v 0xFFFF)).flatten).flatten
    ++ leBytes (8 * (8 - x.lgs.length)) 0

/-- Records a sample at an instruction's completion. -/
def State.recordSample (s : State) (k : ThreadKey) (e : Entry) : State :=
  if !e.sampled then s
  else
    let t := s.thOf k
    let n := laneGroups (e.dist.take 1)
    let x : Sample :=
      { addr := e.fu.addr, seq := t.sampSeq, vl := e.vl
        lvl := match t.loops with | [] => 0 | r :: _ => r.l + 4
        it := match t.loops with | [] => 0 | r :: _ => r.i
        lgs := freeLgs s.freeCtr n }
    let s : State := { s with freeCtr := s.freeCtr + 4 * n }
    let s := s.modTh k fun t => { t with sample := some x, sampSeq := (t.sampSeq + 1) % 2 ^ 32 }
    if bit t.sampctl.toNat 1 then s.trace (s.part t.part).func (traceSample k x) else s

/-- Counts a release of thread `k` and marks the entry if it is sampled. -/
def State.sampleRelease (s : State) (k : ThreadKey) (e : Entry) : State × Entry :=
  let (t, b) := countRelease (s.thOf k)
  (s.setTh k t, { e with sampled := b })

end Sys2Proof.Machine
end

