-- ==== Sys2Proof/Machine/Scalar.lean ====
section
/-! DEFINITION. Scalar integer instructions: majors 0x01 to 0x06 and 0x0F (R92–R94). -/

namespace Sys2Proof.Machine

/-! ## Operations -/

/-- Signed division (R93). -/
def divW (a b : W64) : W64 := if b = 0 then BitVec.allOnes 64 else a.sdiv b
/-- Unsigned division (R93). -/
def divuW (a b : W64) : W64 := if b = 0 then BitVec.allOnes 64 else a / b
/-- Signed remainder (R93). -/
def remW (a b : W64) : W64 := if b = 0 then a else a.srem b
/-- Unsigned remainder (R93). -/
def remuW (a b : W64) : W64 := if b = 0 then a else a % b
/-- High half of a signed product (R93). -/
def mulhW (a b : W64) : W64 := BitVec.ofInt 64 (a.toInt * b.toInt / ((2 ^ 64 : Nat) : Int))
/-- High half of an unsigned product (R93). -/
def mulhuW (a b : W64) : W64 := BitVec.ofNat 64 (a.toNat * b.toNat / 2 ^ 64)
/-- A condition as 1 or 0 (R93). -/
def condW (p : Bool) : W64 := if p then 1 else 0
/-- The shift amount of a register (R93). -/
def shOf (b : W64) : Nat := b.toNat % 64
/-- Set bits (R93). -/
def popcW (a : W64) : W64 := BitVec.ofNat 64 ((List.range 64).filter a.getLsbD).length
/-- Trailing zero bits; 64 of zero (R93). -/
def ctzW (a : W64) : W64 := BitVec.ofNat 64 ((List.range 64).takeWhile fun i => !a.getLsbD i).length
/-- Leading zero bits; 64 of zero (R93). -/
def clzW (a : W64) : W64 := BitVec.ofNat 64 ((List.range 64).takeWhile fun i => !a.getMsbD i).length

/-- A result written to d, and the pc moved on. -/
def State.alu (s : State) (d : SReg) (x : W64) : State := (s.setS d x).advance

/-- The sign-extended immediate (R77, R89). -/
def sextI (imm : Imm) : W64 := imm.signExtend 64
/-- The zero-extended immediate (R77, R89). -/
def zextI (imm : Imm) : W64 := imm.zeroExtend 64

/-- ADD (R93). -/
def execAdd (d a b : SReg) (s : State) : Host.Outcome State Fault Refusal :=
  .next (s.alu d (s.getS a + s.getS b))
/-- SUB (R93). -/
def execSub (d a b : SReg) (s : State) : Host.Outcome State Fault Refusal :=
  .next (s.alu d (s.getS a - s.getS b))
/-- MUL (R93). -/
def execMul (d a b : SReg) (s : State) : Host.Outcome State Fault Refusal :=
  .next (s.alu d (s.getS a * s.getS b))
/-- MULH (R93). -/
def execMulh (d a b : SReg) (s : State) : Host.Outcome State Fault Refusal :=
  .next (s.alu d (mulhW (s.getS a) (s.getS b)))
/-- MULHU (R93). -/
def execMulhu (d a b : SReg) (s : State) : Host.Outcome State Fault Refusal :=
  .next (s.alu d (mulhuW (s.getS a) (s.getS b)))
/-- DIV (R93). -/
def execDiv (d a b : SReg) (s : State) : Host.Outcome State Fault Refusal :=
  .next (s.alu d (divW (s.getS a) (s.getS b)))
/-- DIVU (R93). -/
def execDivu (d a b : SReg) (s : State) : Host.Outcome State Fault Refusal :=
  .next (s.alu d (divuW (s.getS a) (s.getS b)))
/-- REM (R93). -/
def execRem (d a b : SReg) (s : State) : Host.Outcome State Fault Refusal :=
  .next (s.alu d (remW (s.getS a) (s.getS b)))
/-- REMU (R93). -/
def execRemu (d a b : SReg) (s : State) : Host.Outcome State Fault Refusal :=
  .next (s.alu d (remuW (s.getS a) (s.getS b)))
/-- AND (R93). -/
def execAnd (d a b : SReg) (s : State) : Host.Outcome State Fault Refusal :=
  .next (s.alu d (s.getS a &&& s.getS b))
/-- OR (R93). -/
def execOr (d a b : SReg) (s : State) : Host.Outcome State Fault Refusal :=
  .next (s.alu d (s.getS a ||| s.getS b))
/-- XOR (R93). -/
def execXor (d a b : SReg) (s : State) : Host.Outcome State Fault Refusal :=
  .next (s.alu d (s.getS a ^^^ s.getS b))
/-- SLL (R93). -/
def execSll (d a b : SReg) (s : State) : Host.Outcome State Fault Refusal :=
  .next (s.alu d (s.getS a <<< shOf (s.getS b)))
/-- SRL (R93). -/
def execSrl (d a b : SReg) (s : State) : Host.Outcome State Fault Refusal :=
  .next (s.alu d (s.getS a >>> shOf (s.getS b)))
/-- SRA (R93). -/
def execSra (d a b : SReg) (s : State) : Host.Outcome State Fault Refusal :=
  .next (s.alu d ((s.getS a).sshiftRight (shOf (s.getS b))))
/-- SLT (R93). -/
def execSlt (d a b : SReg) (s : State) : Host.Outcome State Fault Refusal :=
  .next (s.alu d (condW ((s.getS a).slt (s.getS b))))
/-- SLTU (R93). -/
def execSltu (d a b : SReg) (s : State) : Host.Outcome State Fault Refusal :=
  .next (s.alu d (condW ((s.getS a).ult (s.getS b))))
/-- SEQ (R93). -/
def execSeq (d a b : SReg) (s : State) : Host.Outcome State Fault Refusal :=
  .next (s.alu d (condW (s.getS a == s.getS b)))
/-- MIN (R93). -/
def execMin (d a b : SReg) (s : State) : Host.Outcome State Fault Refusal :=
  .next (s.alu d (if (s.getS b).slt (s.getS a) then s.getS b else s.getS a))
/-- MAX (R93). -/
def execMax (d a b : SReg) (s : State) : Host.Outcome State Fault Refusal :=
  .next (s.alu d (if (s.getS a).slt (s.getS b) then s.getS b else s.getS a))
/-- MINU (R93). -/
def execMinu (d a b : SReg) (s : State) : Host.Outcome State Fault Refusal :=
  .next (s.alu d (if (s.getS b).ult (s.getS a) then s.getS b else s.getS a))
/-- MAXU (R93). -/
def execMaxu (d a b : SReg) (s : State) : Host.Outcome State Fault Refusal :=
  .next (s.alu d (if (s.getS a).ult (s.getS b) then s.getS b else s.getS a))
/-- CLZ (R93). -/
def execClz (d a : SReg) (s : State) : Host.Outcome State Fault Refusal :=
  .next (s.alu d (clzW (s.getS a)))
/-- CTZ (R93). -/
def execCtz (d a : SReg) (s : State) : Host.Outcome State Fault Refusal :=
  .next (s.alu d (ctzW (s.getS a)))
/-- POPC (R93). -/
def execPopc (d a : SReg) (s : State) : Host.Outcome State Fault Refusal :=
  .next (s.alu d (popcW (s.getS a)))
/-- SEL (R93). -/
def execSel (d a b : SReg) (s : State) : Host.Outcome State Fault Refusal :=
  .next (s.alu d (if s.getS d = 0 then s.getS b else s.getS a))
/-- ADDI (R94). -/
def execAddi (d a : SReg) (imm : Imm) (s : State) : Host.Outcome State Fault Refusal :=
  .next (s.alu d (s.getS a + sextI imm))
/-- ANDI (R94). -/
def execAndi (d a : SReg) (imm : Imm) (s : State) : Host.Outcome State Fault Refusal :=
  .next (s.alu d (s.getS a &&& zextI imm))
/-- ORI (R94). -/
def execOri (d a : SReg) (imm : Imm) (s : State) : Host.Outcome State Fault Refusal :=
  .next (s.alu d (s.getS a ||| zextI imm))
/-- XORI (R94). -/
def execXori (d a : SReg) (imm : Imm) (s : State) : Host.Outcome State Fault Refusal :=
  .next (s.alu d (s.getS a ^^^ zextI imm))
/-- SLTI (R94). -/
def execSlti (d a : SReg) (imm : Imm) (s : State) : Host.Outcome State Fault Refusal :=
  .next (s.alu d (condW ((s.getS a).slt (sextI imm))))
/-- SLLI (R94). -/
def execSlli (d a : SReg) (sh : BitVec 6) (s : State) : Host.Outcome State Fault Refusal :=
  .next (s.alu d (s.getS a <<< sh.toNat))
/-- SRLI (R94). -/
def execSrli (d a : SReg) (sh : BitVec 6) (s : State) : Host.Outcome State Fault Refusal :=
  .next (s.alu d (s.getS a >>> sh.toNat))
/-- SRAI (R94). -/
def execSrai (d a : SReg) (sh : BitVec 6) (s : State) : Host.Outcome State Fault Refusal :=
  .next (s.alu d ((s.getS a).sshiftRight sh.toNat))
/-- LIH (R94). -/
def execLih (d : SReg) (imm : Imm) (s : State) : Host.Outcome State Fault Refusal :=
  .next (s.alu d (sextI imm <<< 16))

end Sys2Proof.Machine
end

