-- ==== Sys2Proof/Machine/ScalarMem.lean ====
section
/-! DEFINITION. Scalar memory and atomics: majors 0x08 to 0x13 and the amo major (R95–R98), and the performance of a store (R96). -/

namespace Sys2Proof.Machine

/-! ## The access of the instruction being run -/

/-- The core the running party acts on: a virtual processor's is that of its element's member (R105, R190). -/
def State.partyCore (s : State) : Nat :=
  match s.lane with
  | none => coreOf s.cur
  | some vp => coreAt s.th.laneDist vp

/-- Whether an acquire of the thread's access unit has not been performed, which holds later accesses (R159). -/
def Thread.acquiring (t : Thread) : Bool := t.pipe.any fun e => e.inAcc && !e.accDone && e.ord % 2 == 1

/-- Whether a bxld has still to read its descriptor, a scalar read that the thread's later stores follow (R95, R302). -/
def Thread.descOpen (t : Thread) : Bool := t.pipe.any fun e => e.op == .bxld && !e.accDone

/-- Memory bytes with the thread's own unperformed stores over them (R96). -/
def overlay (l : List (Nat × List Byte)) (a : Nat) (b : Byte) : Byte :=
  l.foldl (fun acc p => if p.1 ≤ a && a < p.1 + p.2.length then p.2.getD (a - p.1) acc else acc) b

/-- The bytes a load of the running party reads. -/
def State.readBytes (s : State) (flat n : Nat) : List Byte :=
  if s.lane.isSome || s.th.pending.isEmpty then s.bytes flat n
  else (List.range n).map fun i => overlay s.th.pending (flat + i) (s.byte (flat + i))

/-- The place that an access of the running party at `ea` reaches, as a watch names it: `flat` in this package, or another package's. -/
def State.watchPlace (s : State) (flat : Option Nat) (ea : W64) : Option Nat :=
  match flat, scalarTarget s.partyCore ea with
  | some f, _ => some f
  | none, .remote pkg off => some (remoteFlat pkg off)
  | none, _ => none
/-- Arms the watch at a load or atomic of the control front (R119). -/
def State.arm (s : State) (place : Option Nat) : State :=
  if s.lane.isSome then s else s.mod fun t => { t with watch := place.map (· / 64), watchHit := false }

/-- Performs the thread's pending stores, oldest first (R96). -/
def State.performAll (s : State) (k : ThreadKey) : State :=
  let s' := (s.thOf k).pending.foldl (fun s p => s.storeBytes (some k) p.1 p.2) s
  s'.modTh k fun t => { t with pending := [] }

/-- SCALAR_ACCESS_PERFORMED (R96): the oldest pending store of a thread is performed. -/
def execScalarAccessPerformed (k : ThreadKey) (s : State) : Host.Outcome State Fault Refusal :=
  .next <| match (s.thOf k).pending with
    | [] => s
    | (a, bs) :: rest => (s.modTh k fun t => { t with pending := rest }).storeBytes (some k) a bs

/-- A store of the running party at a flat address: performed at once, or pending for a control front whose accesses are performed
by events. -/
def State.putBytes (s : State) (flat : Nat) (bs : List Byte) : State :=
  if s.lockstep || s.lane.isSome then s.storeBytes s.party flat bs
  else (s.mod fun t => { t with pending := t.pending ++ [(flat, bs)] }).later (.scalarAccessPerformed s.cur)

/-- What an access of the running party comes to: the state with the data it read, or the state after a trap or a wait. -/
inductive ScalarOut where
  | got (s : State) (flat : Option Nat) (data : Nat)
  | out (s : State)

/-- One scalar access (R95): alignment, translation, waits and faults. -/
def State.scalarAccess (s : State) (kind : AKind) (ea : W64) (n : Nat) (rop : RemoteOp) : ScalarOut :=
  let k := s.cur
  if s.lane.isNone && (s.th.acquiring || (kind.writes && s.th.descOpen)) then .out (s.holdOn .none)
  else if ea.toNat % n != 0 then .out (s.trap cMISALIGN 0 ea)
  else match s.access k s.who (!s.th.sup) kind (scalarTarget s.partyCore ea) n rop with
    | .at flat leaf => .got (s.touched k s.who flat n leaf kind.writes) (some flat) (leNat (s.readBytes flat n))
    | .replied bs => .got (s.endReplies k s.who) none (leNat bs)
    | .missed => .out (s.holdOn .none)
    | .fault c m s' =>
      if s.th.canStop then .out ((s'.endReplies k s.who).accessFault c 0 ea 0 kind.code m) else .out (s.holdOn .none)
    | .stall h s => .out (s.holdOn h)

/-- A load's value (R95). -/
def extendLoad (sg : Bool) (n x : Nat) : W64 := BitVec.ofInt 64 (readInt sg (8 * n) x)

/-- A load of `n` bytes (R95). -/
def State.loadTo (s : State) (sg : Bool) (n : Nat) (d a : SReg) (imm : Imm) : State :=
  match s.scalarAccess .read (s.getS a + sextI imm) n (.read none) with
  | .out s => s
  | .got s flat x => ((s.arm (s.watchPlace flat (s.getS a + sextI imm))).setS d (extendLoad sg n x)).advance

/-- A store of `n` bytes (R95). -/
def State.storeFrom (s : State) (n : Nat) (d a : SReg) (imm : Imm) : State :=
  let bs := leBytes n (s.getS d).toNat
  match s.scalarAccess .write (s.getS a + sextI imm) n (.write bs) with
  | .out s => s
  | .got s (some flat) _ => (s.putBytes flat bs).advance
  | .got s none _ => s.advance

/-! ## Atomics (R97, R98) -/

/-- Bytes of an atomic (R97). -/
def amoSize (o : Amo) : Nat := if o.dbl then 8 else 4

/-- The OP code of R78. -/
def amoCode : AmoK → Nat
  | .add => 0 | .min => 1 | .max => 2 | .minu => 3 | .maxu => 4 | .and => 5 | .or => 6 | .xor => 7 | .swap => 8 | .cas => 9

/-- Whether the host space takes the operation (R98). -/
def hostAtomic : AmoK → Bool
  | .add | .swap | .cas => true
  | _ => false

/-- The value an atomic returns (R97). -/
def amoResult (k : AmoK) (o : Amo) (old : Nat) : W64 :=
  extendLoad (!o.dbl && k != .minu && k != .maxu) (amoSize o) old

/-- Whether an atomic writes: a cas that fails does not (R97). -/
def amoWrites (k : AmoK) (old e : Nat) : Bool := k != .cas || old == e

/-- A scalar atomic (R97, R98). A release waits until the thread's older accesses are performed. -/
def State.atomic (s : State) (k : AmoK) (o : Amo) : State :=
  let n := amoSize o
  let ea := s.getS o.a
  let x := (s.getS o.b).toNat % 2 ^ (8 * n)
  let e := (s.getS o.d).toNat % 2 ^ (8 * n)
  if s.lane.isNone && decide (2 ≤ o.ord.toNat) && !s.th.pipe.isEmpty then s.holdOn .none
  else
    let s := if s.lane.isNone then s.performAll s.cur else s
    if ea.toNat % n != 0 then s.trap cMISALIGN 0 ea
    else if ea.toNat / 2 ^ 60 == 2 && !hostAtomic k then s.trap cPROT 0 ea
    else match s.scalarAccess .atomic ea n (.atomic (amoCode k) x e) with
      | .out s => s
      | .got s flat old =>
        let new := (amoNew k true (8 * n) old x e).1
        let s := s.arm (s.watchPlace flat ea)
        let s := match flat with
          | some f => if amoWrites k old e then s.storeBytes s.party f (leBytes n new) else s
          | none => s
        (s.setS o.d (amoResult k o old)).advance

/-- LB (R95). -/
def execLb (d a : SReg) (imm : Imm) (s : State) : Host.Outcome State Fault Refusal := .next (s.loadTo true 1 d a imm)
/-- LBU (R95). -/
def execLbu (d a : SReg) (imm : Imm) (s : State) : Host.Outcome State Fault Refusal := .next (s.loadTo false 1 d a imm)
/-- LH (R95). -/
def execLh (d a : SReg) (imm : Imm) (s : State) : Host.Outcome State Fault Refusal := .next (s.loadTo true 2 d a imm)
/-- LHU (R95). -/
def execLhu (d a : SReg) (imm : Imm) (s : State) : Host.Outcome State Fault Refusal := .next (s.loadTo false 2 d a imm)
/-- LW (R95). -/
def execLw (d a : SReg) (imm : Imm) (s : State) : Host.Outcome State Fault Refusal := .next (s.loadTo true 4 d a imm)
/-- LWU (R95). -/
def execLwu (d a : SReg) (imm : Imm) (s : State) : Host.Outcome State Fault Refusal := .next (s.loadTo false 4 d a imm)
/-- LD (R95). -/
def execLd (d a : SReg) (imm : Imm) (s : State) : Host.Outcome State Fault Refusal := .next (s.loadTo false 8 d a imm)
/-- SB (R95). -/
def execSb (d a : SReg) (imm : Imm) (s : State) : Host.Outcome State Fault Refusal := .next (s.storeFrom 1 d a imm)
/-- SH (R95). -/
def execSh (d a : SReg) (imm : Imm) (s : State) : Host.Outcome State Fault Refusal := .next (s.storeFrom 2 d a imm)
/-- SW (R95). -/
def execSw (d a : SReg) (imm : Imm) (s : State) : Host.Outcome State Fault Refusal := .next (s.storeFrom 4 d a imm)
/-- SD (R95). -/
def execSd (d a : SReg) (imm : Imm) (s : State) : Host.Outcome State Fault Refusal := .next (s.storeFrom 8 d a imm)
/-- AMOADD (R97). -/
def execAmoadd (o : Amo) (s : State) : Host.Outcome State Fault Refusal := .next (s.atomic .add o)
/-- AMOMIN (R97). -/
def execAmomin (o : Amo) (s : State) : Host.Outcome State Fault Refusal := .next (s.atomic .min o)
/-- AMOMAX (R97). -/
def execAmomax (o : Amo) (s : State) : Host.Outcome State Fault Refusal := .next (s.atomic .max o)
/-- AMOMINU (R97). -/
def execAmominu (o : Amo) (s : State) : Host.Outcome State Fault Refusal := .next (s.atomic .minu o)
/-- AMOMAXU (R97). -/
def execAmomaxu (o : Amo) (s : State) : Host.Outcome State Fault Refusal := .next (s.atomic .maxu o)
/-- AMOAND (R97). -/
def execAmoand (o : Amo) (s : State) : Host.Outcome State Fault Refusal := .next (s.atomic .and o)
/-- AMOOR (R97). -/
def execAmoor (o : Amo) (s : State) : Host.Outcome State Fault Refusal := .next (s.atomic .or o)
/-- AMOXOR (R97). -/
def execAmoxor (o : Amo) (s : State) : Host.Outcome State Fault Refusal := .next (s.atomic .xor o)
/-- AMOSWAP (R97). -/
def execAmoswap (o : Amo) (s : State) : Host.Outcome State Fault Refusal := .next (s.atomic .swap o)
/-- AMOCAS (R97). -/
def execAmocas (o : Amo) (s : State) : Host.Outcome State Fault Refusal := .next (s.atomic .cas o)

end Sys2Proof.Machine
end

