-- ==== Sys2Proof/Machine/Copy.lean ====
section
/-! DEFINITION. Asynchronous copy: xcfg, xtid, xwait, the strips of a channel, and background loads (R292–R302). -/

namespace Sys2Proof.Machine

/-! ## Channels -/

/-- Changes a channel of a thread. -/
def State.modCh (s : State) (k : ThreadKey) (ch : Nat) (f : Chan → Chan) : State := s.modTh k fun t => t.modChan ch f
/-- The path of a channel's replies. -/
def chWho (ch : Nat) : Nat := 2 + ch

/-- The transfer that holds an identifier. -/
def Chan.xferOf (c : Chan) (id : Nat) : Option Xfer := c.xfers.find? fun x => decide (x.first ≤ id) && decide (id < x.first + x.count)

/-- Whether the next strip of a transfer may start (R295). -/
def Xfer.mayStart (x : Xfer) : Bool := decide (x.started < x.count) && (x.lead == 0 || decide (x.started + 1 ≤ x.pace + x.lead))

/-- The transfer whose strip starts next: strips start in identifier order (R295). -/
def Chan.nextXfer (c : Chan) : Option Xfer := c.xfers.find? fun x => decide (x.started < x.count)

/-- DONE passes every identifier up to the first that has not completed (R297). -/
def passDone : Nat → Nat → List Nat → Nat
  | 0, d, _ => d
  | n + 1, d, fin => if fin.contains d then passDone n (d + 1) fin else d

/-- Whether a completion cause stands for an identifier DONE has passed (R303). -/
def raisesAt (c : Chan) (id : Nat) : Bool :=
  match c.xferOf id with
  | none => false
  | some x => x.irq == 2 || (x.irq == 1 && id + 1 == x.first + x.count)

/-- A channel after an identifier completes. -/
def Chan.complete (c : Chan) (id : Nat) : Chan :=
  let fin := c.finished ++ [id]
  let d := passDone fin.length c.done fin
  let c := { c with active := c.active.filter (· != id), waiting := c.waiting.filter (·.1 != id) }
  { c with
    finished := fin.filter fun x => decide (d ≤ x), done := d
    xfers := c.xfers.filter fun x => decide (d < x.first + x.count) || decide (x.started < x.count) || c.running x }

/-- Ends an xwait, so that its condition is tested again (R299). -/
def endXwait (t : Thread) (ch : Nat) : Thread := if t.hold = .xwait ch then { t with hold := .none } else t

/-- Whether a channel has no strip to perform: all have completed, or it is frozen and the older ones have. -/
def Chan.quiet (c : Chan) : Bool := c.active.isEmpty && (c.frz || c.done == c.next)
/-- Whether a thread's strips have all been performed. -/
def Thread.strippedOut (t : Thread) : Bool := t.ch0.quiet && t.ch1.quiet

/-- A launch whose last group has exited is looked at again when strips end (R239). -/
def State.lookAgain (s : State) (k : ThreadKey) : State :=
  let t := s.thOf k
  match t.exitedOf with
  | some l => if t.strippedOut then (s.modTh k fun t => { t with exitedOf := none }).later (.launchComplete l) else s
  | none => s

/-- An identifier completes (R297, R303). -/
def State.stripDone (s : State) (k : ThreadKey) (ch id : Nat) : State :=
  let c := (s.thOf k).chan ch
  let c' := c.complete id
  let irq := ((List.range (c'.done - c.done)).map (c.done + ·)).any (raisesAt c)
  let s := s.modTh k fun t =>
    let t := endXwait (t.modChan ch fun _ => c') ch
    if irq then raiseUi t ch else t
  s.lookAgain k

/-- A channel whose strip `id` fails (R300): it freezes, and neither that strip nor a later one completes. -/
def Chan.freeze (c : Chan) (id err : Nat) : Chan :=
  { c with frz := true, err := if c.frz then c.err else err
           active := c.active.filter fun x => decide (x < id), waiting := c.waiting.filter fun x => decide (x.1 < id) }

/-- A channel freezes: its error interrupt becomes pending, and an xwait ends (R299, R300). -/
def State.freezeCh (s : State) (k : ThreadKey) (ch id err : Nat) : State :=
  (s.modTh k fun t =>
    let u := endXwait (t.modChan ch (·.freeze id err)) ch
    if (t.chan ch).frz then u else raiseUi u (3 + ch)).lookAgain k

/-- ERR of a failed access (R297). -/
def errOf (cause : Nat) : Nat :=
  if cause == cLENTWRITE then 3 else if cause == cSEVERED then 4 else 1

/-! ## Starting strips (R295) -/

/-- Bytes of a strip. -/
def Xfer.stripBytes (x : Xfer) (k : Nat) : Nat := (min ((k + 1) * x.strip) x.total - k * x.strip) * x.esz

/-- The command intake of the engine that serves a core (R16, R292). -/
def engineOf (core : Nat) : Nat := arbNum clsCopy (dieOf core * 8 + core % 384 / 48)

/-- A transfer's next strip has started, or needs no start. -/
def Chan.started (c : Chan) (x : Xfer) : Chan :=
  { c with xfers := c.xfers.map fun y => if y.first == x.first then { y with started := y.started + 1 } else y }

/-- Starts the next strip of transfer `x`, and asks for its completion and for the strip after it. -/
def State.beginStrip (s : State) (k : ThreadKey) (ch : Nat) (x : Xfer) : State :=
  let id := x.first + x.started
  let s := s.modCh k ch fun c => { c.started x with active := c.active ++ [id], asked := false, go := false }
  (if x.isBx then s.later (.bxldComplete k ch id) else s.later (.stripComplete k ch id)).later (.stripStart k ch)

/-- A channel's next strip, when it may start: it asks its engine, and starts once the engine grants it (R295). -/
def State.startStrip (s : State) (k : ThreadKey) (ch : Nat) : State :=
  let t := s.thOf k
  let c := t.chan ch
  if c.frz then s
  else match c.nextXfer with
    | none => s
    | some x =>
      if !x.mayStart then s
      else if c.finished.contains (x.first + x.started) then (s.modCh k ch (·.started x)).later (.stripStart k ch)
      else if c.go then s.beginStrip k ch x
      else if c.asked then s
      else
        let a := engineOf (coreOf k)
        let bytes := if x.isBx then x.total * x.esz else x.stripBytes x.started
        let busy := (s.arb a).busy
        let key := keyOf t.part t.owner
        let s := s.enter a { key, beats := cdiv bytes 64, blame := key, age := 0, strip := some (k, ch) }
        if busy then s.modCh k ch fun c => { c with asked := true } else s.beginStrip k ch x

/-- A thread's channels ask their engine for nothing: it leaves its core. -/
def State.dropAsks (s : State) (k : ThreadKey) : State :=
  let quiet := fun (c : Chan) => { c with asked := false, go := false }
  let s : State := if (s.thOf k).ch0.asked || (s.thOf k).ch1.asked then
      { s with arbs := s.arbs.mapV fun _ a => { a with waiting := a.waiting.filter fun r => !r.strip.any (·.1 == k) } }
    else s
  s.modTh k fun t => { t with ch0 := quiet t.ch0, ch1 := quiet t.ch1 }

/-- STRIP_START (R295). -/
def execStripStart (k : ThreadKey) (ch : Nat) (s : State) : Host.Outcome State Fault Refusal := .next (s.startStrip k ch)

/-! ## Performing a strip -/

/-- The target of a strip's reads, and of its writes (R293). -/
def Xfer.srcTarget (x : Xfer) (core : Nat) : W64 → Target := vectorTarget core x.mtr
def Xfer.dstTarget (x : Xfer) (core : Nat) : W64 → Target := vectorTarget core (if x.dloc then { x.mtr with space := 0 } else x.mtr)

/-- Source and destination of element `i` (R293). -/
def Xfer.elem (x : Xfer) (i : Nat) : W64 × W64 :=
  (x.src + BitVec.ofInt 64 ((i : Int) * x.sstr), x.dst + BitVec.ofInt 64 ((i : Int) * x.dstr))

/-- The elements of an identifier, as (source, destination). -/
def Xfer.elems (x : Xfer) (id : Nat) : List (W64 × W64) :=
  if x.isBx then x.pairs
  else
    let k := id - x.first
    (List.range (min ((k + 1) * x.strip) x.total - k * x.strip)).map fun i => x.elem (k * x.strip + i)

/-- What the accesses of a strip come to; a fault with what stands before it. -/
inductive StripOut (α : Type) where
  | ok (s : State) (r : α)
  | wait (s : State)
  | fault (s : State) (cause : Nat) (va : W64) (kind : AKind) (migw : Bool) (got : α)

/-- Reads the runs of one element, with the flat addresses read; their requests are made with the strip's others. -/
def stripRuns (k : ThreadKey) (who : Nat) (user : Bool) (tg : W64 → Target) : List (W64 × Nat) → State → RunOut × List Nat
  | [], s => (.ok s [], [])
  | (a, n) :: rest, s =>
    match s.access k who user .read (tg a) n (.read none) with
    | .at flat leaf =>
      match stripRuns k who user tg rest (s.elemTouched k who flat leaf) with
      | (.ok s' bs, l) => (.ok s' (s.bytes flat n ++ bs), flat :: l)
      | (r, l) => (r, flat :: l)
    | .replied bs0 =>
      match stripRuns k who user tg rest s with
      | (.ok s' bs, l) => (.ok s' (bs0 ++ bs), l)
      | r => r
    | .missed => (.ok s [], [])
    | .fault c m s => (.fault s c a m, [])
    | .stall h s => (.wait s h, [])

/-- Reads the source elements, one at a time, with the flat addresses read. -/
def readElems (k : ThreadKey) (ch : Nat) (user : Bool) (tg : W64 → Target) (n : Nat) :
    List W64 → State → StripOut (List (List Byte)) × List Nat
  | [], s => (.ok s [], [])
  | a :: rest, s =>
    match stripRuns k (chWho ch) user tg (cutRun 2 a n) s with
    | (.wait s _, l) => (.wait s, l)
    | (.fault s c va m, l) => (.fault s c va .read m [], l)
    | (.ok s bs, l) =>
      match readElems k ch user tg n rest s with
      | (.ok s d, l') => (.ok s (bs :: d), l ++ l')
      | (.fault s c va kind m d, l') => (.fault s c va kind m (bs :: d), l ++ l')
      | (.wait s, l') => (.wait s, l ++ l')

/-- The memory port that serves an address of a context (R12), 0 for one that no port serves. -/
def State.portAt (s : State) (k : ThreadKey) : Target → Nat
  | .paged _ va =>
    match s.lookup (coreOf k) (s.thOf k).ctx va with
    | .leaf e lo => if isHbm (leafFlat e lo va) then portOf (leafFlat e lo va) else 0
    | _ => 0
  | _ => 0

/-- Puts an address in its place by port, then address. -/
def insertRead (p : Nat × W64) : List (Nat × W64) → List (Nat × W64)
  | [] => [p]
  | q :: l => if p.1 < q.1 || (p.1 == q.1 && p.2.toNat ≤ q.2.toNat) then p :: q :: l else q :: insertRead p l

/-- The reads of an identifier in the order they are issued: one for each element of a strip; for a background load one for each distinct
address, by memory port and then address (R302). -/
def State.readOrder (s : State) (k : ThreadKey) (x : Xfer) (srcs : List W64) : List W64 :=
  if x.isBx then (srcs.eraseDups.foldl (fun l a => insertRead (s.portAt k (x.srcTarget (coreOf k) a), a) l) []).map (·.2) else srcs

/-- What the reads gave each element; none where its read was not made. -/
def spread (x : Xfer) (order : List W64) (data : List (List Byte)) (srcs : List W64) : List (Option (List Byte)) :=
  if x.isBx then srcs.map fun a => ((order.zip data).find? (·.1 == a)).map (·.2)
  else (List.range srcs.length).map (data[·]?)

/-- Finds the place of every write before any is made; a remote write is performed by its peer. -/
def placeElems (k : ThreadKey) (ch : Nat) (user : Bool) (tg : W64 → Target) : List (W64 × List Byte) → State →
    StripOut (List (Nat × Nat × List Byte))
  | [], s => .ok s []
  | (a, bs) :: rest, s =>
    match s.access k (chWho ch) user .write (tg a) bs.length (.write bs) with
    | .at flat leaf =>
      match placeElems k ch user tg rest s with
      | .ok s l => .ok s ((flat, leaf, bs) :: l)
      | .fault s c va kind m l => .fault s c va kind m ((flat, leaf, bs) :: l)
      | .wait s => .wait s
    | .replied _ => placeElems k ch user tg rest s
    | .missed => placeElems k ch user tg rest s
    | .stall _ s => .wait s
    | .fault c m s => .fault s c a .write m []

/-- Cuts the bytes of one element where its writes must be cut. -/
def cutBytes (a : W64) (bs : List Byte) : List (W64 × List Byte) :=
  ((cutRun 2 a bs.length).foldl (fun (acc : List (W64 × List Byte) × List Byte) p =>
    (acc.1 ++ [(p.1, acc.2.take p.2)], acc.2.drop p.2)) ([], bs)).1

/-- Makes a strip's writes, as an engine's. -/
def putElems (k : ThreadKey) (ch : Nat) : List (Nat × Nat × List Byte) → State → State
  | [], s => s
  | (flat, leaf, bs) :: rest, s => putElems k ch rest ((s.storeBytes none flat bs).elemTouched k (chWho ch) flat leaf)

/-- The requests of a strip's reads or writes (R385). -/
def State.stripReqs (s : State) (k : ThreadKey) (n : Nat) (wr : Bool) (flats : List Nat) : State :=
  s.elemReqs (coreOf k) (keyOf (s.thOf k).part (s.thOf k).owner) n wr none flats

/-- The physical place of an address of a context, where a write of it takes effect; none where it does not translate. -/
def State.flatOf (s : State) (k : ThreadKey) : Target → Option Nat
  | .spad c a => some (spadFlat c a)
  | .paged _ va =>
    match s.lookup (coreOf k) (s.thOf k).ctx va with
    | .leaf e lo => some (leafFlat e lo va)
    | _ => none
  | .remote pkg off => some (remoteFlat pkg off)
  | .bad => none

/-- The places that an identifier of a channel writes, and the size of each. -/
def State.destPlaces (s : State) (k : ThreadKey) (c : Chan) (id : Nat) : Nat × List Nat :=
  match c.xferOf id with
  | none => (0, [])
  | some x => (x.esz, (x.elems id).filterMap fun p => s.flatOf k (x.dstTarget (coreOf k) p.2))

/-- Whether two identifiers of a channel write one location. -/
def State.shareDest (s : State) (k : ThreadKey) (c : Chan) (i j : Nat) : Bool :=
  let (n, l) := s.destPlaces k c i
  let (m, r) := s.destPlaces k c j
  l.any fun a => r.any fun b => decide (a < b + m) && decide (b < a + n)

/-- Whether an older started strip has still to write where `id` writes: the write of the higher identifier takes effect last
(R296). -/
def State.behind (s : State) (k : ThreadKey) (c : Chan) (id : Nat) : Bool := c.active.any fun j => decide (j < id) && s.shareDest k c id j

/-- The event that performs a started identifier. -/
def Chan.performEvent (c : Chan) (k : ThreadKey) (ch id : Nat) : Instr :=
  if (c.xferOf id).any (·.isBx) then .bxldComplete k ch id else .stripComplete k ch id

/-- Asks again for the strips that stood behind an identifier. -/
def State.passBehind (s : State) (k : ThreadKey) (ch id : Nat) (c : Chan) : State :=
  { s with agenda := s.agenda ++ ((c.active.filter fun j => decide (id < j) && s.shareDest k c id j).map fun j =>
      Turn.event (c.performEvent k ch j)) }

/-- The bytes that each read gives: what it found when the strip's reads began, or, where an element of the strip wrote it, by a free
value either that or the value written (R296). -/
def strippedData (ctr : Nat) (old new : List (List Byte)) : List (List Byte) :=
  (old.zip new).zipIdx.map fun p =>
    let late := (Config.freeValue (ctr + p.2)).getLsbD 0
    (p.1.1.zip p.1.2).map fun b => if late then b.2 else b.1

/-- The writes of a strip whose reads gave `data`. A write to another package that a later one of the strip covers exactly is not sent. -/
def stripWrites (tg : W64 → Target) (es : List (W64 × W64)) (data : List (Option (List Byte))) : List (W64 × List Byte) :=
  let ws := ((es.zip data).map fun p => (p.2.map (cutBytes p.1.2 ·)).getD []).flatten
  (ws.zipIdx.filter fun p => match tg p.1.1 with
    | .remote .. => !(ws.drop (p.2 + 1)).any fun w => w.1 == p.1.1 && w.2.length == p.1.2.length
    | _ => true).map (·.1)

/-- What a strip's reads find once its writes are made: none where that is what they found before. -/
def rereadElems (k : ThreadKey) (ch : Nat) (x : Xfer) (order : List W64) (data : List (List Byte))
    (places : List (Nat × Nat × List Byte)) (s : State) : Option (List (List Byte)) :=
  let s' := { s with mem := places.foldl (fun m p => memPuts m p.1 p.2.2) s.mem }
  match (readElems k ch x.user (x.srcTarget (coreOf k)) x.esz order s').1 with
  | .ok _ new => if new == data then none else some new
  | _ => none

/-- The writes of a failing strip may be partly performed (R300): free values say which of those that could be. -/
def State.partStrip (s : State) (k : ThreadKey) (ch : Nat) (places : List (Nat × Nat × List Byte)) : State :=
  putElems k ch ((places.zipIdx.filter fun p => (Config.freeValue (s.freeCtr + p.2)).getLsbD 0).map (·.1))
    { s with freeCtr := s.freeCtr + places.length }

/-- PATH of a transfer's fault records: copy, or gath for a background load (R80, R273, R302). -/
def Xfer.path (x : Xfer) : Nat := if x.isBx then 4 else 3

/-- Performs one identifier of a channel: it completes, waits, or freezes the channel (R296, R297, R300). -/
def State.performStrip (s : State) (k : ThreadKey) (ch id : Nat) : State :=
  let t := s.thOf k
  let c := t.chan ch
  if !c.active.contains id || c.waiting.any (·.1 == id) || s.behind k c id then s
  else match c.xferOf id with
    | none => s
    | some x =>
      let es := x.elems id
      let srcs := es.map (·.1)
      let order := s.readOrder k x srcs
      let dst := x.dstTarget (coreOf k)
      let place := placeElems k ch x.user dst
      let fail := fun (s : State) (cause : Nat) (va : W64) (kind : AKind) (m : Bool) (places : List (Nat × Nat × List Byte)) =>
        let s := (s.endReplies k (chWho ch)).clearStall k (chWho ch)
        if cause == cPAGEFAULT then
          (s.faultPending k va x.path kind.code m).modCh k ch fun c => { c with waiting := c.waiting ++ [(id, va.toNat % 2 ^ 57 / 2 ^ 16)] }
        else (s.partStrip k ch places).freezeCh k ch id (errOf cause)
      match readElems k ch x.user (x.srcTarget (coreOf k)) x.esz order s with
      | (.wait s, _) => s
      | (.fault s cause va kind m data, _) =>
        (match if cause == cPAGEFAULT then .wait s else place (stripWrites dst es (spread x order data srcs)) s with
        | .ok s places => fail s cause va kind m places
        | _ => fail s cause va kind m [])
      | (.ok s data, flats) =>
        match place (stripWrites dst es (spread x order data srcs)) s with
        | .wait s => s
        | .fault s cause va kind m places => fail s cause va kind m places
        | .ok s places =>
          let complete := fun (s : State) (places : List (Nat × Nat × List Byte)) =>
            let s := (s.stripReqs k x.esz false flats).stripReqs k x.esz true (places.map (·.1))
            (((putElems k ch places s).endReplies k (chWho ch)).stripDone k ch id).passBehind k ch id c
          match rereadElems k ch x order data places s with
          | none => complete s places
          | some new =>
            match place (stripWrites dst es (spread x order (strippedData s.freeCtr data new) srcs)) { s with freeCtr := s.freeCtr + order.length } with
            | .ok s places => complete s places
            | _ => s

/-- STRIP_COMPLETE (R297): a started strip's accesses are performed. -/
def execStripComplete (k : ThreadKey) (ch id : Nat) (s : State) : Host.Outcome State Fault Refusal := .next (s.performStrip k ch id)
/-- BXLD_COMPLETE (R302): a background load's accesses are performed. A duplicate index reads one address, so every element that
names it receives one value. -/
def execBxldComplete (k : ThreadKey) (ch id : Nat) (s : State) : Host.Outcome State Fault Refusal :=
  .next (if (((s.thOf k).chan ch).xferOf id).any (·.isBx) then s.performStrip k ch id else s)

/-- STRIP_BUFFER_ERROR (R300): an uncorrectable error in the strip buffer. -/
def execStripBufferError (k : ThreadKey) (ch : Nat) (s : State) : Host.Outcome State Fault Refusal :=
  .next (if ((s.thOf k).chan ch).active.isEmpty then s else s.freezeCh k ch 0 5)

/-- XCH_FRZ_CLEAR (R297): a supervisor write of 1 to FRZ of a channel. -/
def execXchFrzClear (k : ThreadKey) (ch : Nat) (s : State) : Host.Outcome State Fault Refusal :=
  .next ((s.modTh k fun t => endXwait (t.modChan ch (·.unfreeze)) ch).lookAgain k)

/-- Asks again for the completion of every started strip, after an event that a strip may have waited for. -/
def State.retryStrips (s : State) : State :=
  let l := (s.threads.map fun e => ((List.range 2).map fun ch =>
    (((e.2.chan ch).active.filter fun id => !(e.2.chan ch).waiting.any (·.1 == id)).map fun id =>
      Turn.event (.stripComplete e.1 ch id))).flatten).flatten
  { s with agenda := s.agenda ++ l }

/-! ## The instructions -/

/-- The descriptor of a transfer, checked (R293, R294). -/
def xcfgBad (x : Nat) : Bool :=
  bits x 191 186 != 0 || bits x 511 256 != 0 || bits x 175 160 == 0 || decide (3 < bits x 178 176) || bits x 185 184 == 3
    || decide (65536 < bits x 175 160 * eszOf (bits x 178 176))

/-- The transfer of a descriptor, under the MTR captured at routing (R293). -/
def xferOf (e : Entry) (first x : Nat) : Xfer :=
  { first, count := cdiv (bits x 159 128) (bits x 175 160), total := bits x 159 128, strip := bits x 175 160
    esz := eszOf (bits x 178 176), dloc := bit x 179, lead := bits x 183 180, irq := bits x 185 184
    src := BitVec.ofNat 64 (bits x 63 0), dst := BitVec.ofNat 64 (bits x 127 64)
    sstr := readInt true 32 (bits x 223 192), dstr := readInt true 32 (bits x 255 224)
    mtr := e.mtr, user := e.user }

/-- Assigns a transfer's identifiers: a later xcfg closes the pacing of the earlier ones (R295). -/
def Chan.assign (c : Chan) (x : Xfer) : Chan :=
  { c with next := c.next + x.count, xfers := (c.xfers.map fun y => { y with lead := 0 }) ++ [x] }

/-- Reads the 64 bytes that an entry's first scalar addresses, a scalar read made once the thread's older stores are performed
(R95, R96, R280, R294). -/
def entryRead64 (s : State) (k : ThreadKey) (e : Entry) (f : State → List Byte → AccHalf) : AccHalf :=
  if !(s.thOf k).pending.isEmpty then .wait s e .none
  else match readRun s k 1 e.user (scalarTarget (coreOf k)) e.capA 64 with
    | .wait s h => .wait s e h
    | .fault s c va m => .fault (s.endReplies k 1) e c 0 0 va .read m
    | .ok s bs => f (s.endReplies k 1) bs

/-- A trap of an entry that is no access fault. -/
def entryTrap (s : State) (e : Entry) (cause detail : Nat) (va : W64 := 0) : AccHalf := .fault s e cause detail 0 va .read false

/-- xcfg (R294). -/
def xcfgHalf (s : State) (k : ThreadKey) (e : Entry) : AccHalf :=
  entryRead64 s k e fun s bs =>
    let d := leNat bs
    let c := (s.thOf k).chan e.x
    let x := xferOf e c.next d
    if e.capA.toNat % 64 != 0 then entryTrap s e cMISALIGN 0 e.capA
    else if xcfgBad d then entryTrap s e cCOPYFAULT 1
    else if c.frz then entryTrap s e cCOPYFAULT 2
    else if 2 ^ 48 < c.next + x.count then entryTrap s e cCOPYFAULT 4
    else if x.total == 0 then .done s e
    else .done ((s.modCh k e.x (·.assign x)).later (.stripStart k e.x)) e

/-- XTID (R298). -/
def execXtid (d : SReg) (ch : BitVec 5) (s : State) : Host.Outcome State Fault Refusal :=
  .next ((s.setS d (BitVec.ofNat 64 ((s.th.chan ch.toNat).next - 1))).advance)

/-- XWAIT (R299). -/
def execXwait (a : SReg) (ch : BitVec 5) (s : State) : Host.Outcome State Fault Refusal :=
  let t := (s.getS a).toNat
  let c := s.th.chan ch.toNat
  .next <|
    if c.next ≤ t then s.trap cCOPYFAULT 3
    else if t < c.done then s.advance
    else if c.frz then s.trap cCOPYFAULT 2
    else s.holdOn (.xwait ch.toNat)

end Sys2Proof.Machine
end

