-- ==== Sys2Proof/Machine/Serve.lean ====
section
/-! DEFINITION. Accesses that other agents make to this package's memory: remote accesses of peers (R193, R199, R270), and
the writes and AtomicOps of the host (R201–R203, R288). -/

namespace Sys2Proof.Machine

/-! ## Remote accesses -/

/-- The operation of an OP code of R78. -/
def amoOfCode : Nat → AmoK
  | 0 => .add | 1 => .min | 2 => .max | 3 => .minu | 4 => .maxu | 5 => .and | 6 => .or | 7 => .xor | 8 => .swap | _ => .cas

/-- The kind of a remote access. -/
def remoteKind : RemoteOp → AKind
  | .read _ => .read
  | .write _ | .nib .. => .write
  | .atomic .. | .famo .. | .capp _ => .atomic

/-- What a remote access of `n` bytes writes over `old`, and the bytes it returns. -/
def remoteEffect (op : RemoteOp) (n : Nat) (old : List Byte) : Option (List Byte) × List Byte :=
  match op with
  | .read _ | .capp _ => (none, old)
  | .write bs => (some bs, [])
  | .nib hi x => (some (leBytes 1 (setBits (leNat old) (if hi then 4 else 0) 4 x)), [])
  | .atomic c x e =>
    let k := amoOfCode c
    (if amoWrites k (leNat old) e then some (leBytes n (amoNew k true (8 * n) (leNat old) x e).1) else none, old)
  | .famo fp rm ftz daz x =>
    (some (leBytes n (fAdd ((tagOfCode fp).getD .fp64) (rmOfCode rm) ftz daz (leNat old) x).1), old)

/-- Whether an acquire gather's element misses its scope at its target (R199): it is then neither read nor checked. -/
def State.remoteMisses (s : State) (r : RemoteReq) : Bool :=
  match r.op, s.lookup ioCore r.ctx r.va.toNat with
  | .read (some sc), .leaf leaf _ => bit leaf 9 && decide (sc < bits leaf 12 10)
  | _, _ => false

/-- The answer to a remote access; its reply leaves under the key it arrived with (R307). -/
def State.answer (s : State) (r : RemoteReq) (o : RemoteOutcome) : State :=
  let x := s.ctx r.ctx
  (s.send (.remoteReply r.from_ r.va o)).crosses unitIo (keyOf x.part x.owner) r.from_ false (match o with | .data bs => bs.length | _ => 0)

/-- What one access of a remote request comes to at its target, and the state with what it logged or asked for. -/
inductive ServeOut where
  | ok (flat leaf : Nat)
  | answer (s : State) (o : RemoteOutcome)
  | hold (s : State)

/-- One access of a remote request at its target (R193, R270). -/
def State.servePlace (s : State) (r : RemoteReq) (kind : AKind) (va : Nat) : ServeOut :=
  let x := s.ctx r.ctx
  match s.translate ioCore r.ctx r.user kind [0, 1] va with
  | .ok flat leaf => if !isHbm flat && (s.cxl.get {} (flat / 2 ^ 40 % 4)).down then .answer s .prot else .ok flat leaf
  | .notPresent m => .answer s (.notPresent m)
  | .prot => .answer s .prot
  | .severed => .answer s .prot
  | .malformed a => .answer (s.log (s.part x.part).func 3 a 0) .prot
  | .lent _ => .hold s
  | .unpulled sid seg f => .hold (if f then s else s.startPull unitIo r.ctx sid seg x.part x.owner none)

/-- The places of a capp's writes at its target; the first that fails or waits, as the answer names it. -/
def servePlaces (r : RemoteReq) : List (W64 × List Byte) → State → ServeOut ⊕ List (Nat × Nat × List Byte)
  | [], _ => .inr []
  | (a, bs) :: rest, s =>
    match s.servePlace r .write a.toNat with
    | .ok flat leaf => match servePlaces r rest s with
      | .inr l => .inr ((flat, leaf, bs) :: l)
      | .inl o => .inl o
    | .answer s (.notPresent m) => .inl (.answer s (.ring a true m))
    | .answer s _ => .inl (.answer s (.ring a false false))
    | .hold s => .inl (.hold s)

/-- Writes of a remote request, with their requests under the peer context's key (R307). -/
def servePuts (r : RemoteReq) (l : List (Nat × Nat × List Byte)) (s : State) : State :=
  let x := s.ctx r.ctx
  l.foldl (fun s p => ((s.storeBytes none p.1 p.2.2).accessReqs unitIo (keyOf x.part x.owner) p.1 p.2.2.length true none).nearTouch p.1 p.2.1) s

/-- A capp that arrives from a peer: read, checked and performed as one operation (R231); the descriptor's bytes answer it. -/
def State.serveCapp (s : State) (r : RemoteReq) (idx : List Nat) (old : List Byte) : ServeOut :=
  let p := cappPlan old idx
  if p.bad.isSome then .answer s (.data old)
  else match servePlaces r ((p.ring.map fun w => (w.1 &&& BitVec.ofNat 64 (2 ^ 54 - 1), w.2)) ++ [(r.va + 16, p.wr)]) s with
    | .inl o => o
    | .inr l => .answer (servePuts r l s) (.data old)

/-- A remote access at its target (R193): it is checked in the peer context's tables, performed and answered; one that meets a
lent page or an unpulled segment waits. -/
def State.serveRemote (s : State) (r : RemoteReq) : State :=
  let x := s.ctx r.ctx
  if x.st == .dead || x.st == .tearing then s.answer r .prot
  else if s.remoteMisses r then s.answer r .miss
  else
    let out := match s.servePlace r (match r.op with | .capp _ => .read | _ => remoteKind r.op) r.va.toNat with
      | .ok flat leaf =>
        let s := (s.accessReqs unitIo (keyOf x.part x.owner) flat r.n (remoteKind r.op).writes none).nearTouch flat leaf
        match r.op with
        | .capp idx => s.serveCapp r idx (s.bytes flat 32)
        | _ =>
          let (w, bs) := remoteEffect r.op r.n (s.bytes flat r.n)
          .answer (match w with
            | some l => s.storeBytes none flat l
            | none => s) (.data bs)
      | o => o
    match out with
    | .answer s o => s.answer r o
    | .hold s => { s with remoteHeld := s.remoteHeld ++ [r] }
    | .ok .. => s

/-- Remote accesses that wait are tried again. -/
def State.retryRemote (s : State) : State := s.remoteHeld.foldl State.serveRemote { s with remoteHeld := [] }

/-! ## The host -/

/-- What an AtomicOp writes over `old`: the bytes it covers and its new value (R201). -/
def hostOpNew (op : HostOp) (old : Nat) : Nat × Nat :=
  match op with
  | .fetchAdd n x => (n, (old + x) % 2 ^ (8 * n))
  | .swap n x => (n, x % 2 ^ (8 * n))
  | .cas n x e => (n, if old == e % 2 ^ (8 * n) then x % 2 ^ (8 * n) else old)
/-- The bytes an AtomicOp covers. -/
def hostOpSize (op : HostOp) : Nat := (hostOpNew op 0).1

/-- The key of a host-originated request: the function's partition and HOWN (R306, R316). -/
def State.hostKey (s : State) (func : Nat) : Nat :=
  let p := ((s.parts.find? fun e => e.2.up && e.2.func == func).map (·.1)).getD 0
  keyOf p (bits (s.mgrReg (0x9A0 + p)).toNat 53 48)

/-- The requests of a host access: the host link (link 0, R340), and the place of the bytes, in a near cache too (R267). -/
def State.hostReqs (s : State) (func addr n : Nat) (wr : Bool) : State :=
  let key := s.hostKey func
  ((s.hostRequest 0 true key n wr).accessReqs (unitLink 0) key addr n wr none).nearReach (keyPart key) addr n

/-- The bytes a held write covers. -/
def HostWrite.size (h : HostWrite) : Nat :=
  match h.op with
  | none => h.bytes.length
  | some op => hostOpSize op
/-- The event that makes a held access. -/
def HostWrite.event (h : HostWrite) : Instr :=
  match h.ev, h.op with
  | some i, _ => i
  | none, none => .hostMemoryWrite h.func h.addr h.bytes
  | none, some op => .hostAtomicop h.func h.addr op

/-- An access of a function's host, which does not pass an earlier write that is held (R204). -/
def State.inOrder (s : State) (func : Nat) (i : Instr) (f : State → State) : State :=
  if s.hostHeld.any (·.func == func) then { s with hostHeld := s.hostHeld ++ [{ func, ev := some i }] } else f s

/-- A host write or AtomicOp is performed; an AtomicOp's old value goes back to the host. -/
def State.hostPerform (s : State) (h : HostWrite) : State :=
  match h.op with
  | none => (s.storeBytes none h.addr h.bytes).hostReqs h.func h.addr h.bytes.length true
  | some op =>
    let n := hostOpSize op
    let old := s.load h.addr n
    let s := (s.store none h.addr n (hostOpNew op old).2).hostReqs h.func h.addr n true
    { s with hostOut := s.hostOut ++ [leBytes n old] }

end Sys2Proof.Machine
end

