-- ==== Sys2Proof/Machine/Link.lean ====
section
/-! DEFINITION. Lifetime links: stubs, dsend, dpull, ddrop, dresend, dlstat, deliveries, pulls and releases (R275–R291, R398). -/

namespace Sys2Proof.Machine

/-! ## Stubs (R275, R276) -/

/-- One bit step of CRC-32C. -/
def crcStep (c : Nat) : Nat := if c % 2 == 1 then (c / 2) ^^^ 0x82F63B78 else c / 2
/-- One byte of CRC-32C. -/
def crcByte (c : Nat) (b : Byte) : Nat := (List.range 8).foldl (fun c _ => crcStep c) (c ^^^ b.toNat)
/-- CRC-32C (Castagnoli) of bytes. -/
def crc32c (l : List Byte) : Nat := (l.foldl crcByte 0xFFFFFFFF) ^^^ 0xFFFFFFFF

/-- Bytes 0 to 43 of a stub. -/
def stubHead (x : Stub) : List Byte :=
  leBytes 8 x.sid.toNat ++ leBytes 8 x.oaddr.toNat ++ leBytes 4 x.len
    ++ leBytes 4 (x.tag % 64 + x.octx % 4096 * 2 ^ 8 + x.hop % 16 * 2 ^ 20)
    ++ leBytes 8 x.shape.toNat ++ leBytes 8 x.laddr.toNat ++ leBytes 2 x.ver ++ leBytes 2 0
/-- CHK of bytes 0 to 43: bytes 32 to 39 count as zero (R275). -/
def chkOf (l : List Byte) : Nat := crc32c (l.take 32 ++ List.replicate 8 0 ++ (l.drop 40).take 4)
/-- CHK of a stub. -/
def stubChk (x : Stub) : Nat := chkOf (stubHead x)
/-- The 64 bytes of a stub. -/
def stubBytes (x : Stub) : List Byte := stubHead x ++ leBytes 4 (stubChk x) ++ leBytes 16 0
/-- The stub that 64 bytes hold. -/
def stubOf (l : List Byte) : Stub :=
  let n := leNat l
  { sid := BitVec.ofNat 64 (bits n 63 0), oaddr := BitVec.ofNat 64 (bits n 127 64), len := bits n 159 128, tag := bits n 165 160
    octx := bits n 179 168, hop := bits n 183 180, shape := BitVec.ofNat 64 (bits n 255 192)
    laddr := BitVec.ofNat 64 (bits n 319 256), ver := bits n 335 320 }
/-- Whether CHK matches. -/
def stubOk (l : List Byte) : Bool := chkOf l == bits (leNat l) 383 352

/-- The link of a SID (R276). -/
def linkOf (sid : W64) : Nat := sid.toNat / 2 ^ 16
/-- The derivation number of a SID. -/
def subOf (sid : W64) : Nat := sid.toNat % 2 ^ 16
/-- The origin package of a SID. -/
def originPkg (sid : W64) : Nat := bits sid.toNat 63 58

/-- States in which an origin's link is live (R289). -/
def LinkState.live : LinkState → Bool
  | .opened | .delivered | .pulling => true
  | _ => false
/-- The code of a state (R285). -/
def LinkState.code : LinkState → Nat
  | .opened => 0 | .delivered => 1 | .pulling => 2 | .drained => 3 | .dropped => 4 | .severed => 5

/-- Segments of a stub. -/
def segsOf (x : Stub) : Nat := cdiv x.len 4096

/-! ## Release (R288, R289) -/

/-- The held host accesses that go on now, and those that stay: a write that meets a lent page, and what follows it at its function. -/
def splitHeld (s : State) : List HostWrite → List Nat → List HostWrite × List HostWrite
  | [], _ => ([], [])
  | h :: rest, stuck =>
    if stuck.contains h.func || (h.ev.isNone && s.lentRange h.addr h.size) then
      let (out, keep) := splitHeld s rest (h.func :: stuck)
      (out, h :: keep)
    else
      let (out, keep) := splitHeld s rest stuck
      (h :: out, keep)

/-- One of them goes on; what follows an access made by its event is made by its own, so that the order stays (R204). -/
def goHeld (p : State × List Nat) (h : HostWrite) : State × List Nat :=
  if h.ev.isSome || p.2.contains h.func then (p.1.later h.event, h.func :: p.2) else (p.1.hostPerform h, p.2)

/-- Performs held host writes whose pages are no longer lent (R288). -/
def State.hostWrites (s : State) : State :=
  let (out, keep) := splitHeld s s.hostHeld []
  (out.foldl goHeld ({ s with hostHeld := keep }, [])).1

/-- Asks the front end again for what it may have waited for: completion records, and the heads of its queues. -/
def State.retryFront (s : State) : State :=
  (s.queues.filter fun e => e.2.st == .ready || e.2.st == .draining).foldl (fun s e => s.askHead e.1)
    { s with agenda := s.agenda ++ (s.launches.filter fun l => l.retired == l.n).map fun l => Turn.event (.launchComplete l.id) }

/-- The unpulled segments of dropped stubs on pages no longer lent read as zero from now on (R283). -/
def State.clearBlanks (s : State) : State :=
  let (keep, go) := s.blanks.partition fun b => s.isLent (b * 4096)
  if go.isEmpty then s else { s with blanks := keep, mem := s.mem.filter fun x => !go.contains (x.1 / 4096) }

/-- What waits for a release is done or asked for again: dropped segments, host writes, landings, deliveries, completion records and
strips. -/
def State.afterRelease (s : State) : State :=
  let l := s.landings
  let s := s.clearBlanks.hostWrites
  let s : State := { s with
    landings := []
    agenda := s.agenda ++ (l.map fun x => Turn.event (.segmentLanding x.1 x.2.1 (.bytes x.2.2)))
      ++ (s.transit.map fun t => Turn.event (.stubDelivery t.from_ t.ctx t.stub)) }
  s.retryRemote.retryFront.retryStrips

/-- Changes the origin record of a link; a link that ends its life releases its pages. -/
def State.modOrigin (s : State) (link : Nat) (f : Origin → Origin) : State :=
  let was := s.origins.any fun o => o.link == link && o.st.live
  let s : State := { s with origins := s.origins.map fun o => if o.link == link then f o else o }
  if was && !s.origins.any (fun o => o.link == link && o.st.live) then s.afterRelease else s

/-- A live origin record. -/
def State.liveOrigin (s : State) (sid : W64) : Option Origin :=
  s.origins.find? fun o => o.link == linkOf sid && o.st.live && o.holders.any fun h => h.2 == subOf sid

/-- A stub ends at its origin with `last` as the link's final state (R289 rows 2 and 3). -/
def State.stubEnds (s : State) (sid : W64) (last : LinkState) : State :=
  match s.liveOrigin sid with
  | none => s
  | some o => s.modOrigin o.link fun o =>
    { o with
      refs := o.refs - 1, holders := o.holders.filter fun h => h.2 != subOf sid, granted := o.granted.filter fun h => h.2 != subOf sid
      st := if o.refs ≤ 1 then last else o.st }

/-- Sends a holder's message to a stub's origin, or applies it when the origin is this package. -/
def State.tellOrigin (s : State) (sid : W64) (drained : Bool) : State :=
  let p := originPkg sid
  if p == s.urnyx.number then s.stubEnds sid (if drained then .drained else .dropped)
  else s.send (if drained then .ended p sid else .dropped p sid)

/-- A reference that package `from_` asks for, naming `dest` (R284, R289 row 4): the reply. -/
def State.grantRef (s : State) (from_ dest : Nat) (sid : W64) : State × RefReply :=
  match s.liveOrigin sid with
  | none => (s, .noLink)
  | some o =>
    if 65535 < o.nextSub then (s, .exhausted)
    else (s.modOrigin o.link fun o =>
      { o with
        refs := o.refs + 1, nextSub := o.nextSub + 1, holders := o.holders ++ [(dest, o.nextSub)]
        granted := o.granted ++ [(from_, o.nextSub)] }, .granted o.nextSub)

/-- A delivery acknowledged at the origin (R289 row 6). -/
def Origin.acked (o : Origin) (sub : Nat) : Origin :=
  { o with st := if o.st == .opened then .delivered else o.st, granted := o.granted.filter fun h => h.2 != sub }

/-! ## The holder's side -/

/-- The holder record of a SID in a context. -/
def State.holder (s : State) (c : Nat) (sid : W64) : Option Holder := s.holders.find? fun h => h.ctx == c && h.stub.sid == sid
/-- Changes holder records. -/
def State.modHolders (s : State) (p : Holder → Bool) (f : Holder → Holder) : State :=
  { s with holders := s.holders.map fun h => if p h then f h else h }

/-- The leaf of a landing page and its flat address, by checks 1 to 4 of R270 (R398). -/
def State.landing (s : State) (c va : Nat) : Option (Nat × Nat) :=
  if 2 ^ 57 ≤ va then none
  else match s.lookup ioCore c va with
    | .leaf e lo => if bits e 6 5 == 0 then some (leafFlat e lo va, e) else none
    | _ => none

/-- Logs the malformed entry that a walk of the Zelsin's own met (R265). -/
def State.logWalk (s : State) (c va : Nat) : State :=
  match s.lookup ioCore c va with
  | .malformed a => s.log (s.part (s.ctx c).part).func 3 a 0
  | _ => s

/-- Severs the holder records that `p` picks (R287, R289): pulls in flight end without landing. -/
def State.sever (s : State) (p : Holder → Bool) : State :=
  s.modHolders (fun h => p h && (h.st == .delivered || h.st == .pulling)) fun h => { h with st := .severed, flight := [], pullers := [] }

/-- Frees the window of a SID: the space returns once every earlier window is dropped too (R279). -/
def freeWindow (x : CtxSt) (sid : W64) : CtxSt :=
  let l := x.windows.map fun w => if w.sid == sid then { w with dropped := true } else w
  { x with windows := l.dropWhile (·.dropped) }

/-! ## The instructions -/

/-- Reads 64 bytes at a scalar address for an instruction that the control front runs, once its older stores are performed (R280,
R96). -/
def State.read64 (s : State) (ea : W64) (f : State → List Byte → State) : State :=
  if ea.toNat % 64 != 0 then s.trap cMISALIGN 0 ea
  else if !s.th.pending.isEmpty then s.holdOn .none
  else match readRun s s.cur 0 (!s.th.sup) (scalarTarget (coreOf s.cur)) ea 64 with
    | .wait s h => s.holdOn h
    | .fault s c va m => (s.endReplies s.cur 0).accessFault c 0 va 0 0 m
    | .ok s bs => f (s.endReplies s.cur 0) bs

/-- Reads a stub (R280). -/
def State.readStub (s : State) (ea : W64) (f : State → Stub → State) : State :=
  s.read64 ea fun s bs => if stubOk bs then f s (stubOf bs) else s.trap cLINKFAULT 4

/-- Whether a send descriptor is invalid (R281). -/
def sendBad (x : Nat) : Bool :=
  let saddr := bits x 63 0
  let len := bits x 95 64
  let sout := bits x 319 256
  bits x 127 108 != 0 || bits x 255 208 != 0 || bits x 511 320 != 0 || len == 0 || decide (2 ^ 30 < len) || saddr % 4096 != 0
    || (tagOfCode (bits x 101 96)).isNone || decide (1 < saddr / 2 ^ 60)
    || (sout != 0 && decide (sout < saddr + len) && decide (saddr < sout + 64))

/-- What the pages of a send come to (R281). -/
inductive SendOut where
  | ok (pages : List Nat)
  | hold
  | fault (s : State) (cause detail : Nat) (va : W64) (migw : Bool)

/-- The checks of the pages of a send by thread `k`, ascending, `n` of them from page base `a`. -/
def sendPages (s : State) (k : ThreadKey) (user : Bool) (tgt : Nat) (sel : W64) : Nat → Nat → SendOut
  | 0, _ => .ok []
  | n + 1, a =>
    let va := sel + BitVec.ofNat 64 a
    if 2 ^ 57 ≤ a then .fault s cPROT 5 va false
    else
      let t := s.thOf k
      let next := fun (flat e : Nat) =>
        if bit e 13 then SendOut.fault s cLINKFAULT 8 0 false
        else if bit e 14 && !s.isLent flat then .hold
        else match sendPages s k user tgt sel n (a + 65536) with
          | .ok l => .ok (flat / 65536 :: l)
          | r => r
      match s.translate (coreOf k) t.ctx user .read [tgt] a with
      | .ok flat e => next flat e
      | .notPresent m => .fault s cPAGEFAULT 5 va m
      | .prot => .fault s cPROT 5 va false
      | .malformed x => .fault (s.log (s.part t.part).func 3 x 0) cPROT 5 va false
      | .lent _ => .hold
      | .unpulled .. => .fault s cLINKFAULT 8 0 false
      | .severed => .fault s cLINKFAULT 8 0 false

/-- Where the sender's copy goes. -/
inductive SoutPlace where
  | none
  | flat (a leaf : Nat)
  | lent
  | remote (pkg off : Nat)
  | hold (s : State)
  | fault (s : State) (cause : Nat) (migw : Bool)

/-- The place of SOUT: whether a write there would fault, before the step is taken (R281). -/
def State.soutPlace (s : State) (k : ThreadKey) (user : Bool) (a : W64) : SoutPlace :=
  let t := s.thOf k
  if a == 0 then .none
  else match scalarTarget (coreOf k) a with
    | .paged tgt v =>
      match s.translate (coreOf k) t.ctx user .write [tgt] v with
      | .ok flat leaf => if tgt == 1 && (s.cxl.get {} (flat / 2 ^ 40 % 4)).down then .fault s cPROT false else .flat flat leaf
      | .lent _ => .lent
      | .notPresent m => .fault s cPAGEFAULT m
      | .malformed x => .fault (s.log (s.part t.part).func 3 x 0) cPROT false
      | .prot => .fault s cPROT false
      | .severed => .fault s cSEVERED false
      | .unpulled sid seg f => .hold (if f then s else s.startPull (coreOf k) t.ctx sid seg t.part t.owner (s.launchId k))
    | .spad core off => if s.spadOk k t.ctx core off 64 then .flat (spadFlat core off) 0 else .fault s cPROT false
    | .remote pkg off => if s.reachable pkg && (s.peerCtx t.ctx pkg).isSome then .remote pkg off else .fault s cPROT false
    | .bad => .fault s cPROT false

/-- Adds an origin record, in the place of one that has ended when the table has no other (R276, R285). -/
def addOrigin (l : List Origin) (o : Origin) : List Origin :=
  if l.length < 65536 then l ++ [o]
  else match l.find? fun x => !x.st.live with
    | none => l ++ [o]
    | some y => (l.filter fun x => x.link != y.link) ++ [o]

/-- The stub that a dsend of descriptor `x` makes, with a serial number (R275, R276, R281). -/
def sentStub (s : State) (k : ThreadKey) (x serial : Nat) : Stub :=
  { sid := BitVec.ofNat 64 ((s.urnyx.number * 2 ^ 42 + serial) * 2 ^ 16), oaddr := BitVec.ofNat 64 (bits x 63 0), len := bits x 95 64
    tag := bits x 101 96, octx := (s.thOf k).ctx, hop := 0, shape := BitVec.ofNat 64 (bits x 191 128), laddr := 0, ver := bits x 207 192 }

/-- Performs the unperformed scalar stores of every thread that has one in a page about to be lent: a pull returns what they leave (R198). -/
def State.settlePages (s : State) (pages : List Nat) : State :=
  (s.threads.filter fun e => e.2.pending.any fun p => pages.contains (p.1 / 65536)).foldl (fun s e => s.performAll e.1) s

/-- The indivisible step of dsend (R281), for serial number `serial`. -/
def State.sendStep (s : State) (k : ThreadKey) (e : Entry) (x serial : Nat) (pages : List Nat) (place : SoutPlace) : State :=
  let t := s.thOf k
  let pkg := bits x 107 102
  let peer := (s.peerCtx t.ctx pkg).getD 0
  let st := sentStub s k x serial
  let link := linkOf st.sid
  let s := s.settlePages pages
  let o : Origin :=
    { link, refs := 1, st := .opened, served := 0, nextSub := 1, ctx := t.ctx, oaddr := st.oaddr, len := st.len, tag := st.tag
      hop := 0, pages, holders := [(pkg, 0)] }
  let s : State := { s with origins := addOrigin s.origins o }
  let s := match place with
    | .flat a leaf => (s.storeBytes (some k) a (stubBytes st)).touched k 0 a 64 leaf true
    | _ => s
  ((s.scalarDest k e.d st.sid).send (.stub pkg peer st)).crosses (coreOf k) (keyOf t.part t.owner) pkg false 64

/-- The serial number of a dsend: the one it took when it sent its stub's copy to another package, else the next (R276). -/
def takeSerial (s : State) (e : Entry) : State × Nat :=
  match e.buf with
  | (_, n) :: _ => (s, n)
  | [] => ({ s with serial := s.serial + 1 }, s.serial)

/-- The end of dsend: a copy for another package is written there, and answered, before the step is taken (R193, R281). -/
def finishSend (s : State) (k : ThreadKey) (e : Entry) (x : Nat) (pages : List Nat) (place : SoutPlace) (sout : W64) : AccHalf :=
  let (s, n) := takeSerial s e
  match place with
  | .remote p off =>
    match s.remote k 1 e.user p off 64 (.write (stubBytes (sentStub s k x n))) with
    | .stall h s => .wait s { e with buf := [(0, n)] } h
    | .fault c m s => .fault ((s.endReplies k 1).clearStall k 1) e c 0 0 sout .write m
    | _ => .done (((s.endReplies k 1).clearStall k 1).sendStep k e x n pages place) e
  | _ => .done (s.sendStep k e x n pages place) e

/-- dsend (R281): the holds of R96 and R281 come before its indivisible step. -/
def dsendHalf (s : State) (k : ThreadKey) (e : Entry) : AccHalf :=
  if e.capA.toNat % 64 != 0 then entryTrap s e cMISALIGN 0 e.capA
  else entryRead64 s k e fun s bs =>
    let x := leNat bs
    let pkg := bits x 107 102
    let saddr := bits x 63 0
    let sout := BitVec.ofNat 64 (bits x 319 256)
    if sendBad x then entryTrap s e cLINKFAULT 1
    else if pkg == s.urnyx.number || !s.urnyx.members.contains pkg then entryTrap s e cLINKFAULT 2
    else if (s.peerCtx (s.thOf k).ctx pkg).isNone then entryTrap s e cPROT 5 e.capA
    else
      let a0 := saddr % 2 ^ 60 / 65536 * 65536
      let n := cdiv (saddr % 2 ^ 60 + bits x 95 64 - a0) 65536
      match sendPages s k e.user (saddr / 2 ^ 60) (BitVec.ofNat 64 (saddr / 2 ^ 60 * 2 ^ 60)) n a0 with
      | .hold => .wait s e .none
      | .fault s c det va m => .fault s e c det 0 va .read m
      | .ok pages =>
        if sout.toNat % 64 != 0 then entryTrap s e cMISALIGN 0 sout
        else
          let place := s.soutPlace k e.user sout
          match place with
          | .hold s => .wait s e .pull
          | .fault s c m => .fault s e c 0 0 sout .write m
          | _ =>
            if 65536 ≤ (s.origins.filter (·.st.live)).length then entryTrap s e cLINKFAULT 3
            else match place with
              | .lent => entryTrap s e cLENTWRITE 0 sout
              | _ => finishSend s k e x pages place sout

/-- The segments of a holder record that a dpull of [lo, lo + n) starts (R282). -/
def State.pullable (s : State) (c lo n : Nat) (h : Holder) : List Nat :=
  if h.ctx == c && (h.st == .delivered || h.st == .pulling) then
    (List.range (segsOf h.stub)).filter fun seg =>
      let base := h.stub.laddr.toNat + seg * 4096
      decide (base < lo + n) && decide (lo < base + 4096) && n != 0 && !bit h.pulled seg && !h.flight.contains seg
        && (s.landing c base).isSome
  else []

/-- dpull (R282). -/
def dpullHalf (s : State) (k : ThreadKey) (e : Entry) : AccHalf :=
  let n := e.capB.toNat
  if 2 ^ 30 < n then entryTrap s e cLINKFAULT 9
  else
    let t := s.thOf k
    let want := s.holders.map fun h => (s.pullable t.ctx e.capA.toNat n h).map fun seg => (h.stub.sid, seg)
    .done (want.flatten.foldl (fun s w => s.startPull (coreOf k) t.ctx w.1 w.2 t.part t.owner (s.launchId k)) s) e

/-- Reads the stub that an entry's first scalar addresses (R280). -/
def entryStub (s : State) (k : ThreadKey) (e : Entry) (f : State → Stub → AccHalf) : AccHalf :=
  if e.capA.toNat % 64 != 0 then entryTrap s e cMISALIGN 0 e.capA
  else entryRead64 s k e fun s bs => if stubOk bs then f s (stubOf bs) else entryTrap s e cLINKFAULT 4

/-- The 4 KiB blocks of the unpulled segments of a stub, on deferred-backed pages. -/
def State.unpulledBlocks (s : State) (h : Holder) : List Nat :=
  (List.range (segsOf h.stub)).filterMap fun seg =>
    let va := h.stub.laddr.toNat + seg * 4096
    if bit h.pulled seg then none
    else match s.lookup ioCore h.ctx va with
      | .leaf e lo =>
        let flat := leafFlat e lo va
        if bits e 6 5 == 0 && bit e 13 then some (flat / 4096) else none
      | _ => none

/-- The unpulled segments of a dropped stub read as zero from now on, on a lent page once it is released (R283). -/
def State.blank (s : State) (h : Holder) : State := { s with blanks := s.blanks ++ s.unpulledBlocks h }.clearBlanks

/-- ddrop (R283). -/
def ddropHalf (s : State) (k : ThreadKey) (e : Entry) : AccHalf :=
  entryStub s k e fun s x =>
    let c := (s.thOf k).ctx
    match s.holder c x.sid with
    | none => entryTrap s e cLINKFAULT 5
    | some h =>
      if !h.flight.isEmpty then .wait s e .pull
      else
        let s := if h.st == .delivered || h.st == .pulling then s.tellOrigin x.sid false else s
        .done (({ s.blank h with holders := s.holders.filter fun g => !(g.ctx == c && g.stub.sid == x.sid) } : State).modCtx c
          (freeWindow · x.sid)) e

/-- Forgets a reference asked for. -/
def clearRef (t : Thread) : Thread := { t with refReply := none, refStub := none, asked := t.asked.filter fun x => x.1 != 4 }

/-- The end of dresend, once the origin has answered (R284). -/
def finishResend (s : State) (k : ThreadKey) (e : Entry) (x : Stub) (r : RefReply) : AccHalf :=
  let s := s.modTh k clearRef
  let c := (s.thOf k).ctx
  let pkg := e.capB.toNat
  match r with
  | .noLink => entryTrap (s.sever fun h => h.ctx == c && h.stub.sid == x.sid).retryFront e cLINKFAULT 6
  | .exhausted => entryTrap s e cLINKFAULT 7
  | .granted sub =>
    let y := { x with sid := BitVec.ofNat 64 (linkOf x.sid * 2 ^ 16 + sub), hop := x.hop + 1, laddr := 0 }
    .done (((s.scalarDest k e.d y.sid).send (.stub pkg ((s.peerCtx c pkg).getD 0) y)).crosses (coreOf k)
      (keyOf (s.thOf k).part (s.thOf k).owner) pkg false 64) e

/-- dresend (R284): its checks, and the reference asked of the origin, from which on the entry has started (R41). -/
def dresendHalf (s : State) (k : ThreadKey) (e : Entry) : AccHalf :=
  let pkg := e.capB.toNat
  match (s.thOf k).refStub, (s.thOf k).refReply with
  | some x, some r => finishResend s k e x r
  | some _, none => .wait s e .none
  | none, _ => entryStub s k e fun s x =>
    let c := (s.thOf k).ctx
    match s.holder c x.sid with
    | none => entryTrap s e cLINKFAULT 5
    | some h =>
      if h.st != .delivered && h.st != .pulling then entryTrap s e cLINKFAULT 6
      else if pkg == s.urnyx.number || !s.urnyx.members.contains pkg then entryTrap s e cLINKFAULT 2
      else if (s.peerCtx c pkg).isNone then entryTrap s e cPROT 5 e.capA
      else if x.hop == 15 then entryTrap s e cLINKFAULT 7
      else
        let p := originPkg x.sid
        if p == s.urnyx.number then
          let (s, r) := s.grantRef s.urnyx.number pkg x.sid
          finishResend s k e x r
        else
          .wait ((s.send (.refReq p pkg x.sid)).modTh k fun t => { t.asks (4, p, x.sid, false) with refStub := some x }) e .none

/-- Set bits of a bitmap over `n` segments. -/
def countBits (x n : Nat) : Nat := ((List.range n).filter (bit x)).length

/-- The value of dlstat (R285). -/
def State.linkStatus (s : State) (c : Nat) (x : Stub) : Nat :=
  let hop := x.hop % 16 * 2 ^ 4
  match s.holder c x.sid with
  | some h => h.st.code + hop + countBits h.pulled (segsOf h.stub) % 2 ^ 19 * 2 ^ 32
  | none =>
    match s.origins.find? fun o => o.link == linkOf x.sid && o.ctx == c && originPkg x.sid == s.urnyx.number with
    | some o => o.st.code + 8 + hop + o.refs % 2 ^ 17 * 2 ^ 8 + o.served % 2 ^ 19 * 2 ^ 32
    | none => 6 + hop

/-- DLSTAT (R285): it waits for acquires, and arms the watch, as a scalar load (R119, R159, R280). -/
def execDlstat (d a : SReg) (s : State) : Host.Outcome State Fault Refusal :=
  let ea := s.getS a
  .next <|
    if s.th.acquiring then s.holdOn .none
    else s.readStub ea fun s x =>
      ((s.arm (s.flatOf s.cur (scalarTarget (coreOf s.cur) ea))).setS d (BitVec.ofNat 64 (s.linkStatus s.th.ctx x))).advance

/-! ## Deliveries (R278, R279) -/

/-- The inbound descriptor as the Zelsin reads it. -/
structure Inbound where
  ring : Nat
  logcap : Nat
  wr   : Nat
  rd   : Nat
  land : Nat
  lsz  : Nat

/-- Whether a descriptor's number keeps R278. -/
def inboundOk (x : Nat) : Bool :=
  bits x 63 0 % 4096 == 0 && decide (6 ≤ bits x 67 64) && decide (bits x 67 64 ≤ 12) && bits x 127 68 == 0
    && bits x 319 256 % 65536 == 0 && bits x 335 320 != 0 && bits x 511 336 == 0

/-- What an access that no instruction issues comes to: a global-space place of a context, a lent page, a pull under way, or a failure. -/
inductive OwnOut where
  | at (flat leaf : Nat)
  | lent
  | pull (s : State)
  | bad

/-- An access of the Zelsin's own in a context's global space (R278, R279, R287). -/
def State.ownAccess (s : State) (c : Nat) (kind : AKind) (va : Nat) : OwnOut :=
  let x := s.ctx c
  if 2 ^ 57 ≤ va then .bad
  else match s.translate ioCore c false kind [0] va with
    | .ok flat leaf => .at flat leaf
    | .lent _ => .lent
    | .unpulled sid seg f => .pull (if f then s else s.startPull unitIo c sid seg x.part x.owner none)
    | _ => .bad

/-- The address of a context's inbound descriptor (R277). -/
def State.descAddr (s : State) (c : Nat) : Nat := bits (s.ctx c).lnkin.toNat 56 6 * 64

/-- The fields of an inbound descriptor (R278). -/
def inboundOf (x : Nat) : Inbound :=
  { ring := bits x 63 0, logcap := bits x 67 64, wr := bits x 191 128, rd := bits x 255 192, land := bits x 319 256, lsz := bits x 335 320 }

/-- The offset of a new window of `need` bytes in a region of `size` bytes, when one fits (R279). -/
def placeWindow (x : CtxSt) (size need : Nat) : Option Nat :=
  let off := if x.landPtr + need ≤ size then x.landPtr else 0
  if off + need ≤ size && x.windows.all fun w => decide (w.off + w.size ≤ off) || decide (off + need ≤ w.off) then some off else none

/-- What the pages of a window come to: their flat addresses, a lent one, or the address of one that fails the landing checks. -/
inductive WindowOut where
  | pages (l : List Nat)
  | lent
  | bad (va : Nat)

/-- The pages of a window, ascending (R398). -/
def windowPages (s : State) (c base : Nat) : Nat → WindowOut
  | 0 => .pages []
  | n + 1 => match windowPages s c base n with
    | .pages l => match s.landing c (base + n * 65536) with
      | some (f, _) => if s.isLent f then .lent else .pages (l ++ [f])
      | none => .bad (base + n * 65536)
    | r => r

/-- Zeros from `n` bytes on within a window whose pages are given. -/
def zeroFrom (s : State) (pages : List Nat) (n : Nat) : State :=
  (pages.zipIdx).foldl (fun s p =>
    let lo := if n ≤ p.2 * 65536 then 0 else min 65536 (n - p.2 * 65536)
    s.storeBytes none (p.1 + lo) (List.replicate (65536 - lo) 0)) s

/-- A delivery waits in transit; a malformed descriptor or a failing page, at `bad`, is logged once, with the malformed entry that a walk
met there (R265, R279, R398). -/
def State.waitStub (s : State) (from_ c : Nat) (x : Stub) (bad : Option Nat) : State :=
  let seen := s.transit.find? fun t => t.stub == x && t.ctx == c && t.from_ == from_
  let was := (seen.map (·.logged)).getD false
  let s := match bad with
    | some va => if was then s else (s.logWalk c va).log (s.part (s.ctx c).part).func 5 va x.sid.toNat
    | none => s
  { s with transit := (s.transit.filter fun t => !(t.stub == x && t.ctx == c && t.from_ == from_))
             ++ [{ from_, ctx := c, stub := x, logged := was || bad.isSome }] }

/-- Acknowledges a delivery to the origin, and to the forwarder when it has been forwarded (R279). -/
def State.ackStub (s : State) (from_ : Nat) (x : Stub) : State :=
  let p := originPkg x.sid
  let s := if p == s.urnyx.number then
      s.modOrigin (linkOf x.sid) (·.acked (subOf x.sid))
    else s.send (.ack p x.sid)
  if x.hop == 0 || from_ == p then s else s.send (.ack from_ x.sid)

/-- A delivery that leaves transit. -/
def State.leavesTransit (s : State) (from_ c : Nat) (x : Stub) : State :=
  { s with transit := s.transit.filter fun t => !(t.stub == x && t.ctx == c && t.from_ == from_) }

/-- A delivery refused (R279 step 2). -/
def State.refuseStub (s : State) (from_ c : Nat) (x : Stub) : State :=
  let s := (s.leavesTransit from_ c x).log (s.part (s.ctx c).part).func 5 0 x.sid.toNat
  if originPkg x.sid == s.urnyx.number then s.stubEnds x.sid .dropped else s.send (.refuse (originPkg x.sid) x.sid)

/-- Steps 4 and 5 of R279: the window at `off` on `pages`, the holder record, the slot and WR. A stub of a lost package is severed from
the start (R290). -/
def State.takeStub (s : State) (from_ c : Nat) (x : Stub) (d : Inbound) (off : Nat) (pages : List Nat) (slot wrAt : Nat) : State :=
  let size := pages.length * 65536
  let y := { x with laddr := BitVec.ofNat 64 (d.land + off) }
  let s := zeroFrom (s.leavesTransit from_ c x) pages (segsOf x * 4096)
  let st : LinkState := if s.urnyx.lostPeers.contains (originPkg x.sid) then .severed else .delivered
  let s : State := { s with holders := s.holders ++ [{ ctx := c, stub := y, st, pulled := 0, flight := [] }] }
  let s := s.modCtx c fun q => { q with
    windows := q.windows ++ [{ off, size, sid := x.sid, dropped := false }], landPtr := off + size }
  let s := s.storeBytes none slot (stubBytes y)
  (s.store none wrAt 8 (d.wr + 1)).ackStub from_ x

/-- Step 3 and what follows it, for a descriptor that keeps R278 (R279). -/
def State.deliverTo (s : State) (from_ c : Nat) (x : Stub) (d : Inbound) : State :=
  let need := cdiv x.len 65536
  if d.wr - d.rd == 2 ^ d.logcap || 65536 ≤ s.holders.length then s.waitStub from_ c x none
  else match placeWindow (s.ctx c) (d.lsz * 65536) (need * 65536) with
    | none => s.waitStub from_ c x none
    | some off => match windowPages s c (d.land + off) need with
      | .lent => s.waitStub from_ c x none
      | .bad va => s.waitStub from_ c x (some va)
      | .pages l =>
        match s.ownAccess c .write (d.ring + 64 * (d.wr % 2 ^ d.logcap)), s.ownAccess c .write (s.descAddr c + 16) with
        | .at slot _, .at wrAt _ => s.takeStub from_ c x d off l slot wrAt
        | .pull s, _ => s.waitStub from_ c x none
        | _, .pull s => s.waitStub from_ c x none
        | _, _ => s.waitStub from_ c x none

/-- One attempt to deliver a stub (R279): a window that needs more than a legal LSZ is refused before what makes a delivery wait. -/
def State.deliver (s : State) (from_ c : Nat) (x : Stub) : State :=
  let en := bit (s.ctx c).lnkin.toNat 0
  if (s.holder c x.sid).isSome then (s.leavesTransit from_ c x).ackStub from_ x
  else if (s.ctx c).st == .dead || (s.ctx c).st == .tearing then s.refuseStub from_ c x
  else match s.ownAccess c .read (s.descAddr c) with
    | .at flat _ =>
      let n := s.load flat 64
      let d := inboundOf n
      if d.lsz != 0 && d.lsz < cdiv x.len 65536 then s.refuseStub from_ c x
      else if !en then s.waitStub from_ c x none
      else if !inboundOk n then s.waitStub from_ c x (some (s.descAddr c))
      else s.deliverTo from_ c x d
    | .pull s' => (if en then s' else s).waitStub from_ c x none
    | _ => s.waitStub from_ c x (if en then some (s.descAddr c) else none)

/-- STUB_DELIVERY (R279). -/
def execStubDelivery (from_ c : Nat) (x : Stub) (s : State) : Host.Outcome State Fault Refusal := .next (s.deliver from_ c x)

/-- DELIVERY_ACK (R279, R289 row 6). -/
def execDeliveryAck (sid : W64) (s : State) : Host.Outcome State Fault Refusal :=
  .next (s.modOrigin (linkOf sid) (·.acked (subOf sid)))
/-- DELIVERY_REFUSAL (R279, R289 row 2). -/
def execDeliveryRefusal (sid : W64) (s : State) : Host.Outcome State Fault Refusal := .next (s.stubEnds sid .dropped)
/-- END_MESSAGE (R287, R289 row 3). -/
def execEndMessage (sid : W64) (s : State) : Host.Outcome State Fault Refusal := .next (s.stubEnds sid .drained)
/-- DROP_MESSAGE (R283, R289 row 2). -/
def execDropMessage (sid : W64) (s : State) : Host.Outcome State Fault Refusal := .next (s.stubEnds sid .dropped)

/-! ## Pulls (R287, R398) -/

/-- The bytes of a segment at its origin (R198): the lent pages hold them as they stood at the dsend. -/
def Origin.segBytes (s : State) (o : Origin) (seg : Nat) : List Byte :=
  let off := o.oaddr.toNat % 65536 + seg * 4096
  let n := min 4096 (o.len - seg * 4096)
  match o.pages[off / 65536]? with
  | some p => s.bytes (p * 65536 + off % 65536) n ++ List.replicate (4096 - n) 0
  | none => List.replicate 4096 0

/-- The place of a segment at its origin. -/
def Origin.segPlace (o : Origin) (seg : Nat) : Nat :=
  let off := o.oaddr.toNat % 65536 + seg * 4096
  o.pages.getD (off / 65536) 0 * 65536 + off % 65536

/-- PULL_REQUEST (R287, R289 row 5): the reads carry the key of the link's origin context (R307). -/
def execPullRequest (from_ : Nat) (sid : W64) (seg : Nat) (s : State) : Host.Outcome State Fault Refusal :=
  .next <| match s.liveOrigin sid with
    | none => s.send (.pullData from_ sid seg .unknown)
    | some o =>
      let key := keyOf (s.ctx o.ctx).part (s.ctx o.ctx).owner
      let s' := ((s.crosses unitIo key from_ true 0).accessReqs unitIo key (o.segPlace seg) 4096 false none).crosses unitIo key from_ false 4096
      let s' := s'.nearReach (keyPart key) (o.segPlace seg) 4096
      (s'.send (.pullData from_ sid seg (.bytes (o.segBytes s seg)))).modOrigin o.link fun o =>
        { o with served := o.served + 1, st := .pulling }

/-- A segment lands (R287), under the key of its holder (R307): its bytes, the bitmap, and the end of the stub when it was the last. -/
def State.land (s : State) (h : Holder) (seg : Nat) (bs : List Byte) : State :=
  let mine := fun (g : Holder) => g.ctx == h.ctx && g.stub.sid == h.stub.sid
  let va := h.stub.laddr.toNat + seg * 4096
  match s.landing h.ctx va with
  | none => (s.logWalk h.ctx va).modHolders mine fun g =>
      { g with flight := g.flight.filter (· != seg), pullers := g.pullers.filter (·.1 != seg) }
  | some (flat, leaf) =>
    if s.isLent flat then { s with landings := s.landings ++ [(h.stub.sid, seg, bs)] }
    else
      let n := min 4096 (h.stub.len - seg * 4096)
      let key := keyOf (s.ctx h.ctx).part (s.ctx h.ctx).owner
      let s := ((s.storeBytes none flat ((bs ++ List.replicate 4096 0).take n ++ List.replicate (4096 - n) 0)).crosses unitIo key
        (originPkg h.stub.sid) true 4096).accessReqs unitIo key flat 4096 true none
      let s := s.nearTouch flat leaf
      let pulled := setBit h.pulled seg true
      let full := countBits pulled (segsOf h.stub) == segsOf h.stub
      let s := s.modHolders mine fun g =>
        { g with flight := g.flight.filter (· != seg), pullers := g.pullers.filter (·.1 != seg), pulled, st := if full then .drained else g.st }
      if full then s.tellOrigin h.stub.sid true else s

/-- Asks for the saves and teardowns of stopping groups again, after an event that an access they wait for may have needed. -/
def State.retrySaves (s : State) : State :=
  { s with agenda := s.agenda ++ (s.groups.filter fun g => g.st == .stopping).map fun g =>
      Turn.event (if (s.ctx g.ctx).st == .tearing then .teardownComplete g.ctx else .saveComplete g.id) }

/-- SEGMENT_LANDING (R287, R398). -/
def execSegmentLanding (sid : W64) (seg : Nat) (r : PullReply) (s : State) : Host.Outcome State Fault Refusal :=
  .next <| match s.holders.find? fun h => h.stub.sid == sid && h.flight.contains seg with
    | none => s
    | some h =>
      let s := match r with
        | .unknown => s.sever fun g => g.stub.sid == sid
        | .bytes bs => s.land h seg bs
      s.retryRemote.retryFront.retryStrips.retrySaves

/-- REFERENCE_REQUEST (R284): a forwarder at package `from_` asks for a reference, naming `dest`. -/
def execReferenceRequest (from_ dest : Nat) (sid : W64) (s : State) : Host.Outcome State Fault Refusal :=
  let (s, r) := s.grantRef from_ dest sid
  .next (s.send (.refGrant from_ dest sid r))

/-- Whether a thread's dresend has asked for a reference of a stub, naming package `dest`, and has no reply yet. -/
def Thread.asksRef (dest : Nat) (sid : W64) (t : Thread) : Bool :=
  t.asked.any (fun q => q.1 == 4 && q.2.2.1 == sid) && t.refReply.isNone && t.pipe.any fun e => e.op == .dresend && e.capB.toNat == dest

/-- REFERENCE_GRANT (R284): the reply reaches the first thread that asked for the stub and its package. -/
def execReferenceGrant (ask : RefAsk) (r : RefReply) (s : State) : Host.Outcome State Fault Refusal :=
  .next <| match s.threads.find? fun e => e.2.asksRef ask.dest ask.sid with
    | none => s
    | some (k, _) => (s.modTh k fun t => { t with refReply := some r }).retrySaves

/-- SEVER_NOTICE (R289 row 1). -/
def execSeverNotice (sid : W64) (s : State) : Host.Outcome State Fault Refusal :=
  .next ((s.sever fun h => h.stub.sid == sid).retryRemote.retryFront.retryStrips.retrySaves)

/-! ## Bounds, teardown, loss -/

/-- LENTWRITE_BOUND (R288): the count of a thread's stalled write reaches its bound. -/
def execLentwriteBound (k : ThreadKey) (s : State) : Host.Outcome State Fault Refusal :=
  .next ((s.modTh k fun t => { t with stall := t.stall.mapV fun _ n => max n (max 1 ((s.ctx t.ctx).lnkbnd * 1024)) }).retryStrips)

/-- HOST_LENT_WRITE_TIMEOUT (R288): the oldest held host write is discarded and logged. -/
def execHostLentWriteTimeout (s : State) : Host.Outcome State Fault Refusal :=
  .next <| match s.hostHeld with
    | [] => s
    | h :: rest => (({ s with hostHeld := rest } : State).log h.func 2 h.addr 0).hostWrites

/-- Step 4 of teardown (R221): links sent are severed, stubs received dropped. -/
def State.tearLinks (s : State) (c : Nat) : State :=
  let mine := s.origins.filter fun o => o.ctx == c && o.st.live
  let s := mine.foldl (fun s o =>
    let s := o.holders.foldl (fun s h =>
      let sid := BitVec.ofNat 64 (o.link * 2 ^ 16 + h.2)
      if h.1 == s.urnyx.number then s.later (.severNotice sid) else s.send (.sever h.1 sid)) s
    s.modOrigin o.link fun o => { o with st := .severed }) s
  let held := s.holders.filter fun h => h.ctx == c
  let s := held.foldl (fun s h => if h.st == .delivered || h.st == .pulling then s.tellOrigin h.stub.sid false else s) s
  ({ s with holders := s.holders.filter fun h => h.ctx != c } : State).modCtx c fun x => { x with windows := [], landPtr := 0 }

/-- Loss of a package (R290): its stubs are severed; stubs it holds, or forwards with no acknowledgement yet, end. -/
def State.lostPackage (s : State) (pkg : Nat) : State :=
  let s := s.sever fun h => originPkg h.stub.sid == pkg
  (s.origins.filter (·.st.live)).foldl (fun s o =>
    (o.holders.filter fun h => h.1 == pkg || o.granted.contains (pkg, h.2)).foldl (fun s h => s.stubEnds (BitVec.ofNat 64 (o.link * 2 ^ 16 + h.2)) .dropped) s) s

end Sys2Proof.Machine
end

