-- ==== Sys2Proof/Machine/Pipe.lean ====
section
/-! DEFINITION. A routed instruction from its queues to its retirement (R29–R35, R41, R114, R131, R154–R156). -/

namespace Sys2Proof.Machine

/-! ## The queues -/

/-- Whether the control front holds until the entry has completed: it writes a scalar register, trims VL, or holds by its own rule
(R30, R156, R280, R283, R294). -/
def Entry.holdsFront (e : Entry) : Bool :=
  match e.op with
  | .mpop | .mff1 | .ext | .red .. | .xcfg | .dsend | .ddrop | .dresend => true
  | .load _ ff _ => ff
  | _ => false

/-- Whether the control front holds for its queues: for such an entry, or for an instruction at the gate while a trap is enabled, when
the gate releases one at a time (R30, R131). -/
def Thread.frontHeld (t : Thread) : Bool :=
  t.pipe.any (·.holdsFront) || (trapEnables t.v != 0 && t.pipe.any (·.inExe))

/-- Removes the first entry equal to `e`. -/
def dropEntry (e : Entry) : List Entry → List Entry
  | [] => []
  | x :: xs => if x == e then xs else x :: dropEntry e xs
/-- Replaces the first entry equal to `e`. -/
def swapEntry (e e' : Entry) : List Entry → List Entry
  | [] => []
  | x :: xs => if x == e then e' :: xs else x :: swapEntry e e' xs

/-- Replaces an entry in its thread's queues. -/
def State.putEntry (s : State) (k : ThreadKey) (e e' : Entry) : State := s.modTh k fun t => { t with pipe := swapEntry e e' t.pipe }
/-- The entry retires: it leaves the queues, and slots that waited for it become free (R175). -/
def State.retire (s : State) (k : ThreadKey) (e : Entry) : State :=
  let s := s.modTh k fun t => { t with pipe := dropEntry e t.pipe }
  if e.usesSlots then s.sweepSlots (coreOf k) else s

/-- What a dropped instruction, or one over no element, still does to the queues it names (R34, R129, R154): one empty entry. -/
def queueMoves (v : VecState) (e : Entry) : VecState :=
  if e.isLoad then if isQ e.d then pushEntry v e.d (entryOf e.tagD e.vl []) else v
  else if e.isStore then if isQ e.d then popEntry v e.d else v
  else
    let v := popAll v e.popList
    if isQ e.d then pushEntry v e.d (entryOf e.tagD 0 []) else v

/-- A dropped entry retires (R34): its queues move, and a reduction writes its seed. -/
def State.retireDropped (s : State) (k : ThreadKey) (e : Entry) : State :=
  let s := s.modTh k fun t => { t with v := queueMoves t.v e }
  let s := match e.op with
    | .red .. => s.scalarDest k e.d (scalarOf e.tagA (e.capB.toNat % 2 ^ e.tagA.bits))
    | _ => s
  s.retire k e

/-! ## Traps of routed instructions (R114, R155) -/

/-- The thread as a routed instruction's trap finds it: the entry marked, VSTART at its start when it is vector memory. -/
def markPart (e e' : Entry) (t : Thread) : Thread :=
  let t := { t with pipe := swapEntry e { e' with partWay := true, released := false, begun := false, gates := [] } t.pipe }
  if e.isMem && !(t.sup && t.trap.inTrap) then { t with v := { t.v with vstart := e'.start } } else t

/-- A routed instruction traps without completing. -/
def State.trapEntry (s : State) (k : ThreadKey) (e e' : Entry) (cause detail index : Nat) (va : W64) : State :=
  let s := s.modTh k (markPart e e')
  s.takeTrap k { cause, detail, index, va, fu := e.fu, resume := (s.thOf k).pc }

/-- The arithmetic trap on an enabled class (R131): the instruction has completed. -/
def State.arithTrap (s : State) (k : ThreadKey) (e : Entry) (r : Raised) : State :=
  let en := trapEnables (s.thOf k).v &&& allRaised r
  s.takeTrap k { cause := cARITH, detail := en, index := (lowestIn en r).getD 0, fu := e.fu, resume := (s.thOf k).pc }

/-- How an entry leaves a turn. -/
inductive EntryOut where
  | retired (s : State)
  | waiting (s : State)
  | trapped (s : State)

/-! ## Completion -/

/-- Merges classes, retires, and traps when an enabled class was raised (R56, R57, R131). -/
def finish (s : State) (k : ThreadKey) (e : Entry) (v : VecState) (r : Raised) : EntryOut :=
  let s := s.modTh k fun t => { t with v := mergeFlags v r }
  let s := (s.recordSample k e).retire k e
  if trapEnables (s.thOf k).v &&& allRaised r == 0 then .retired s else .trapped (s.arithTrap k e r)

/-- The elements held in the transfer buffer, as results. -/
def bufRes (e : Entry) : List Res := e.buf.map fun p => { i := p.1, x := p.2 }

/-- Writes a load's or atomic's elements to its register group (R154, R165). -/
def commitBuf (v : VecState) (e : Entry) : VecState :=
  if isQ e.d || e.buf.isEmpty then v else writeAll v e.dist e.d e.tagD.bits (bufRes e)

/-- The elements that a faulting access has read are committed, and the registers they stand in are dirty (R154, R217). -/
def commitPart (v : VecState) (e : Entry) : VecState :=
  if isQ e.d || e.buf.isEmpty then v else touch (commitBuf v e) e.dist e.d (gOf e.gc) e.vl e.tagD.bits

/-- The miss mask and COUNT of an acquire gather (R58, R199); one that starts at or above VL changes no register (R154). -/
def missOut (v : VecState) (e : Entry) : VecState :=
  if !e.gather || decide (e.vl ≤ e.start) then v
  else { writeMask v e.dist e.mdest e.miss with missCount := e.miss.length }

/-- The miss mask that a faulting acquire gather leaves: the elements missed below the fault (DEDUCED: log entry 63; R199). -/
def missPart (v : VecState) (e : Entry) : VecState := if e.gather then writeMask v e.dist e.mdest e.miss else v

/-- The vector state after a vector-memory entry completes. -/
def memDone (v : VecState) (e : Entry) : VecState :=
  if e.isLoad then
    let v := if isQ e.d then pushEntry v e.d (entryOf e.tagD e.vl (bufRes e))
      else
        let v := commitBuf v e
        if e.start < e.vl || !e.buf.isEmpty then touch v e.dist e.d (gOf e.gc) e.vl e.tagD.bits else v
    missOut v e
  else if e.isStore then if isQ e.d then popEntry v e.d else v
  else match e.op with
    | .vamo _ => if e.vl == 0 then v else touch (commitBuf v e) e.dist e.d (gOf e.gc) e.vl e.tagD.bits
    | _ => v

/-- The compute result of an entry: majors 0x28–0x2D, and the products. -/
def computeOut (s : State) (k : ThreadKey) (e : Entry) : ComputeOut :=
  let v := (s.thOf k).v
  match e.op with
  | .mma => mmaCore s k v e
  | .mmax => mmaxCore s k v e
  | .mmab => mmabCore s k v e
  | _ => computeCore s v e

/-- The messages of an xch: what each member takes from another's block travels between their cores (R147, R15). -/
def State.xchReqs (s : State) (k : ThreadKey) (e : Entry) : State :=
  let t := s.thOf k
  let ms := attached e.dist
  let bs := blocks e.dist (max e.vl (grantSum e.dist))
  (ms.zip bs).zipIdx.foldl (fun s p =>
    let src := (p.2 + e.capB.toNat) % ms.length
    let b := bs.getD src (0, 0)
    let js := (List.range (min p.1.2.2 e.vl - p.1.2.1)).filter fun j => kBit t.v e (p.1.2.1 + j) && decide (b.1 + j < b.2)
    match js, ms[src]? with
    | _ :: _, some m => s.message m.core p.1.1.core (keyOf t.part t.owner) (js.length * e.tagD.bits / 8)
    | _, _ => s) s

/-- What completing an instruction asks of the package's network. -/
def State.computeReqs (s : State) (k : ThreadKey) (e : Entry) : State :=
  match e.op with
  | .xch => s.xchReqs k e
  | _ => s

/-- Completion of a compute entry: results, pops, the scalar, the classes (R129, R131). -/
def completeCompute (s : State) (k : ThreadKey) (e : Entry) : EntryOut :=
  match computeOut s k e with
  | .fault c d i => .trapped (s.trapEntry k e e c d i 0)
  | .free v =>
    let s := s.scalarDest k e.d (scalarOf e.tagA (Config.freeValue s.freeCtr).toNat)
    finish { s with freeCtr := s.freeCtr + 1 } k e (popAll v e.popList) []
  | .ok v sd r =>
    let s := match sd with
      | some x => s.scalarDest k e.d x
      | none => s
    finish (s.computeReqs k e) k e (popAll v e.popList) r

/-- Completion of any entry whose halves have passed. -/
def completeEntry (s : State) (k : ThreadKey) (e : Entry) : EntryOut :=
  if e.isMem then finish s k e (memDone (s.thOf k).v e) e.fl
  else if e.inExe then completeCompute s k e
  else .retired (s.retire k e)

/-! ## The access half -/

/-- The access half of an entry. -/
def accessHalf (s : State) (k : ThreadKey) (e : Entry) : AccHalf :=
  match e.op with
  | .load .. | .store .. | .vamo _ | .scadd => elemsHalf s k e
  | .mldt => mldtHalf s k e
  | .cbld => cbldHalf s k e
  | .capp => cappHalf s k e
  | .bxld => bxldHalf s k e
  | .xcfg => xcfgHalf s k e
  | .dsend => dsendHalf s k e
  | .dpull => dpullHalf s k e
  | .ddrop => ddropHalf s k e
  | .dresend => dresendHalf s k e
  | _ => .done s e

/-- A fault of an access half: the elements below it are committed, and the trap is taken; a fault-only-first load that has an
element already trims VL instead (R154–R156). The classes raised below it merge at its completion (R165). -/
def accessFaulted (s : State) (k : ThreadKey) (e e' : Entry) (cause detail i : Nat) (va : W64) (kind : AKind) (migw : Bool) :
    EntryOut ⊕ (State × Entry) :=
  if e.isFf && cause != cMISALIGN && !e'.buf.isEmpty then
    .inr (s.modTh k fun t => { t with v := { t.v with vl := i } }, { e' with accDone := true })
  else
    let s := s.modTh k fun t => { t with v := missPart (commitPart t.v e') e' }
    let e'' := { e' with buf := if isQ e.d then e'.buf else [] }
    let s := s.trapEntry k e e'' cause detail i va
    .inl (.trapped (if cause == cPAGEFAULT then s.pageFault k va detail kind.code migw else s))

/-- The access half of an entry: done with the entry it becomes, or out. -/
def runAccess (s : State) (k : ThreadKey) (e : Entry) : EntryOut ⊕ (State × Entry) :=
  if !e.inAcc || e.accDone then .inr (s, e)
  else match accessHalf s k e with
    | .done s e' => .inr (s, { e' with accDone := true, begun := true })
    | .wait s e' _ => .inl (.waiting (s.putEntry k e { e' with begun := true }))
    | .fault s e' c d i va kind m => accessFaulted s k e e' c d i va kind m

/-! ## An entry run to its end within one step -/

/-- Whether a lost member's block holds an element at or above `start`: `l` the distribution with its elements, `ms` the members as they
stand, `b` the first element of the next block. -/
def lostBlock (start : Nat) : List (Member × Nat) → List Member → Nat → Bool
  | (m, n) :: l, x :: xs, b => (m.attached && x.lost && n != 0 && decide (start < b + n)) || lostBlock start l xs (b + n)
  | _, _, _ => false

/-- Whether a member the entry would use has been lost (R25): the home member for a product or a fill, else one whose block holds an
element it acts on. -/
def lostMember (s : State) (k : ThreadKey) (e : Entry) : Bool :=
  let ms := (s.thOf k).v.members
  if e.op.noVector then false
  else if isProduct e || e.op == .mldt || e.op == .cbld then (ms.head?).any (·.lost)
  else lostBlock (if e.isMem then e.start else 0) (shares e.dist e.vl) ms 0

/-- Passes the gates that the entry has yet to pass, when it has an execute half (R229, R325). -/
def State.release (s : State) (k : ThreadKey) (e : Entry) : State × Entry :=
  if !e.inExe || e.released then (s, e)
  else
    let t := s.thOf k
    let s := ((spotsOf k e).filter fun p => !e.gates.contains (coreOf p.slot)).foldl (fun s p =>
      s.passSlot t p.slot (gateBeats e p.nw) (s.charge e p.n)) s
    let (s, e') := s.sampleRelease k e
    (s, { e' with released := true })

/-- One entry, from its place at the head of the queues to its end. -/
def runHead (s : State) (k : ThreadKey) (e : Entry) : EntryOut :=
  if isDropped (s.thOf k).v e then .retired (s.retireDropped k e)
  else if lostMember s k e then .trapped (s.trapEntry k e e cSPANFAULT 0 0 0)
  else match runAccess s k e with
    | .inl o => o
    | .inr (s, e1) =>
      let (s, e2) := s.release k e1
      completeEntry (s.putEntry k e e2) k e2

/-- As `runHead`; one that traps waits until what has started after it has completed (R41). -/
def runEntry (s : State) (k : ThreadKey) (e : Entry) : EntryOut :=
  match runHead s k e with
  | .trapped s' => if (s.thOf k).headMayTrap then .trapped s' else .waiting s
  | o => o

/-- Runs a thread's entries, oldest first, until one waits or traps; true when a trap was taken. -/
def drainLoop : Nat → State → ThreadKey → State × Bool
  | 0, s, _ => (s, false)
  | n + 1, s, k =>
    match (s.thOf k).pipe with
    | [] => (s, false)
    | e :: _ => match runEntry s k e with
      | .retired s => drainLoop n s k
      | .waiting s => (s, false)
      | .trapped s => (s, true)

/-! ## Starting lane threads (R107) -/

/-- The virtual processors of a fetch that start: below the captured VL, with their bit of k set. -/
def startLanes (v : VecState) (f : FetchRec) : FetchRec :=
  { f with
    started := true
    lanes := ((List.range f.vl).filter (maskBit v f.dist f.k)).map fun i =>
      (i, if f.block then { pc := f.target + 4, blkEnd := some f.stop, inVec := true, jumped := false }
          else { pc := f.target, blkEnd := none, inVec := false, jumped := true }) }

/-- Starts a fetch once every older entry of both queues has completed. -/
def State.startFetch (s : State) (k : ThreadKey) : State :=
  let t := s.thOf k
  match t.fetch with
  | none => s
  | some f =>
    if f.started || !t.pipe.isEmpty then s
    else s.modTh k fun t => { t with fetch := tidyFetch (startLanes t.v f) }

/-- Drains a thread's queues, and starts a fetch that waited for them. -/
def State.drain (s : State) (k : ThreadKey) : State × Bool :=
  let (s, b) := drainLoop (s.thOf k).pipe.length s k
  if b then (s, true) else (s.startFetch k, false)

/-! ## Routing -/

/-- Routes an instruction (R29, R30, R91): a trap, a hold, or its entry in the queues, run at once when the queues drain within
the step. -/
def State.route (s : State) (r : Routing) : State :=
  match s.th.routeFault r with
  | some (c, d) => s.trap c d
  | none =>
    if s.th.fetch.isSome then s.holdOn .join
    else if queuesFull s.th r.ent then s.holdOn .none
    else
      let s' := s.mod (·.routed r)
      if s.lockstep then (s'.drain s.cur).1 else s'.gateArrivals s.cur

end Sys2Proof.Machine
end

