-- ==== Sys2Proof/Machine/AccessOps.lean ====
section
/-! DEFINITION. The instructions of the copy engine and of lifetime links that take an access-queue entry: xcfg, dsend, dpull, ddrop
and dresend (R29, R280–R284, R294). What their entries do stands in Copy.lean and Link.lean. -/

namespace Sys2Proof.Machine

/-- The entry of one: its scalars captured at routing (R30). -/
def Thread.accEntry (t : Thread) (op : VOp) (d a b : SReg) : Entry :=
  { t.entry op with
    d := d.toNat, a := a.toNat, b := b.toNat, capA := getScalar t none a.toNat, capB := getScalar t none b.toNat
    inAcc := true, start := 0 }

/-- Routing of xcfg (R294). -/
def xcfgRouting (a : SReg) (ch : BitVec 5) (t : Thread) : Routing :=
  { bad := none, typ := none, ent := { t.accEntry .xcfg 0 a 0 with x := ch.toNat } }
/-- Routing of a link's instruction (R280). -/
def linkRouting (op : VOp) (d a b : SReg) (t : Thread) : Routing := { bad := none, typ := none, ent := t.accEntry op d a b }

/-- XCFG (R294). -/
def execXcfg (a : SReg) (ch : BitVec 5) (s : State) : Host.Outcome State Fault Refusal := .next (s.route (xcfgRouting a ch s.th))
/-- DSEND (R281). -/
def execDsend (d a : SReg) (s : State) : Host.Outcome State Fault Refusal := .next (s.route (linkRouting .dsend d a 0 s.th))
/-- DPULL (R282). -/
def execDpull (a b : SReg) (s : State) : Host.Outcome State Fault Refusal := .next (s.route (linkRouting .dpull 0 a b s.th))
/-- DDROP (R283). -/
def execDdrop (a : SReg) (s : State) : Host.Outcome State Fault Refusal := .next (s.route (linkRouting .ddrop 0 a 0 s.th))
/-- DRESEND (R284). -/
def execDresend (d a b : SReg) (s : State) : Host.Outcome State Fault Refusal := .next (s.route (linkRouting .dresend d a b s.th))

end Sys2Proof.Machine
end

