-- ==== Sys2Proof/Machine/Barrier.lean ====
section
/-! DEFINITION. Barriers: objects, home units, barinit, bararr, barwait and barwait.a (R251–R261). -/

namespace Sys2Proof.Machine

/-! ## Objects (R251) -/

/-- Whether 64 bytes hold an initialised object. -/
def barInited (x : Nat) : Bool :=
  bits x 31 24 == 0x5A && bits x 15 0 != 0 && decide (bits x 18 16 ≤ 3) && bits x 23 19 == 0 && bits x 63 48 == 0
    && bits x 191 151 == 0 && bits x 511 256 == 0

/-- The object that 64 bytes hold. -/
def barOf (x : Nat) : BarObj :=
  { count := bits x 15 0, bscope := bits x 18 16, arrived := bits x 47 32, phase := bits x 127 64, ctx := bits x 139 128
    hcore := bits x 150 140, lq := bits x 205 192, lseq := bits x 255 206, inited := barInited x, waiters := [], broken := false }

/-- The 64 bytes of an initialised object. -/
def barBytes (o : BarObj) : List Byte :=
  leBytes 64 (o.count + o.bscope * 2 ^ 16 + 0x5A * 2 ^ 24 + o.arrived * 2 ^ 32 + o.phase * 2 ^ 64 + o.ctx % 2 ^ 12 * 2 ^ 128
    + o.hcore % 2 ^ 11 * 2 ^ 140 + o.lq % 2 ^ 14 * 2 ^ 192 + o.lseq % 2 ^ 50 * 2 ^ 206)

/-! ## Home units (R252) -/

/-- The die of a physical address: that of its slice (R12). -/
def homeDie (flat : Nat) : Nat := flat / 2 ^ 33 / 16
/-- Active objects of a unit. -/
def barUnitCap : Nat := 1024

/-- The active object at an address. -/
def State.barActive (s : State) (flat : Nat) : Option BarObj := (s.bars.find? fun e => e.1 == flat).map (·.2)
/-- The unit holds an object. -/
def State.putBar (s : State) (flat : Nat) (o : BarObj) : State := { s with bars := s.bars.put flat o }
/-- Idle: no arrival and no waiter (R252); a broken object is not idle. -/
def BarObj.idle (o : BarObj) : Bool := o.arrived == 0 && o.waiters.isEmpty && !o.broken

/-- Whether a control front waits at an object. -/
def Hold.atBar (flat : Nat) : Hold → Bool
  | .barrier f .. => f == flat
  | _ => false
/-- The thread's number among waiters: its group's. -/
def Thread.waiter (t : Thread) : Nat := t.group.getD 0
/-- The groups whose threads wait at an object; one that found its unit full waits at an object that is not active. -/
def State.waitersAt (s : State) (flat : Nat) : List Nat := (s.threads.filter fun e => e.2.hold.atBar flat).map (·.2.waiter)
/-- The object as the unit or memory has it. -/
def State.barObj (s : State) (flat : Nat) : BarObj :=
  (s.barActive flat).getD { barOf (s.load flat 64) with waiters := s.waitersAt flat }

/-- The unit reads or writes an object's memory, under the key of the object's context or of the thread that comes first (R252, R15). -/
def State.barReqs (s : State) (key flat : Nat) (wr : Bool) : State := s.accessReqs (unitBar (homeDie flat)) key flat 64 wr none
/-- The key of an object's context. -/
def State.barKey (s : State) (o : BarObj) : Nat := keyOf (s.ctx o.ctx).part (s.ctx o.ctx).owner
/-- Writes an object back and drops it (R252); a write to a lent page waits (R288). -/
def State.dropIdle (s : State) (flat : Nat) : State :=
  match s.barActive flat with
  | none => s
  | some o =>
    if o.idle && !s.isLent flat then
      (({ s with bars := s.bars.filter fun e => e.1 != flat } : State).storeBytes none flat (barBytes o)).barReqs (s.barKey o) flat true
    else s

/-- What a new object finds in its home unit: a place, an idle object whose write-back waits on a lent page, or no idle object. -/
inductive BarRoom where
  | room (s : State)
  | lent (flat : Nat)
  | full

/-- Makes a place in the home unit of `flat` for its object. -/
def State.barPlace (s : State) (flat : Nat) : BarRoom :=
  if (s.barActive flat).isSome then .room s
  else
    let mine := s.bars.filter fun e => homeDie e.1 == homeDie flat
    if mine.length < barUnitCap then .room s
    else match mine.find? fun e => e.2.idle && !s.isLent e.1 with
      | some e => .room (s.dropIdle e.1)
      | none => match mine.find? (·.2.idle) with
        | some e => .lent e.1
        | none => .full

/-- The entry of an address is free again. -/
def clearEntry (p : Tab W64) (a : W64) : Tab W64 :=
  p.map fun e => if bit e.2.toNat 0 && bits e.2.toNat 56 6 == bits a.toNat 56 6 then (e.1, e.2 &&& ~~~(1 : W64)) else e
/-- The end of a wait: its entry is free, whether a register shows it or not (R257). -/
def Thread.freeEntry (t : Thread) (a : W64) : Thread := { t with barHidden := none, barpend := clearEntry t.barpend a }
/-- The wait of a thread at an object has ended: the front goes on. -/
def Thread.endBarWait (flat : Nat) (t : Thread) : Thread :=
  match t.hold with
  | .barrier f next va => if f == flat then { (t.freeEntry va).seqTo next with hold := .none } else t
  | _ => t

/-- A phase is complete: every waiter goes on (R259 order 4). -/
def State.releaseBar (s : State) (flat : Nat) : State := { s with threads := s.threads.mapV fun _ t => t.endBarWait flat }
/-- Sets the hold of every thread that waits at an object. -/
def State.holdWaiters (s : State) (flat : Nat) (h : Hold) : State :=
  { s with threads := s.threads.mapV fun _ t => if t.hold.atBar flat then { t with hold := h } else t }

/-! ## Participants and entries (R253, R254) -/

/-- The cores a thread lies on: a span lies on every attached member's (R194). -/
def Thread.coresOf (t : Thread) (k : ThreadKey) : List Nat :=
  let l := (attached t.v.members).map (·.core)
  if l.isEmpty then [coreOf k] else l

/-- Queue and sequence number of a thread's launch, and its kernel's BKS. -/
def State.launchOf (s : State) (k : ThreadKey) : Nat × Nat × Bool :=
  match ((s.thOf k).group.bind s.grp).bind fun g => s.lau g.launch with
  | none => (0, 0, false)
  | some l => (l.q, l.seq, l.kern.bks)

/-- Whether a thread may take part (R253). -/
def State.mayArrive (s : State) (k : ThreadKey) (o : BarObj) : Bool :=
  let t := s.thOf k
  let l := s.launchOf k
  match o.bscope with
  | 0 => t.ctx == o.ctx && (t.coresOf k).contains o.hcore
  | 1 => t.ctx == o.ctx && (t.coresOf k).any fun c => dieOf c == dieOf o.hcore
  | 2 => t.ctx == o.ctx
  | _ => (s.thOf k).group.isSome && l.1 == o.lq && l.2.1 == o.lseq

/-- A BARPEND entry (R254). -/
def barEntry (a : W64) (phase : Nat) : W64 :=
  BitVec.ofNat 64 (1 + phase % 2 * 2 + bits a.toNat 56 6 * 2 ^ 6 + phase % 128 * 2 ^ 57)
/-- PH of an entry. -/
def entryPh (e : W64) : Nat := bits e.toNat 63 57
/-- The thread's entry of an object's address. -/
def barFind (t : Thread) (a : W64) : Option Nat :=
  (List.range 4).find? fun i => let e := (t.barpend.get 0 i).toNat; bit e 0 && bits e 56 6 == bits a.toNat 56 6
/-- A free entry. -/
def barFree (t : Thread) : Option Nat := (List.range 4).find? fun i => !bit (t.barpend.get 0 i).toNat 0

/-! ## The instructions -/

/-- Runs `f` at the flat address of the object at U(a) (R255). -/
def State.barAt (s : State) (kind : AKind) (a : W64) (f : State → Nat → State) : State :=
  if a.toNat % 64 != 0 then s.trap cMISALIGN 0 a
  else if a.toNat / 2 ^ 60 != 0 then s.trap cPROT 0 a
  else match s.access s.cur 0 (!s.th.sup) kind (scalarTarget (coreOf s.cur) a) 64 (.read none) with
    | .at flat _ => f (s.clearStall s.cur 0) flat
    | .replied _ => s.trap cPROT 0 a
    | .missed => s.trap cPROT 0 a
    | .fault c m s => s.accessFault c 0 a 0 kind.code m
    | .stall h s => s.holdOn h

/-- BARFAULT (R258). -/
def State.barFault (s : State) (detail : Nat) : State := s.trap cBARFAULT detail

/-- The trap of barinit before its hold (R256), for an object placed at `flat` when its address translates. -/
def State.barinitBad (s : State) (x : Nat) (flat : Option Nat) : Option Nat :=
  if bits x 15 0 == 0 || 3 < bits x 18 16 || bits x 63 19 != 0 then some 8
  else if bits x 18 16 == 3 && !(s.launchOf s.cur).2.2 then some 9
  else if (flat.bind s.barActive).any fun o => decide (0 < o.arrived) || !o.waiters.isEmpty then some 4
  else none

/-- Where the object of barinit lies, when checks 1 to 6 of R270 pass. -/
def State.barFlat (s : State) (a : W64) : Option Nat :=
  match scalarTarget (coreOf s.cur) a with
  | .paged 0 v =>
    match s.translate (coreOf s.cur) s.th.ctx (!s.th.sup) .write [0] v with
    | .ok flat _ => some flat
    | .lent flat => some flat
    | _ => none
  | _ => none

/-- The object that barinit makes. -/
def State.newBar (s : State) (x : Nat) : BarObj :=
  let l := s.launchOf s.cur
  { count := bits x 15 0, bscope := bits x 18 16, arrived := 0, phase := 0, ctx := s.th.ctx, hcore := coreOf s.cur
    lq := l.1, lseq := l.2.1, inited := true, waiters := [], broken := false }

/-- BARINIT (R256). -/
def execBarinit (a b : SReg) (s : State) : Host.Outcome State Fault Refusal :=
  let ea := s.getS a
  let x := (s.getS b).toNat
  let flat := if ea.toNat % 64 == 0 then s.barFlat ea else none
  .next <| match flat.bind fun f => s.barinitBad x (some f) with
    | some d => s.barFault d
    | none => s.barAt .write ea fun s flat => s.whenPerformed fun s =>
      let o := s.newBar x
      let s := ((s.storeBytes (some s.cur) flat (barBytes o)).message (coreOf s.cur) (unitBar (homeDie flat)) s.ownKey 64).barReqs s.ownKey flat true
      ((if (s.barActive flat).isSome then s.putBar flat o else s).holdWaiters flat .none).advance

/-- The trap of an arrival (R257). -/
def State.arriveBad (s : State) (o : BarObj) (a : W64) (hidden : Bool) : Option Nat :=
  let t := s.th
  if !o.inited then some 1
  else if o.broken then some 10
  else if !s.mayArrive s.cur o then some 2
  else match barFind t a with
    | some i => if entryPh (t.barpend.get 0 i) == o.phase % 128 then some 3 else none
    | none => if (barFree t).isNone && !hidden then some 7 else none

/-- An object after one arrival: the last of a phase completes it, and every waiter is released. -/
def BarObj.arrive (o : BarObj) : BarObj × Bool :=
  let n := (o.arrived + 1) % 2 ^ 16
  if n == o.count then ({ o with arrived := 0, phase := (o.phase + 1) % 2 ^ 64, waiters := [] }, true)
  else ({ o with arrived := n }, false)

/-- The arrival itself, one step; the entry is returned, and stands in BARPEND when a register has room. -/
def State.arriveAt (s : State) (flat : Nat) (o : BarObj) (a : W64) : State × W64 :=
  let e := barEntry a o.phase
  let s := match (barFind s.th a).orElse fun _ => barFree s.th with
    | some i => s.mod fun t => { t with barpend := t.barpend.put i e }
    | none => s
  let (o', full) := o.arrive
  let s := s.message (coreOf s.cur) (unitBar (homeDie flat)) s.ownKey 8
  let s := if (s.barActive flat).isSome then s else s.barReqs s.ownKey flat false
  let s := s.putBar flat o'
  (if full then s.releaseBar flat else s, e)

/-- Runs `f` with the thread's arrival made: the checks of bararr, then its hold (R257). -/
def State.arriveThen (s : State) (a : W64) (hidden : Bool) (f : State → Nat → W64 → State) : State :=
  s.barAt .read a fun s flat =>
    match s.barPlace flat with
    | .full => s.barFault 6
    | .lent f => s.holdOn (.lent f)
    | .room s =>
      let o := s.barObj flat
      match s.arriveBad o a hidden with
      | some d => s.barFault d
      | none => s.whenPerformed fun s =>
        let (s, e) := s.arriveAt flat o a
        f s flat e

/-- BARARR (R257). -/
def execBararr (a : SReg) (s : State) : Host.Outcome State Fault Refusal :=
  .next (s.arriveThen (s.getS a) false fun s _ _ => s.advance)

/-- The wait for the phase of entry `e` (R257): it ends, traps, or goes on with the object active; in a full unit it goes on with the object
in memory. -/
def State.barWait (s : State) (flat : Nat) (a e : W64) : State :=
  let o := s.barObj flat
  let h := Hold.barrier flat s.th.fu.nextAddr a
  if o.broken then (s.mod fun t => { t with barHidden := none }).barFault 10
  else if o.phase % 128 != entryPh e then
    let s := if (s.barActive flat).isSome then
        s.putBar flat { o with waiters := o.waiters.filter (· != s.th.waiter) } else s
    (s.mod fun t => t.freeEntry a).advance
  else match s.barPlace flat with
    | .room s =>
      let s := if (s.barActive flat).isSome then s else s.barReqs s.ownKey flat false
      let w := s.th.waiter
      (s.putBar flat { o with waiters := if o.waiters.contains w then o.waiters else o.waiters ++ [w] }).holdOn h
    | _ => s.holdOn h

/-- The barrier at which the front waited has broken (R259 order 1): the trap, once what has started has completed (R41). -/
def State.barBroke (s : State) : State :=
  if s.th.canStop then (s.mod fun t => { t with barHidden := none }).barFault 10 else s

/-- BARWAIT (R257). -/
def execBarwait (a : SReg) (s : State) : Host.Outcome State Fault Refusal :=
  let ea := s.getS a
  .next <| if s.th.hold = .broke then s.barBroke
  else s.barAt .read ea fun s flat =>
    match barFind s.th ea with
    | none => s.barFault 5
    | some i => s.barWait flat ea (s.th.barpend.get 0 i)

/-- The entry of a barwait.a at the address being run that has arrived already (R261). -/
def Thread.arrivedAt (t : Thread) (a : W64) : Option W64 :=
  match t.barHidden with
  | some (pc, e) => if pc == t.fu.addr && bits e.toNat 56 6 == bits a.toNat 56 6 then some e else none
  | none => none

/-- BARWAIT_A (R257): an arrival and the wait as one instruction. -/
def execBarwaitA (a : SReg) (s : State) : Host.Outcome State Fault Refusal :=
  let ea := s.getS a
  .next <| if s.th.hold = .broke then s.barBroke
  else match s.th.arrivedAt ea with
    | some e => s.barAt .read ea fun s flat => s.barWait flat ea e
    | none => s.arriveThen ea true fun s flat e =>
      (s.mod fun t => { t with barHidden := some (t.fu.addr, e) }).barWait flat ea e

/-! ## Events -/

/-- BARRIER_WRITEBACK (R252, R259 order 5): an idle object is written back and dropped. -/
def execBarrierWriteback (flat : Nat) (s : State) : Host.Outcome State Fault Refusal := .next (s.dropIdle flat)

/-- BARRIER_BROKEN (R259 order 1): an active object breaks; each waiter's trap is due. -/
def execBarrierBroken (flat : Nat) (s : State) : Host.Outcome State Fault Refusal :=
  .next <| match s.barActive flat with
    | none => s
    | some o => (s.putBar flat { o with broken := true, arrived := 0, waiters := [] }).holdWaiters flat .broke

/-- Teardown of a context drops its objects with no write-back (R259 order 2). -/
def State.dropBars (s : State) (c : Nat) : State := { s with bars := s.bars.filter fun e => e.2.ctx != c }

/-- A group that ends waits no more. -/
def State.endWaits (s : State) (g : Nat) : State :=
  { s with bars := s.bars.mapV fun _ o => { o with waiters := o.waiters.filter (· != g) } }

end Sys2Proof.Machine
end

