-- ==== Sys2Proof/Decode.lean ====
section
/-! DEFINITION. The decoder of fetch units (R72–R91, checks 1 to 5 as far as they rest on bits alone), and after it the
encoder, written from the same tables. -/

namespace Sys2Proof

/-- Why bytes are no fetch unit: too few of them, or ILLOP with the DETAIL of R91. -/
inductive DecErr where
  | short
  | illop (detail : Nat)
deriving DecidableEq, Repr

/-- One fetch unit (R72): the instruction, whether it is a pair, and its prefix's STG (R87). -/
structure FetchUnit where
  instr : Instr
  long  : Bool
  stg   : BitVec 4
deriving DecidableEq, Repr

/-- Bits lo + n − 1 down to lo of a word. -/
def fld (w : W32) (lo n : Nat) : BitVec n := w.extractLsb' lo n

/-- A word whose major and function are allocated: what it says, whether its fields pass check 3, whether it needs a prefix. -/
structure Cand where
  i       : Instr
  ok      : Bool := true
  needPre : Bool := false

/-- The 38-bit immediate of an I or B word: PAY above the 16 bits in the long form, sign-extended in the short (R77, R89). -/
def immS (long : Bool) (pay : BitVec 22) (x : BitVec 16) : BitVec 38 := if long then pay ++ x else x.signExtend 38
/-- As `immS`, zero-extended (R77: andi, ori, xori; R79: LEN). -/
def immZ (long : Bool) (pay : BitVec 22) (x : BitVec 16) : BitVec 38 := if long then pay ++ x else x.zeroExtend 38
/-- The 48-bit word offset of a J word (R89). -/
def immJ (long : Bool) (pay : BitVec 22) (x : BitVec 26) : BitVec 48 := if long then pay ++ x else x.signExtend 48

/-- Major 0x01 (R76). -/
def decScalar (w : W32) : Option Cand :=
  let d := fld w 21 5; let a := fld w 16 5; let b := fld w 11 5
  match (fld w 0 11).toNat with
  | 0x0 => some ⟨.add d a b, true, false⟩
  | 0x1 => some ⟨.sub d a b, true, false⟩
  | 0x2 => some ⟨.mul d a b, true, false⟩
  | 0x3 => some ⟨.mulh d a b, true, false⟩
  | 0x4 => some ⟨.mulhu d a b, true, false⟩
  | 0x5 => some ⟨.div d a b, true, false⟩
  | 0x6 => some ⟨.divu d a b, true, false⟩
  | 0x7 => some ⟨.rem d a b, true, false⟩
  | 0x8 => some ⟨.remu d a b, true, false⟩
  | 0x10 => some ⟨.and d a b, true, false⟩
  | 0x11 => some ⟨.or d a b, true, false⟩
  | 0x12 => some ⟨.xor d a b, true, false⟩
  | 0x18 => some ⟨.sll d a b, true, false⟩
  | 0x19 => some ⟨.srl d a b, true, false⟩
  | 0x1a => some ⟨.sra d a b, true, false⟩
  | 0x20 => some ⟨.slt d a b, true, false⟩
  | 0x21 => some ⟨.sltu d a b, true, false⟩
  | 0x22 => some ⟨.seq d a b, true, false⟩
  | 0x28 => some ⟨.min d a b, true, false⟩
  | 0x29 => some ⟨.max d a b, true, false⟩
  | 0x2a => some ⟨.minu d a b, true, false⟩
  | 0x2b => some ⟨.maxu d a b, true, false⟩
  | 0x38 => some ⟨.sel d a b, true, false⟩
  | 0x30 => some ⟨.clz d a, b == 0, false⟩
  | 0x31 => some ⟨.ctz d a, b == 0, false⟩
  | 0x32 => some ⟨.popc d a, b == 0, false⟩
  | _ => none

/-- Major 0x14 (R78). -/
def decAmo (w : W32) : Option Cand :=
  let o : Amo := ⟨fld w 21 5, fld w 16 5, fld w 11 5, fld w 4 1 == 1, fld w 5 2, fld w 7 3⟩
  let ok := o.ok && fld w 10 1 == 0
  match (fld w 0 4).toNat with
  | 0 => some ⟨.amoadd o, ok, false⟩
  | 1 => some ⟨.amomin o, ok, false⟩
  | 2 => some ⟨.amomax o, ok, false⟩
  | 3 => some ⟨.amominu o, ok, false⟩
  | 4 => some ⟨.amomaxu o, ok, false⟩
  | 5 => some ⟨.amoand o, ok, false⟩
  | 6 => some ⟨.amoor o, ok, false⟩
  | 7 => some ⟨.amoxor o, ok, false⟩
  | 8 => some ⟨.amoswap o, ok, false⟩
  | 9 => some ⟨.amocas o, ok, false⟩
  | _ => none

/-- Major 0x07 (R77). -/
def decShift (w : W32) : Cand :=
  let d := fld w 21 5; let a := fld w 16 5; let sh := fld w 0 6
  let ok := fld w 8 8 == 0
  match (fld w 6 2).toNat with
  | 0 => ⟨.slli d a sh, ok, false⟩
  | 1 => ⟨.srli d a sh, ok, false⟩
  | 2 => ⟨.srai d a sh, ok, false⟩
  | _ => ⟨.srai d a sh, false, false⟩

/-- Major 0x1E (R79). -/
def decMaskBranch (w : W32) (off : BitVec 38) : Option Cand :=
  let m := fld w 21 5
  match (fld w 16 5).toNat with
  | 0 => some ⟨.bany m off, true, false⟩
  | 1 => some ⟨.ball m off, true, false⟩
  | 2 => some ⟨.bnone m off, true, false⟩
  | _ => none

/-- Major 0x23 (R79). DEDUCED (log entry 50): PAY extends OFS, as R376 states for vfetch and vthr. -/
def decDiverge (w : W32) (off : BitVec 38) : Option Cand :=
  let k := fld w 23 3
  let ok := fld w 16 5 == 0
  match (fld w 21 2).toNat with
  | 0 => some ⟨.vfetch k off, ok, false⟩
  | 1 => some ⟨.vthr k off, ok, false⟩
  | 2 => some ⟨.vjoin, ok && k == 0 && off == 0, false⟩
  | _ => none

/-- Major 0x3C (R81). -/
def decSystem (w : W32) : Option Cand :=
  let d := fld w 21 5; let a := fld w 16 5; let b := fld w 11 5
  match (fld w 0 11).toNat with
  | 0x001 => some ⟨.trap (fld w 11 10), d == 0, false⟩
  | 0x002 => some ⟨.eret, d == 0 && a == 0 && b == 0, false⟩
  | 0x003 => some ⟨.brk (fld w 11 10), d == 0, false⟩
  | 0x004 => some ⟨.wait, d == 0 && a == 0 && b == 0, false⟩
  | 0x005 => some ⟨.uiret, d == 0 && a == 0 && b == 0, false⟩
  | 0x006 => some ⟨.jalr d a, b == 0, false⟩
  | 0x010 =>
    let i := Instr.fence (fld w 18 3) (fld w 16 2) (fld w 14 2)
    some ⟨i, d == 0 && fld w 11 3 == 0 && i.encodable, false⟩
  | 0x011 =>
    let i := Instr.xfence (fld w 23 3) (fld w 20 3) (fld w 17 3)
    some ⟨i, fld w 11 6 == 0 && i.encodable, false⟩
  | 0x020 => some ⟨.rdharm d a b, true, false⟩
  | 0x021 => some ⟨.rdimb d a, b == 0, false⟩
  | 0x022 => some ⟨.rdsamp d a, b == 0, false⟩
  | 0x028 => some ⟨.hclr a, d == 0 && b == 0, false⟩
  | 0x029 => some ⟨.setwash a, d == 0 && b == 0, false⟩
  | _ => none

/-- Major 0x3B (R82). -/
def decObject (w : W32) : Option Cand :=
  let d := fld w 21 5; let a := fld w 16 5; let b := fld w 11 5
  match (fld w 0 11).toNat with
  | 0x001 => some ⟨.barinit a b, d == 0, false⟩
  | 0x002 => some ⟨.bararr a, d == 0 && b == 0, false⟩
  | 0x003 => some ⟨.barwait a, d == 0 && b == 0, false⟩
  | 0x004 => some ⟨.barwaitA a, d == 0 && b == 0, false⟩
  | 0x010 => some ⟨.launch a b, d == 0, false⟩
  | 0x020 => some ⟨.xcfg a b, d == 0 && decide (b.toNat < 2), false⟩
  | 0x021 => some ⟨.xtid d b, a == 0 && decide (b.toNat < 2), false⟩
  | 0x022 => some ⟨.xwait a b, d == 0 && decide (b.toNat < 2), false⟩
  | 0x030 => some ⟨.dsend d a, b == 0, false⟩
  | 0x031 => some ⟨.dpull a b, d == 0, false⟩
  | 0x032 => some ⟨.ddrop a, d == 0 && b == 0, false⟩
  | 0x033 => some ⟨.dresend d a b, true, false⟩
  | 0x034 => some ⟨.dlstat d a, b == 0, false⟩
  | _ => none

/-- Major 0x28 (R83). -/
def decVArith (w : W32) : Option Cand :=
  let o : VBin := ⟨fld w 20 6, fld w 14 6, fld w 8 6, fld w 5 3, fld w 4 1 == 1⟩
  match (fld w 0 4).toNat with
  | 0 => some ⟨.vadd o, true, false⟩
  | 1 => some ⟨.vsub o, true, false⟩
  | 2 => some ⟨.vmul o, true, false⟩
  | 3 => some ⟨.vmulh o, true, false⟩
  | 4 => some ⟨.vdiv o, true, false⟩
  | 5 => some ⟨.vrem o, true, false⟩
  | 6 => some ⟨.vmin o, true, false⟩
  | 7 => some ⟨.vmax o, true, false⟩
  | 8 => some ⟨.vand o, true, false⟩
  | 9 => some ⟨.vor o, true, false⟩
  | 10 => some ⟨.vxor o, true, false⟩
  | 11 => some ⟨.vsll o, true, false⟩
  | 12 => some ⟨.vsrl o, true, false⟩
  | 13 => some ⟨.vsra o, true, false⟩
  | 14 => some ⟨.vsadd o, true, false⟩
  | 15 => some ⟨.vssub o, true, false⟩
  | _ => none

/-- Major 0x29 (R83). -/
def decVFused (w : W32) : Option Cand :=
  let vb := fld w 8 6; let c := fld w 4 1 == 1
  let o : VBin := ⟨fld w 20 6, fld w 14 6, vb, fld w 5 3, c⟩
  let u : VUn := ⟨fld w 20 6, fld w 14 6, fld w 5 3⟩
  let ok := vb == 0 && !c
  match (fld w 0 4).toNat with
  | 0 => some ⟨.vfma o, true, false⟩
  | 1 => some ⟨.vfms o, true, false⟩
  | 2 => some ⟨.vfnma o, true, false⟩
  | 3 => some ⟨.vfnms o, true, false⟩
  | 4 => some ⟨.vsqrt u, ok, false⟩
  | 5 => some ⟨.vrcpe u, ok, false⟩
  | 6 => some ⟨.vrsqe u, ok, false⟩
  | 7 => some ⟨.vexp2 u, ok, false⟩
  | 8 => some ⟨.vlog2 u, ok, false⟩
  | 9 => some ⟨.vabs u, ok, false⟩
  | 10 => some ⟨.vneg u, ok, false⟩
  | 11 => some ⟨.vnot u, ok, false⟩
  | 12 => some ⟨.vclz u, ok, false⟩
  | 13 => some ⟨.vpopc u, ok, false⟩
  | _ => none

/-- Major 0x2A (R83). -/
def decVCompare (w : W32) : Option Cand :=
  let vd := fld w 20 6; let va := fld w 14 6; let vb := fld w 8 6; let k := fld w 5 3; let c := fld w 4 1 == 1
  let o : VBin := ⟨vd, va, vb, k, c⟩
  let ok := k == 0 && !c
  match (fld w 0 4).toNat with
  | 0 => some ⟨.vceq o, true, false⟩
  | 1 => some ⟨.vcne o, true, false⟩
  | 2 => some ⟨.vclt o, true, false⟩
  | 3 => some ⟨.vcle o, true, false⟩
  | 4 => some ⟨.vcgt o, true, false⟩
  | 5 => some ⟨.vcge o, true, false⟩
  | 6 => some ⟨.vcun o, true, false⟩
  | 8 => some ⟨.mand vd va vb, ok, false⟩
  | 9 => some ⟨.mor vd va vb, ok, false⟩
  | 10 => some ⟨.mxor vd va vb, ok, false⟩
  | 11 => some ⟨.mandn vd va vb, ok, false⟩
  | 12 => some ⟨.mnot vd va, ok && vb == 0, false⟩
  | 13 => some ⟨.msbf vd va, ok && vb == 0, false⟩
  | 14 => some ⟨.msif vd va, ok && vb == 0, false⟩
  | _ => none

/-- Major 0x2B (R83). -/
def decVPermute (w : W32) : Option Cand :=
  let vd := fld w 20 6; let va := fld w 14 6; let vb := fld w 8 6; let k := fld w 5 3; let c := fld w 4 1 == 1
  match (fld w 0 4).toNat with
  | 0 => some ⟨.vperm ⟨vd, va, vb, k, c⟩, true, false⟩
  | 1 => some ⟨.vslideup ⟨vd, va, vb, k⟩, c, false⟩
  | 2 => some ⟨.vslidedn ⟨vd, va, vb, k⟩, c, false⟩
  | 3 => some ⟨.vcompress ⟨vd, va, k⟩, vb == 0 && !c, false⟩
  | 4 => some ⟨.vexpand ⟨vd, va, k⟩, vb == 0 && !c, false⟩
  | 5 => some ⟨.viota vd k, va == 0 && vb == 0 && !c, false⟩
  | 6 => some ⟨.vmerge ⟨vd, va, vb, k, c⟩, true, false⟩
  | 7 => some ⟨.vins vd va vb, c && k == 0, false⟩
  | 8 => some ⟨.vext vd va vb, c && k == 0, false⟩
  | 9 => some ⟨.xch ⟨vd, va, vb, k⟩, c, false⟩
  | 10 => some ⟨.mpop vd va, vb == 0 && k == 0 && !c, false⟩
  | 11 => some ⟨.mff1 vd va, vb == 0 && k == 0 && !c, false⟩
  | _ => none

/-- Major 0x2C (R83). -/
def decVReduce (w : W32) : Option Cand :=
  let t : VSc := ⟨fld w 20 6, fld w 14 6, fld w 8 6, fld w 5 3⟩
  let ok := fld w 4 1 == 1
  match (fld w 0 4).toNat with
  | 0 => some ⟨.vraddT t, ok, false⟩
  | 1 => some ⟨.vraddO t, ok, false⟩
  | 2 => some ⟨.vrminT t, ok, false⟩
  | 3 => some ⟨.vrminO t, ok, false⟩
  | 4 => some ⟨.vrmaxT t, ok, false⟩
  | 5 => some ⟨.vrmaxO t, ok, false⟩
  | 6 => some ⟨.vrand t, ok, false⟩
  | 7 => some ⟨.vror t, ok, false⟩
  | 8 => some ⟨.vrxor t, ok, false⟩
  | _ => none

/-- Major 0x2D (R84). -/
def decVConvert (w : W32) : Option Cand :=
  match (fld w 0 4).toNat with
  | 0 => some ⟨.vcvt ⟨fld w 20 6, fld w 14 6, fld w 5 3⟩ (fld w 8 6), fld w 4 1 == 0, false⟩
  | _ => none

/-- Major 0x2E (R84). -/
def decVLength (w : W32) : Option Cand :=
  let ok := fld w 4 10 == 0
  match (fld w 0 4).toNat with
  | 0 => some ⟨.vsetl (fld w 20 6) (fld w 14 6), ok, false⟩
  | 1 => some ⟨.vmt (fld w 14 6), ok && fld w 20 6 == 0, false⟩
  | _ => none

/-- The vector-memory payload of a prefix (R89), and whether its low bits are 0. -/
def vpayOf (long : Bool) (pay : BitVec 22) : VPay :=
  if long then ⟨true, pay.extractLsb' 20 2, pay.extractLsb' 17 3, pay.extractLsb' 16 1 == 1, pay.extractLsb' 11 5⟩
  else ⟨false, 0, 0, false, 0⟩

/-- Check 3 and the prefix that a queue data register needs, given what the class allows (R85, R89). -/
def memCand (i : Instr) (vd : BitVec 6) (p : VPay) (form : Bool) (pay : BitVec 22) : Cand :=
  let q := isQueueSpec vd
  { i, ok := form && pay.extractLsb' 0 11 == 0 && p.scopeOk && (if p.present then p.tv == q else true)
    needPre := q }

/-- Major 0x31 (R85). -/
def decVLoad (w : W32) (long : Bool) (pay : BitVec 22) : Option Cand :=
  let vd := fld w 20 6; let va := fld w 14 6; let vb := fld w 8 6; let k := fld w 5 3; let c := fld w 4 1 == 1
  let p := vpayOf long pay
  let o := p.ord == 0 || p.ord == 1
  let unit := vb == 0 && !c
  match (fld w 0 4).toNat with
  | 0 => some (memCand (.vld ⟨vd, va, k, p⟩) vd p (o && unit) pay)
  | 1 => some (memCand (.vldS ⟨vd, va, vb, k, p⟩) vd p (o && c) pay)
  | 2 => some (memCand (.vldX ⟨vd, va, vb, k, p⟩) vd p (o && !c) pay)
  | 3 => some (memCand (.vldFf ⟨vd, va, k, p⟩) vd p (o && unit) pay)
  | 4 => some (memCand (.vldO ⟨vd, va, k, p⟩) vd p (o && unit) pay)
  | 5 => some (memCand (.vldSo ⟨vd, va, vb, k, p⟩) vd p (o && c) pay)
  | 6 => some (memCand (.vldXo ⟨vd, va, vb, k, p⟩) vd p (o && !c) pay)
  | _ => none

/-- Major 0x32 (R85). -/
def decVStore (w : W32) (long : Bool) (pay : BitVec 22) : Option Cand :=
  let vd := fld w 20 6; let va := fld w 14 6; let vb := fld w 8 6; let k := fld w 5 3; let c := fld w 4 1 == 1
  let p := vpayOf long pay
  let o := p.ord == 0 || p.ord == 2
  let unit := vb == 0 && !c
  match (fld w 0 4).toNat with
  | 0 => some (memCand (.vst ⟨vd, va, k, p⟩) vd p (o && unit) pay)
  | 1 => some (memCand (.vstS ⟨vd, va, vb, k, p⟩) vd p (o && c) pay)
  | 2 => some (memCand (.vstX ⟨vd, va, vb, k, p⟩) vd p (o && !c) pay)
  | 4 => some (memCand (.vstO ⟨vd, va, k, p⟩) vd p (o && unit) pay)
  | 5 => some (memCand (.vstSo ⟨vd, va, vb, k, p⟩) vd p (o && c) pay)
  | 6 => some (memCand (.vstXo ⟨vd, va, vb, k, p⟩) vd p (o && !c) pay)
  | _ => none

/-- Check 3 of a vector atomic, any ORD: with a prefix, TV is 1 exactly when the data register is a queue, which check 7 then refuses
(R85, R89). -/
def atomCand (i : Instr) (vd : BitVec 6) (p : VPay) (form : Bool) (pay : BitVec 22) : Cand :=
  { i, ok := form && pay.extractLsb' 0 11 == 0 && p.scopeOk && (if p.present then p.tv == isQueueSpec vd else true) }

/-- Check 3 of bxld and capp, which have no data register: TV is 0. R89 limits the ORD of loads, stores and vector atomics alone;
DESIGN CHOICE (log entry 51): both take every ORD. -/
def bareCand (i : Instr) (p : VPay) (form : Bool) (pay : BitVec 22) : Cand :=
  { i, ok := form && pay.extractLsb' 0 11 == 0 && p.scopeOk && !p.tv }

/-- Major 0x33 (R85). -/
def decVAtomic (w : W32) (long : Bool) (pay : BitVec 22) : Option Cand :=
  let vd := fld w 20 6; let va := fld w 14 6; let vb := fld w 8 6; let k := fld w 5 3; let c := fld w 4 1 == 1
  let p := vpayOf long pay
  let o : VMemX := ⟨vd, va, vb, k, p⟩
  match (fld w 0 4).toNat with
  | 0 => some (atomCand (.vamoAdd o) vd p (!c) pay)
  | 1 => some (atomCand (.vamoMin o) vd p (!c) pay)
  | 2 => some (atomCand (.vamoMax o) vd p (!c) pay)
  | 3 => some (atomCand (.vamoAnd o) vd p (!c) pay)
  | 4 => some (atomCand (.vamoOr o) vd p (!c) pay)
  | 5 => some (atomCand (.vamoXor o) vd p (!c) pay)
  | 6 => some (atomCand (.vamoSwap o) vd p (!c) pay)
  | 8 => some (atomCand (.vscadd o) vd p (!c) pay)
  | 12 => some (bareCand (.bxld vd va vb p) p (k == 0 && !c) pay)
  | 13 => some (bareCand (.capp va k p) p (vd == 0 && vb == 0 && !c) pay)
  | _ => none

/-- Major 0x38 (R86); mmax and mmab take their operands from PAY, which must hold nothing else (R89). -/
def decMatrix (w : W32) (pay : BitVec 22) : Option Cand :=
  let vd := fld w 20 6; let x := fld w 15 5; let y := fld w 10 5; let k := fld w 7 3
  let rest := y == 0 && k == 0
  match (fld w 0 7).toNat with
  | 0x00 => some ⟨.mma vd x y k, pay == 0, false⟩
  | 0x01 => some ⟨.mmax vd x (pay.extractLsb' 16 6) (pay.extractLsb' 10 6) k, y == 0 && pay.extractLsb' 0 10 == 0, true⟩
  | 0x02 => some ⟨.mmab vd x y (pay.extractLsb' 17 5) k, pay.extractLsb' 0 17 == 0, true⟩
  | 0x10 => some ⟨.mclaim vd x, rest && pay == 0, false⟩
  | 0x11 => some ⟨.mrel x, rest && vd == 0 && pay == 0, false⟩
  | 0x12 => some ⟨.mldt vd x, rest && pay == 0, false⟩
  | 0x13 => some ⟨.cbld vd x, rest && pay == 0, false⟩
  | _ => none

/-- A candidate of a class whose PAY must be 0 (R89: any other word). -/
def noPay (pay : BitVec 22) (c : Option Cand) : Option Cand := c.map fun c => { c with ok := c.ok && pay == 0 }

/-- What a candidate's function says before check 3 (R91): `none` is an unallocated function, the outer `none` an
unallocated major (R75). -/
def candidate (w : W32) (long : Bool) (pay : BitVec 22) : Option (Option Cand) :=
  let d := fld w 21 5; let a := fld w 16 5; let x := fld w 0 16
  match (fld w 26 6).toNat with
  | 0x01 => some (noPay pay (decScalar w))
  | 0x2 => some (some ⟨.addi d a (immS long pay x), true, false⟩)
  | 0x3 => some (some ⟨.andi d a (immZ long pay x), true, false⟩)
  | 0x4 => some (some ⟨.ori d a (immZ long pay x), true, false⟩)
  | 0x5 => some (some ⟨.xori d a (immZ long pay x), true, false⟩)
  | 0x6 => some (some ⟨.slti d a (immS long pay x), true, false⟩)
  | 0x8 => some (some ⟨.lb d a (immS long pay x), true, false⟩)
  | 0x9 => some (some ⟨.lbu d a (immS long pay x), true, false⟩)
  | 0xa => some (some ⟨.lh d a (immS long pay x), true, false⟩)
  | 0xb => some (some ⟨.lhu d a (immS long pay x), true, false⟩)
  | 0xc => some (some ⟨.lw d a (immS long pay x), true, false⟩)
  | 0xd => some (some ⟨.lwu d a (immS long pay x), true, false⟩)
  | 0xe => some (some ⟨.ld d a (immS long pay x), true, false⟩)
  | 0x10 => some (some ⟨.sb d a (immS long pay x), true, false⟩)
  | 0x11 => some (some ⟨.sh d a (immS long pay x), true, false⟩)
  | 0x12 => some (some ⟨.sw d a (immS long pay x), true, false⟩)
  | 0x13 => some (some ⟨.sd d a (immS long pay x), true, false⟩)
  | 0x07 => some (noPay pay (some (decShift w)))
  | 0x0F => some (some ⟨.lih d (immS long pay x), a == 0, false⟩)
  | 0x14 => some (noPay pay (decAmo w))
  | 0x18 => some (some ⟨.beq d a (immS long pay x), true, false⟩)
  | 0x19 => some (some ⟨.bne d a (immS long pay x), true, false⟩)
  | 0x1a => some (some ⟨.blt d a (immS long pay x), true, false⟩)
  | 0x1b => some (some ⟨.bge d a (immS long pay x), true, false⟩)
  | 0x1c => some (some ⟨.bltu d a (immS long pay x), true, false⟩)
  | 0x1d => some (some ⟨.bgeu d a (immS long pay x), true, false⟩)
  | 0x1E => some (decMaskBranch w (immS long pay x))
  | 0x20 => some (some ⟨.j (immJ long pay (fld w 0 26)), true, false⟩)
  | 0x21 => some (some ⟨.jal (immJ long pay (fld w 0 26)), true, false⟩)
  | 0x22 => some (some ⟨.loop d (fld w 18 3) (fld w 16 2) (immZ long pay x), immZ long pay x != 0, false⟩)
  | 0x23 => some (decDiverge w (immS long pay x))
  | 0x24 => some (noPay pay (some ⟨.srr d (fld w 0 12), a == 0 && fld w 12 4 == 0, false⟩))
  | 0x25 => some (noPay pay (some ⟨.srw (fld w 0 12) a, d == 0 && fld w 12 4 == 0, false⟩))
  | 0x28 => some (noPay pay (decVArith w))
  | 0x29 => some (noPay pay (decVFused w))
  | 0x2A => some (noPay pay (decVCompare w))
  | 0x2B => some (noPay pay (decVPermute w))
  | 0x2C => some (noPay pay (decVReduce w))
  | 0x2D => some (noPay pay (decVConvert w))
  | 0x2E => some (noPay pay (decVLength w))
  | 0x30 => some (noPay pay (some ⟨.vcfg d a (fld w 10 6) (fld w 8 2) (fld w 4 4),
      fld w 0 4 == 0 && decide (d.toNat ≤ a.toNat), false⟩))
  | 0x31 => some (decVLoad w long pay)
  | 0x32 => some (decVStore w long pay)
  | 0x33 => some (decVAtomic w long pay)
  | 0x38 => some (decMatrix w pay)
  | 0x3B => some (noPay pay (decObject w))
  | 0x3C => some (noPay pay (decSystem w))
  | _ => none

/-- Whether the word is a long-form prefix (R72). -/
def isPrefix (w : W32) : Bool := fld w 26 6 == 0x3F
/-- Whether the word's major is the AIB header's (R75). -/
def isHeaderMajor (w : W32) : Bool := fld w 26 6 == 0x3D
/-- The body length in words of an AIB header (R90); none when the word is no header. -/
def headerLen (w : W32) : Option Nat :=
  if isHeaderMajor w && fld w 0 21 == 0 then some ((fld w 21 5).toNat + 1) else none

/-- The instruction of one word, under a prefix's STG and PAY when `long` (R91: checks 1, 2, 3, 4 and 5 in that order). Before a prefix
or a header, as before any other word, PAY must be 0 (R89). -/
def decodeWord (w : W32) (long : Bool) (stg : BitVec 4) (pay : BitVec 22) : Except Nat Instr :=
  let stgOk := decide (stg.toNat ≤ 8)
  if isPrefix w then .error (if stgOk && pay == 0 then 4 else 3)
  else if isHeaderMajor w then .error (if !stgOk || pay != 0 || fld w 0 21 != 0 then 3 else if long then 4 else 5)
  else match candidate w long pay with
    | none => .error 1
    | some none => .error 2
    | some (some c) => if !(c.ok && stgOk) then .error 3 else if c.needPre && !long then .error 4 else .ok c.i

/-- One fetch unit from its words (R72). -/
def decodeUnit (w0 : W32) (w1 : Option W32) : Except DecErr FetchUnit :=
  if isPrefix w0 then
    match w1 with
    | none => .error .short
    | some w =>
      match decodeWord w true (fld w0 22 4) (fld w0 0 22) with
      | .ok i => .ok ⟨i, true, fld w0 22 4⟩
      | .error d => .error (.illop d)
  else match decodeWord w0 false 0 0 with
    | .ok i => .ok ⟨i, false, 0⟩
    | .error d => .error (.illop d)

/-- A word from its four bytes, little-endian (R2, R72). -/
def wordOfBytes (b0 b1 b2 b3 : Byte) : W32 := b3 ++ b2 ++ b1 ++ b0

/-- The decoder on bytes: a fetch unit and the bytes after it. -/
def decodeBytes : List Byte → Except DecErr (FetchUnit × List Byte)
  | b0 :: b1 :: b2 :: b3 :: rest =>
    let w0 := wordOfBytes b0 b1 b2 b3
    if isPrefix w0 then
      match rest with
      | c0 :: c1 :: c2 :: c3 :: rest' => (decodeUnit w0 (some (wordOfBytes c0 c1 c2 c3))).map fun u => (u, rest')
      | _ => .error .short
    else (decodeUnit w0 none).map fun u => (u, rest)
  | _ => .error .short

/-- A word's four bytes, lowest address first (R2, R72). -/
def bytesOfWord (w : W32) : List Byte := [fld w 0 8, fld w 8 8, fld w 16 8, fld w 24 8]

/-- The words of the instruction whose bits are `w`, the first word lowest; a prefix's second word is bits 63–32. -/
def tableWords (nbits w : Nat) : W32 × W32 :=
  let v := w % 2 ^ nbits
  (BitVec.ofNat 32 v, BitVec.ofNat 32 (v / 2 ^ 32))

/-- The instruction this decoder reads from a row's word (the host's question). -/
def decodeTableWord (nbits w : Nat) : Option Instr :=
  let p := tableWords nbits w
  match decodeBytes (bytesOfWord p.1 ++ bytesOfWord p.2) with
  | .ok (u, _) => some u.instr
  | .error _ => none

/-! ## The encoder -/

/-- A word, the PAY it needs when it takes the long form, and whether it must take it. -/
structure Enc where
  w    : W32
  pay  : BitVec 22 := 0
  must : Bool := false
deriving DecidableEq, Repr

/-- R layout (R73). -/
def encR (maj : BitVec 6) (d a b : BitVec 5) (f : BitVec 11) : W32 := maj ++ d ++ a ++ b ++ f
/-- I layout (R73). -/
def encI (maj : BitVec 6) (d a : BitVec 5) (x : BitVec 16) : W32 := maj ++ d ++ a ++ x
/-- J layout (R73). -/
def encJ (maj : BitVec 6) (x : BitVec 26) : W32 := maj ++ x
/-- V layout (R73). -/
def encV (maj vd va vb : BitVec 6) (k : BitVec 3) (c : BitVec 1) (f : BitVec 4) : W32 := maj ++ vd ++ va ++ vb ++ k ++ c ++ f
/-- M layout (R73). -/
def encM (vd : BitVec 6) (x y : BitVec 5) (k : BitVec 3) (f : BitVec 7) : W32 := (0x38#6) ++ vd ++ x ++ y ++ k ++ f

/-- I or B word with a sign-extended immediate: short when the 16 bits hold it (R77, R89). -/
def encImmS (maj : BitVec 6) (d a : BitVec 5) (imm : BitVec 38) : Enc :=
  { w := encI maj d a (imm.extractLsb' 0 16), pay := imm.extractLsb' 16 22, must := (imm.extractLsb' 0 16).signExtend 38 != imm }
/-- I word with a zero-extended immediate (R77). -/
def encImmZ (maj : BitVec 6) (d a : BitVec 5) (imm : BitVec 38) : Enc :=
  { w := encI maj d a (imm.extractLsb' 0 16), pay := imm.extractLsb' 16 22, must := (imm.extractLsb' 0 16).zeroExtend 38 != imm }
/-- J word (R79). -/
def encImmJ (maj : BitVec 6) (off : BitVec 48) : Enc :=
  { w := encJ maj (off.extractLsb' 0 26), pay := off.extractLsb' 26 22, must := (off.extractLsb' 0 26).signExtend 48 != off }
/-- A scalar atomic (R78). -/
def encAmo (op : BitVec 4) (o : Amo) : Enc :=
  { w := encR 0x14 o.d o.a o.b ((0#1) ++ o.scope ++ o.ord ++ (BitVec.ofBool o.dbl) ++ op) }
/-- A V word with a scalar-operand bit (R83). -/
def encVBin (maj : BitVec 6) (f : BitVec 4) (o : VBin) : Enc := { w := encV maj o.vd o.va o.vb o.k (BitVec.ofBool o.c) f }
/-- A unary V word (R83). -/
def encVUn (maj : BitVec 6) (f : BitVec 4) (o : VUn) : Enc := { w := encV maj o.vd o.va 0 o.k 0 f }
/-- A V word whose second source is a scalar (R83). -/
def encVSc (maj : BitVec 6) (f : BitVec 4) (o : VSc) : Enc := { w := encV maj o.vd o.va o.sb o.k 1 f }
/-- The payload of a vector-memory prefix (R89). -/
def encVPay (p : VPay) : BitVec 22 := p.ord ++ p.scope ++ (BitVec.ofBool p.tv) ++ p.tag ++ (0#11)
/-- A vector-memory word (R85). -/
def encVMem (maj vd sa vb : BitVec 6) (k : BitVec 3) (c : BitVec 1) (f : BitVec 4) (p : VPay) : Enc :=
  { w := encV maj vd sa vb k c f, pay := encVPay p, must := p.present }

/-- The word of an instruction (R76–R86), none for an event. -/
def encodeWord : Instr → Option Enc
  | .add d a b => some ⟨encR 0x01 d a b 0x0, 0, false⟩
  | .sub d a b => some ⟨encR 0x01 d a b 0x1, 0, false⟩
  | .mul d a b => some ⟨encR 0x01 d a b 0x2, 0, false⟩
  | .mulh d a b => some ⟨encR 0x01 d a b 0x3, 0, false⟩
  | .mulhu d a b => some ⟨encR 0x01 d a b 0x4, 0, false⟩
  | .div d a b => some ⟨encR 0x01 d a b 0x5, 0, false⟩
  | .divu d a b => some ⟨encR 0x01 d a b 0x6, 0, false⟩
  | .rem d a b => some ⟨encR 0x01 d a b 0x7, 0, false⟩
  | .remu d a b => some ⟨encR 0x01 d a b 0x8, 0, false⟩
  | .and d a b => some ⟨encR 0x01 d a b 0x10, 0, false⟩
  | .or d a b => some ⟨encR 0x01 d a b 0x11, 0, false⟩
  | .xor d a b => some ⟨encR 0x01 d a b 0x12, 0, false⟩
  | .sll d a b => some ⟨encR 0x01 d a b 0x18, 0, false⟩
  | .srl d a b => some ⟨encR 0x01 d a b 0x19, 0, false⟩
  | .sra d a b => some ⟨encR 0x01 d a b 0x1a, 0, false⟩
  | .slt d a b => some ⟨encR 0x01 d a b 0x20, 0, false⟩
  | .sltu d a b => some ⟨encR 0x01 d a b 0x21, 0, false⟩
  | .seq d a b => some ⟨encR 0x01 d a b 0x22, 0, false⟩
  | .min d a b => some ⟨encR 0x01 d a b 0x28, 0, false⟩
  | .max d a b => some ⟨encR 0x01 d a b 0x29, 0, false⟩
  | .minu d a b => some ⟨encR 0x01 d a b 0x2a, 0, false⟩
  | .maxu d a b => some ⟨encR 0x01 d a b 0x2b, 0, false⟩
  | .sel d a b => some ⟨encR 0x01 d a b 0x38, 0, false⟩
  | .clz d a => some ⟨encR 0x01 d a 0 0x30, 0, false⟩
  | .ctz d a => some ⟨encR 0x01 d a 0 0x31, 0, false⟩
  | .popc d a => some ⟨encR 0x01 d a 0 0x32, 0, false⟩
  | .addi d a imm => some (encImmS 0x2 d a imm)
  | .andi d a imm => some (encImmZ 0x3 d a imm)
  | .ori d a imm => some (encImmZ 0x4 d a imm)
  | .xori d a imm => some (encImmZ 0x5 d a imm)
  | .slti d a imm => some (encImmS 0x6 d a imm)
  | .lb d a imm => some (encImmS 0x8 d a imm)
  | .lbu d a imm => some (encImmS 0x9 d a imm)
  | .lh d a imm => some (encImmS 0xa d a imm)
  | .lhu d a imm => some (encImmS 0xb d a imm)
  | .lw d a imm => some (encImmS 0xc d a imm)
  | .lwu d a imm => some (encImmS 0xd d a imm)
  | .ld d a imm => some (encImmS 0xe d a imm)
  | .sb d a imm => some (encImmS 0x10 d a imm)
  | .sh d a imm => some (encImmS 0x11 d a imm)
  | .sw d a imm => some (encImmS 0x12 d a imm)
  | .sd d a imm => some (encImmS 0x13 d a imm)
  | .lih d imm => some (encImmS 0x0F d 0 imm)
  | .slli d a sh => some ⟨encI 0x07 d a ((0#8) ++ (0#2) ++ sh), 0, false⟩
  | .srli d a sh => some ⟨encI 0x07 d a ((0#8) ++ (1#2) ++ sh), 0, false⟩
  | .srai d a sh => some ⟨encI 0x07 d a ((0#8) ++ (2#2) ++ sh), 0, false⟩
  | .amoadd o => some (encAmo 0 o)
  | .amomin o => some (encAmo 1 o)
  | .amomax o => some (encAmo 2 o)
  | .amominu o => some (encAmo 3 o)
  | .amomaxu o => some (encAmo 4 o)
  | .amoand o => some (encAmo 5 o)
  | .amoor o => some (encAmo 6 o)
  | .amoxor o => some (encAmo 7 o)
  | .amoswap o => some (encAmo 8 o)
  | .amocas o => some (encAmo 9 o)
  | .beq a b off => some (encImmS 0x18 a b off)
  | .bne a b off => some (encImmS 0x19 a b off)
  | .blt a b off => some (encImmS 0x1a a b off)
  | .bge a b off => some (encImmS 0x1b a b off)
  | .bltu a b off => some (encImmS 0x1c a b off)
  | .bgeu a b off => some (encImmS 0x1d a b off)
  | .bany m off => some (encImmS 0x1E m 0 off)
  | .ball m off => some (encImmS 0x1E m 1 off)
  | .bnone m off => some (encImmS 0x1E m 2 off)
  | .j off => some (encImmJ 0x20 off)
  | .jal off => some (encImmJ 0x21 off)
  | .loop a sm1 lvl len => some (encImmZ 0x22 a (sm1 ++ lvl) len)
  | .vfetch k off => some (encImmS 0x23 (k ++ (0#2)) 0 off)
  | .vthr k off => some (encImmS 0x23 (k ++ (1#2)) 0 off)
  | .vjoin => some ⟨encI 0x23 2 0 0, 0, false⟩
  | .srr d num => some ⟨encI 0x24 d 0 ((0#4) ++ num), 0, false⟩
  | .srw num a => some ⟨encI 0x25 0 a ((0#4) ++ num), 0, false⟩
  | .vadd o => some (encVBin 0x28 0 o)
  | .vsub o => some (encVBin 0x28 1 o)
  | .vmul o => some (encVBin 0x28 2 o)
  | .vmulh o => some (encVBin 0x28 3 o)
  | .vdiv o => some (encVBin 0x28 4 o)
  | .vrem o => some (encVBin 0x28 5 o)
  | .vmin o => some (encVBin 0x28 6 o)
  | .vmax o => some (encVBin 0x28 7 o)
  | .vand o => some (encVBin 0x28 8 o)
  | .vor o => some (encVBin 0x28 9 o)
  | .vxor o => some (encVBin 0x28 10 o)
  | .vsll o => some (encVBin 0x28 11 o)
  | .vsrl o => some (encVBin 0x28 12 o)
  | .vsra o => some (encVBin 0x28 13 o)
  | .vsadd o => some (encVBin 0x28 14 o)
  | .vssub o => some (encVBin 0x28 15 o)
  | .vfma o => some (encVBin 0x29 0 o)
  | .vfms o => some (encVBin 0x29 1 o)
  | .vfnma o => some (encVBin 0x29 2 o)
  | .vfnms o => some (encVBin 0x29 3 o)
  | .vsqrt o => some (encVUn 0x29 4 o)
  | .vrcpe o => some (encVUn 0x29 5 o)
  | .vrsqe o => some (encVUn 0x29 6 o)
  | .vexp2 o => some (encVUn 0x29 7 o)
  | .vlog2 o => some (encVUn 0x29 8 o)
  | .vabs o => some (encVUn 0x29 9 o)
  | .vneg o => some (encVUn 0x29 10 o)
  | .vnot o => some (encVUn 0x29 11 o)
  | .vclz o => some (encVUn 0x29 12 o)
  | .vpopc o => some (encVUn 0x29 13 o)
  | .vceq o => some (encVBin 0x2A 0 o)
  | .vcne o => some (encVBin 0x2A 1 o)
  | .vclt o => some (encVBin 0x2A 2 o)
  | .vcle o => some (encVBin 0x2A 3 o)
  | .vcgt o => some (encVBin 0x2A 4 o)
  | .vcge o => some (encVBin 0x2A 5 o)
  | .vcun o => some (encVBin 0x2A 6 o)
  | .mand md ma mb => some ⟨encV 0x2A md ma mb 0 0 8, 0, false⟩
  | .mor md ma mb => some ⟨encV 0x2A md ma mb 0 0 9, 0, false⟩
  | .mxor md ma mb => some ⟨encV 0x2A md ma mb 0 0 10, 0, false⟩
  | .mandn md ma mb => some ⟨encV 0x2A md ma mb 0 0 11, 0, false⟩
  | .mnot md ma => some ⟨encV 0x2A md ma 0 0 0 12, 0, false⟩
  | .msbf md ma => some ⟨encV 0x2A md ma 0 0 0 13, 0, false⟩
  | .msif md ma => some ⟨encV 0x2A md ma 0 0 0 14, 0, false⟩
  | .vperm o => some (encVBin 0x2B 0 o)
  | .vslideup o => some (encVSc 0x2B 1 o)
  | .vslidedn o => some (encVSc 0x2B 2 o)
  | .vcompress o => some (encVUn 0x2B 3 o)
  | .vexpand o => some (encVUn 0x2B 4 o)
  | .viota vd k => some ⟨encV 0x2B vd 0 0 k 0 5, 0, false⟩
  | .vmerge o => some (encVBin 0x2B 6 o)
  | .vins vd sa sb => some ⟨encV 0x2B vd sa sb 0 1 7, 0, false⟩
  | .vext sd va sb => some ⟨encV 0x2B sd va sb 0 1 8, 0, false⟩
  | .xch o => some (encVSc 0x2B 9 o)
  | .mpop sd ma => some ⟨encV 0x2B sd ma 0 0 0 10, 0, false⟩
  | .mff1 sd ma => some ⟨encV 0x2B sd ma 0 0 0 11, 0, false⟩
  | .vraddT o => some (encVSc 0x2C 0 o)
  | .vraddO o => some (encVSc 0x2C 1 o)
  | .vrminT o => some (encVSc 0x2C 2 o)
  | .vrminO o => some (encVSc 0x2C 3 o)
  | .vrmaxT o => some (encVSc 0x2C 4 o)
  | .vrmaxO o => some (encVSc 0x2C 5 o)
  | .vrand o => some (encVSc 0x2C 6 o)
  | .vror o => some (encVSc 0x2C 7 o)
  | .vrxor o => some (encVSc 0x2C 8 o)
  | .vcvt o tag => some ⟨encV 0x2D o.vd o.va tag o.k 0 0, 0, false⟩
  | .vsetl sd sa => some ⟨encV 0x2E sd sa 0 0 0 0, 0, false⟩
  | .vmt sa => some ⟨encV 0x2E 0 sa 0 0 0 1, 0, false⟩
  | .vcfg first last tag gc cb => some ⟨(0x30#6) ++ first ++ last ++ tag ++ gc ++ cb ++ (0#4), 0, false⟩
  | .vld o => some (encVMem 0x31 o.vd o.sa 0 o.k 0 0 o.p)
  | .vldFf o => some (encVMem 0x31 o.vd o.sa 0 o.k 0 3 o.p)
  | .vldO o => some (encVMem 0x31 o.vd o.sa 0 o.k 0 4 o.p)
  | .vldS o => some (encVMem 0x31 o.vd o.sa o.sb o.k 1 1 o.p)
  | .vldSo o => some (encVMem 0x31 o.vd o.sa o.sb o.k 1 5 o.p)
  | .vldX o => some (encVMem 0x31 o.vd o.sa o.vb o.k 0 2 o.p)
  | .vldXo o => some (encVMem 0x31 o.vd o.sa o.vb o.k 0 6 o.p)
  | .vst o => some (encVMem 0x32 o.vd o.sa 0 o.k 0 0 o.p)
  | .vstO o => some (encVMem 0x32 o.vd o.sa 0 o.k 0 4 o.p)
  | .vstS o => some (encVMem 0x32 o.vd o.sa o.sb o.k 1 1 o.p)
  | .vstSo o => some (encVMem 0x32 o.vd o.sa o.sb o.k 1 5 o.p)
  | .vstX o => some (encVMem 0x32 o.vd o.sa o.vb o.k 0 2 o.p)
  | .vstXo o => some (encVMem 0x32 o.vd o.sa o.vb o.k 0 6 o.p)
  | .vamoAdd o => some (encVMem 0x33 o.vd o.sa o.vb o.k 0 0 o.p)
  | .vamoMin o => some (encVMem 0x33 o.vd o.sa o.vb o.k 0 1 o.p)
  | .vamoMax o => some (encVMem 0x33 o.vd o.sa o.vb o.k 0 2 o.p)
  | .vamoAnd o => some (encVMem 0x33 o.vd o.sa o.vb o.k 0 3 o.p)
  | .vamoOr o => some (encVMem 0x33 o.vd o.sa o.vb o.k 0 4 o.p)
  | .vamoXor o => some (encVMem 0x33 o.vd o.sa o.vb o.k 0 5 o.p)
  | .vamoSwap o => some (encVMem 0x33 o.vd o.sa o.vb o.k 0 6 o.p)
  | .vscadd o => some (encVMem 0x33 o.vd o.sa o.vb o.k 0 8 o.p)
  | .bxld md sa vb p => some (encVMem 0x33 md sa vb 0 0 12 p)
  | .capp sa k p => some (encVMem 0x33 0 sa 0 k 0 13 p)
  | .mma vd x y k => some ⟨encM vd x y k 0x00, 0, false⟩
  | .mmax vd x va vi k => some ⟨encM vd x 0 k 0x01, va ++ vi ++ (0#10), true⟩
  | .mmab vd x y sl k => some ⟨encM vd x y k 0x02, sl ++ (0#17), true⟩
  | .mclaim sa x => some ⟨encM sa x 0 0 0x10, 0, false⟩
  | .mrel x => some ⟨encM 0 x 0 0 0x11, 0, false⟩
  | .mldt sa x => some ⟨encM sa x 0 0 0x12, 0, false⟩
  | .cbld sa cb => some ⟨encM sa cb 0 0 0x13, 0, false⟩
  | .barinit a b => some ⟨encR 0x3B 0 a b 0x001, 0, false⟩
  | .bararr a => some ⟨encR 0x3B 0 a 0 0x002, 0, false⟩
  | .barwait a => some ⟨encR 0x3B 0 a 0 0x003, 0, false⟩
  | .barwaitA a => some ⟨encR 0x3B 0 a 0 0x004, 0, false⟩
  | .launch a b => some ⟨encR 0x3B 0 a b 0x010, 0, false⟩
  | .xcfg a ch => some ⟨encR 0x3B 0 a ch 0x020, 0, false⟩
  | .xtid d ch => some ⟨encR 0x3B d 0 ch 0x021, 0, false⟩
  | .xwait a ch => some ⟨encR 0x3B 0 a ch 0x022, 0, false⟩
  | .dsend d a => some ⟨encR 0x3B d a 0 0x030, 0, false⟩
  | .dpull a b => some ⟨encR 0x3B 0 a b 0x031, 0, false⟩
  | .ddrop a => some ⟨encR 0x3B 0 a 0 0x032, 0, false⟩
  | .dresend d a b => some ⟨encR 0x3B d a b 0x033, 0, false⟩
  | .dlstat d a => some ⟨encR 0x3B d a 0 0x034, 0, false⟩
  | .trap code => some ⟨(0x3C#6) ++ (0#5) ++ code ++ (0x001#11), 0, false⟩
  | .eret => some ⟨encR 0x3C 0 0 0 0x002, 0, false⟩
  | .brk code => some ⟨(0x3C#6) ++ (0#5) ++ code ++ (0x003#11), 0, false⟩
  | .wait => some ⟨encR 0x3C 0 0 0 0x004, 0, false⟩
  | .uiret => some ⟨encR 0x3C 0 0 0 0x005, 0, false⟩
  | .jalr d a => some ⟨encR 0x3C d a 0 0x006, 0, false⟩
  | .fence scope ord ty => some ⟨(0x3C#6) ++ (0#5) ++ scope ++ ord ++ ty ++ (0#3) ++ (0x010#11), 0, false⟩
  | .xfence src dst scope => some ⟨(0x3C#6) ++ src ++ dst ++ scope ++ (0#6) ++ (0x011#11), 0, false⟩
  | .rdharm d a b => some ⟨encR 0x3C d a b 0x020, 0, false⟩
  | .rdimb d a => some ⟨encR 0x3C d a 0 0x021, 0, false⟩
  | .rdsamp d a => some ⟨encR 0x3C d a 0 0x022, 0, false⟩
  | .hclr a => some ⟨encR 0x3C 0 a 0 0x028, 0, false⟩
  | .setwash a => some ⟨encR 0x3C 0 a 0 0x029, 0, false⟩
  | _ => none

/-- A prefix word (R87). -/
def encPrefix (stg : BitVec 4) (pay : BitVec 22) : W32 := (0x3F#6) ++ stg ++ pay

/-- Words of an encoded instruction: a pair when the payload or the stage needs one (R87, R369). -/
def Enc.words (e : Enc) (stg : BitVec 4) : List W32 :=
  if e.must || stg != 0 then [encPrefix stg e.pay, e.w] else [e.w]

/-- The words of an instruction under stage field `stg`; an event has none. -/
def encode (i : Instr) (stg : BitVec 4) : List W32 :=
  match encodeWord i with
  | some e => e.words stg
  | none => []

/-- One fetch unit from a list of words. -/
def decode : List W32 → Except DecErr FetchUnit
  | [] => .error .short
  | w :: rest => decodeUnit w rest.head?

end Sys2Proof
end

