-- ==== Sys2Proof/Machine/Flow.lean ====
section
/-! DEFINITION. Branches, jumps, loops and lane threads: majors 0x18 to 0x23 and jalr (R99–R109). -/

namespace Sys2Proof.Machine

/-! ## Fetching a word -/

/-- A word fetched, a wait, or a fault. -/
inductive FetchOut where
  | word (s : State) (w : W32)
  | out (s : State)
  | fault (s : State) (cause : Nat) (migw : Bool)

/-- One word of an instruction fetch (R270). -/
def State.fetchWord (s : State) (a : W64) : FetchOut :=
  match s.access s.cur s.who (!s.th.sup) .fetch (scalarTarget s.partyCore a) 4 (.read none) with
  | .at flat _ => .word (s.accessReqs (coreOf s.cur) s.ownKey flat 4 false none) (BitVec.ofNat 32 (s.load flat 4))
  | .replied _ => .fault s cPROT false
  | .missed => .fault s cPROT false
  | .fault c m s => .fault s c m
  | .stall h s => .out (s.holdOn h)

/-! ## Branches and jumps -/

/-- The target of an offset in words from the fetch unit being run (R99). -/
def State.targetOf (s : State) (off : W64) : W64 := s.th.fu.addr + off <<< 2

/-- A conditional branch (R99). -/
def State.branch (s : State) (taken : Bool) (off : BitVec 38) : State :=
  if taken then s.jump (s.targetOf (off.signExtend 64)) else s.advance

/-- BEQ (R99). -/
def execBeq (a b : SReg) (off : BitVec 38) (s : State) : Host.Outcome State Fault Refusal :=
  .next (s.branch (s.getS a == s.getS b) off)
/-- BNE (R99). -/
def execBne (a b : SReg) (off : BitVec 38) (s : State) : Host.Outcome State Fault Refusal :=
  .next (s.branch (s.getS a != s.getS b) off)
/-- BLT (R99). -/
def execBlt (a b : SReg) (off : BitVec 38) (s : State) : Host.Outcome State Fault Refusal :=
  .next (s.branch ((s.getS a).slt (s.getS b)) off)
/-- BGE (R99). -/
def execBge (a b : SReg) (off : BitVec 38) (s : State) : Host.Outcome State Fault Refusal :=
  .next (s.branch (!(s.getS a).slt (s.getS b)) off)
/-- BLTU (R99). -/
def execBltu (a b : SReg) (off : BitVec 38) (s : State) : Host.Outcome State Fault Refusal :=
  .next (s.branch ((s.getS a).ult (s.getS b)) off)
/-- BGEU (R99). -/
def execBgeu (a b : SReg) (off : BitVec 38) (s : State) : Host.Outcome State Fault Refusal :=
  .next (s.branch (!(s.getS a).ult (s.getS b)) off)

/-- J (R100). -/
def execJ (off : BitVec 48) (s : State) : Host.Outcome State Fault Refusal := .next (s.jump (s.targetOf (off.signExtend 64)))
/-- JAL (R100). -/
def execJal (off : BitVec 48) (s : State) : Host.Outcome State Fault Refusal :=
  .next ((s.setS 1 s.th.fu.nextAddr).jump (s.targetOf (off.signExtend 64)))
/-- JALR (R100). -/
def execJalr (d a : SReg) (s : State) : Host.Outcome State Fault Refusal :=
  let t := s.getS a
  .next <| if t.toNat % 4 != 0 then s.trap cMISALIGN 0 t else (s.setS d s.th.fu.nextAddr).jump t

/-! ## Mask branches (R101) -/

/-- The bits of a mask below VL. -/
def testedBits (v : VecState) (m : Nat) : List Bool := (List.range v.vl).map (maskBit v v.members m)

/-- A mask branch, once the writers of its mask have completed. -/
def State.maskBranch (s : State) (m : SReg) (off : BitVec 38) (taken : List Bool → Bool) : State :=
  if 8 ≤ m.toNat then s.illReg fA m.toNat
  else if s.th.pipe.any (·.writesMask m.toNat) then s.holdOn .none
  else s.branch (taken (testedBits s.th.v m.toNat)) off

/-- BANY (R101). -/
def execBany (m : SReg) (off : BitVec 38) (s : State) : Host.Outcome State Fault Refusal :=
  .next (s.maskBranch m off fun l => l.any id)
/-- BALL (R101). -/
def execBall (m : SReg) (off : BitVec 38) (s : State) : Host.Outcome State Fault Refusal :=
  .next (s.maskBranch m off fun l => l.all id)
/-- BNONE (R101). -/
def execBnone (m : SReg) (off : BitVec 38) (s : State) : Host.Outcome State Fault Refusal :=
  .next (s.maskBranch m off fun l => !l.any id)

/-! ## Loops (R102) -/

/-- The address after a loop body of `len` words. -/
def State.loopEndAt (s : State) (len : Imm) : W64 := s.th.fu.nextAddr + (len.zeroExtend 64 <<< 2)

/-- Sequential flow to the end of a loop body that is not entered (R102, R104). -/
def State.skipTo (s : State) (e : W64) : State := s.mod fun t => { t.seqTo e with hold := .none }

/-- LOOP (R102). -/
def execLoop (a : SReg) (sm1 : BitVec 3) (lvl : BitVec 2) (len : Imm) (s : State) : Host.Outcome State Fault Refusal :=
  let b := s.th.fu.nextAddr
  let e := s.loopEndAt len
  let n := (s.getS a).toNat
  .next <|
    if s.th.loops.any fun r => decide (lvl.toNat ≤ r.l) then s.trap cCTLSTATE 1
    else if (s.th.loops.head?.map fun r => decide (r.e.toNat < e.toNat)).getD false then s.trap cCTLSTATE 2
    else if n == 0 then s.skipTo e
    else s.mod fun t => { t with
      loops := { b, e, t := n, s := sm1.toNat + 1, n := n + sm1.toNat, l := lvl.toNat, i := 0 } :: t.loops
      pc := b
      hold := .none }

/-! ## Lane threads -/

/-- The fetch record of a start at `target`, with what is captured at routing (R107, R50). -/
def fetchAt (t : Thread) (target : W64) (len : Option Nat) (k : MReg) : FetchRec :=
  { target
    block := len.isSome
    stop := target + BitVec.ofNat 64 (4 + 4 * len.getD 0)
    k := k.toNat
    vl := t.v.vl
    tags := (List.range 32).map (tagOf t.v)
    dist := t.v.members
    started := false
    lanes := [] }

/-- Hands a fetch over (R107): the front goes on; the lane threads start once the older entries have completed. -/
def State.handFetch (s : State) (f : FetchRec) : State :=
  let s := (s.mod fun t => { t with fetch := some f }).advance
  if s.lockstep then s.startFetch s.cur else s.later (.laneThreadStart s.cur)

/-- The header at a vfetch's target, with its body length, or how the turn ends without one: check 5 of R91 (R107). -/
inductive HeaderOut where
  | header (s : State) (len : Nat)
  | out (s : State)

/-- Reads the header at a vfetch's target (R107, R91). -/
def State.header (s : State) (off : BitVec 38) : HeaderOut :=
  let target := s.targetOf (off.signExtend 64)
  match s.fetchWord target with
  | .out s => .out s
  | .fault s' c m => .out (if s.th.canStop then s'.accessFault c 0 target 0 2 m else s.holdOn .none)
  | .word s w => match headerLen w with
    | none => .out (s.trap cILLOP 5)
    | some n => .header s n

/-- VFETCH (R107). -/
def execVfetch (k : MReg) (off : BitVec 38) (s : State) : Host.Outcome State Fault Refusal :=
  .next <| match s.header off with
    | .out s => s
    | .header s n =>
      if s.th.fetch.isSome then s.holdOn .join else s.handFetch (fetchAt s.th (s.targetOf (off.signExtend 64)) (some n) k)

/-- VTHR (R108). -/
def execVthr (k : MReg) (off : BitVec 38) (s : State) : Host.Outcome State Fault Refusal :=
  .next <| if s.th.fetch.isSome then s.holdOn .join else s.handFetch (fetchAt s.th (s.targetOf (off.signExtend 64)) none k)

/-- VJOIN (R107, R109): a lane thread joins; the control thread waits for its fetch. -/
def execVjoin (s : State) : Host.Outcome State Fault Refusal :=
  .next <| match s.lane with
    | some vp => s.mod fun t => t.modLane vp fun _ => none
    | none => if s.th.fetch.isSome then s.holdOn .join else s.advance

/-- LANE_THREAD_START (R107): the lane threads of a fetch start once the older entries of both queues have completed. -/
def execLaneThreadStart (k : ThreadKey) (s : State) : Host.Outcome State Fault Refusal := .next (s.startFetch k)

end Sys2Proof.Machine
end

