-- ==== Sys2Proof/Machine/VArith.lean ====
section
/-! DEFINITION. Vector arithmetic: majors 0x28 and 0x29 (R132–R137). -/

namespace Sys2Proof.Machine

/-- The scalar a 6-bit field names, captured at routing (R30, R74). -/
def Thread.scalar6 (t : Thread) (v : VReg) : W64 := getScalar t none (v.toNat % 32)

/-- The operations of major 0x28 that float tags take too (R132). -/
def BinK.anyTag : BinK → Bool
  | .add | .sub | .mul | .div | .min | .max => true
  | _ => false
/-- The tags an operation of major 0x28 takes (R132). -/
def BinK.takes (o : BinK) (t : ETag) : Bool := t.isInt || (o.anyTag && t.isIeee)
/-- The tags a unary operation takes (R132). -/
def UnK.takes (o : UnK) (t : ETag) : Bool :=
  match o with
  | .abs | .neg => t.isInt || t.isIeee
  | .not | .clz | .popc => t.isInt
  | _ => t.isIeee

/-- The entry of a two-source compute word. -/
def Thread.binEntry (t : Thread) (op : VOp) (w : VBin) (ta tb td : ETag) : Entry :=
  { t.entry op with
    d := w.vd.toNat, a := w.va.toNat, b := w.vb.toNat, k := w.k.toNat, c := w.c, inExe := true
    capB := if w.c then t.scalar6 w.vb else 0, tagA := ta, tagB := tb, tagD := td }

/-- Sources of a two-source word. -/
def binSources (w : VBin) : List Nat := if w.c then [w.va.toNat] else [w.va.toNat, w.vb.toNat]
/-- The queue a destination names. -/
def pushOf (d : VReg) : Option Nat := if isQ d.toNat then some d.toNat else none
/-- Reason 2 over the operands of a two-source word. DESIGN CHOICE (log entry 52): vd, then va, then vb. -/
def binGroups (w : VBin) (gc : Nat) : List (Option (Nat × Nat)) :=
  [ckGroup gc w.vd.toNat, ckGroup gc w.va.toNat, if w.c then none else ckGroup gc w.vb.toNat]
/-- Reason 9 over the operands of a two-source word, in the same order. -/
def binCaps (w : VBin) (v : VecState) (ta tb td : ETag) : List (Option (Nat × Nat)) :=
  [ckCap v.gc v.members v.vl w.vd.toNat td, ckCap v.gc v.members v.vl w.va.toNat ta,
   if w.c then none else ckCap v.gc v.members v.vl w.vb.toNat tb]
/-- Check 7 on a two-source word (R83). -/
def binCk (w : VBin) (dst : VReg → Bool) : Option (Nat × Nat) :=
  firstBad [ckD dst w.vd, ckA isVSrc w.va, ckB (if w.c then isScalar6 else isVSrc) w.vb]

/-- Routing of major 0x28 (R132). -/
def binRouting (o : BinK) (w : VBin) (t : Thread) : Routing :=
  let ta := t.srcTag w.va.toNat
  let tb := if w.c then ta else t.srcTag w.vb.toNat
  let td := (t.dstTag w.vd.toNat).getD ta
  { bad := binCk w isVDst
    pops := popsOf (binSources w)
    push := pushOf w.vd
    pushTag := ta
    typ := firstSome (binGroups w t.v.gc ++ [ckShare ta [some tb], ckImpl (o.takes ta) ta, ckDest ta (t.dstTag w.vd.toNat)]
      ++ binCaps w t.v ta tb td)
    ent := t.binEntry (.bin o) w ta tb td }

/-- Routing of the fused forms (R132, R135). -/
def fmaRouting (np nd : Bool) (w : VBin) (t : Thread) : Routing :=
  let ta := t.srcTag w.va.toNat
  let tb := if w.c then ta else t.srcTag w.vb.toNat
  let td := tagOf t.v w.vd.toNat
  { bad := binCk w isVPlain
    pops := popsOf (binSources w)
    typ := firstSome (binGroups w t.v.gc ++ [ckShare ta [some tb, some td], ckImpl (ta.isInt || ta.isIeee) ta]
      ++ binCaps w t.v ta tb td)
    ent := t.binEntry (.fma np nd) w ta tb td }

/-- The entry of a one-source word. -/
def Thread.unEntry (t : Thread) (op : VOp) (w : VUn) (ta td : ETag) : Entry :=
  { t.entry op with d := w.vd.toNat, a := w.va.toNat, k := w.k.toNat, inExe := true, tagA := ta, tagD := td, tagB := ta }

/-- Routing of the unary forms of major 0x29 (R132). -/
def unRouting (o : UnK) (w : VUn) (t : Thread) : Routing :=
  let ta := t.srcTag w.va.toNat
  let td := (t.dstTag w.vd.toNat).getD ta
  { bad := firstBad [ckD isVDst w.vd, ckA isVSrc w.va]
    pops := popsOf [w.va.toNat]
    push := pushOf w.vd
    pushTag := ta
    typ := firstSome [ckGroup t.v.gc w.vd.toNat, ckGroup t.v.gc w.va.toNat, ckImpl (o.takes ta) ta,
      ckDest ta (t.dstTag w.vd.toNat), ckCap t.v.gc t.v.members t.v.vl w.vd.toNat td,
      ckCap t.v.gc t.v.members t.v.vl w.va.toNat ta]
    ent := t.unEntry (.un o) w ta td }

/-- VADD (R133). -/
def execVadd (o : VBin) (s : State) : Host.Outcome State Fault Refusal := .next (s.route (binRouting .add o s.th))
/-- VSUB (R133). -/
def execVsub (o : VBin) (s : State) : Host.Outcome State Fault Refusal := .next (s.route (binRouting .sub o s.th))
/-- VMUL (R133). -/
def execVmul (o : VBin) (s : State) : Host.Outcome State Fault Refusal := .next (s.route (binRouting .mul o s.th))
/-- VMULH (R133). -/
def execVmulh (o : VBin) (s : State) : Host.Outcome State Fault Refusal := .next (s.route (binRouting .mulh o s.th))
/-- VDIV (R133). -/
def execVdiv (o : VBin) (s : State) : Host.Outcome State Fault Refusal := .next (s.route (binRouting .div o s.th))
/-- VREM (R133). -/
def execVrem (o : VBin) (s : State) : Host.Outcome State Fault Refusal := .next (s.route (binRouting .rem o s.th))
/-- VMIN (R133). -/
def execVmin (o : VBin) (s : State) : Host.Outcome State Fault Refusal := .next (s.route (binRouting .min o s.th))
/-- VMAX (R133). -/
def execVmax (o : VBin) (s : State) : Host.Outcome State Fault Refusal := .next (s.route (binRouting .max o s.th))
/-- VAND (R133). -/
def execVand (o : VBin) (s : State) : Host.Outcome State Fault Refusal := .next (s.route (binRouting .and o s.th))
/-- VOR (R133). -/
def execVor (o : VBin) (s : State) : Host.Outcome State Fault Refusal := .next (s.route (binRouting .or o s.th))
/-- VXOR (R133). -/
def execVxor (o : VBin) (s : State) : Host.Outcome State Fault Refusal := .next (s.route (binRouting .xor o s.th))
/-- VSLL (R133). -/
def execVsll (o : VBin) (s : State) : Host.Outcome State Fault Refusal := .next (s.route (binRouting .sll o s.th))
/-- VSRL (R133). -/
def execVsrl (o : VBin) (s : State) : Host.Outcome State Fault Refusal := .next (s.route (binRouting .srl o s.th))
/-- VSRA (R133). -/
def execVsra (o : VBin) (s : State) : Host.Outcome State Fault Refusal := .next (s.route (binRouting .sra o s.th))
/-- VSADD (R133). -/
def execVsadd (o : VBin) (s : State) : Host.Outcome State Fault Refusal := .next (s.route (binRouting .sadd o s.th))
/-- VSSUB (R133). -/
def execVssub (o : VBin) (s : State) : Host.Outcome State Fault Refusal := .next (s.route (binRouting .ssub o s.th))
/-- VFMA (R135). -/
def execVfma (o : VBin) (s : State) : Host.Outcome State Fault Refusal := .next (s.route (fmaRouting false false o s.th))
/-- VFMS (R135). -/
def execVfms (o : VBin) (s : State) : Host.Outcome State Fault Refusal := .next (s.route (fmaRouting false true o s.th))
/-- VFNMA (R135). -/
def execVfnma (o : VBin) (s : State) : Host.Outcome State Fault Refusal := .next (s.route (fmaRouting true true o s.th))
/-- VFNMS (R135). -/
def execVfnms (o : VBin) (s : State) : Host.Outcome State Fault Refusal := .next (s.route (fmaRouting true false o s.th))
/-- VSQRT (R134). -/
def execVsqrt (o : VUn) (s : State) : Host.Outcome State Fault Refusal := .next (s.route (unRouting .sqrt o s.th))
/-- VRCPE (R136). -/
def execVrcpe (o : VUn) (s : State) : Host.Outcome State Fault Refusal := .next (s.route (unRouting .rcpe o s.th))
/-- VRSQE (R136). -/
def execVrsqe (o : VUn) (s : State) : Host.Outcome State Fault Refusal := .next (s.route (unRouting .rsqe o s.th))
/-- VEXP2 (R137). -/
def execVexp2 (o : VUn) (s : State) : Host.Outcome State Fault Refusal := .next (s.route (unRouting .exp2 o s.th))
/-- VLOG2 (R137). -/
def execVlog2 (o : VUn) (s : State) : Host.Outcome State Fault Refusal := .next (s.route (unRouting .log2 o s.th))
/-- VABS (R133, R134). -/
def execVabs (o : VUn) (s : State) : Host.Outcome State Fault Refusal := .next (s.route (unRouting .abs o s.th))
/-- VNEG (R133, R134). -/
def execVneg (o : VUn) (s : State) : Host.Outcome State Fault Refusal := .next (s.route (unRouting .neg o s.th))
/-- VNOT (R133). -/
def execVnot (o : VUn) (s : State) : Host.Outcome State Fault Refusal := .next (s.route (unRouting .not o s.th))
/-- VCLZ (R133). -/
def execVclz (o : VUn) (s : State) : Host.Outcome State Fault Refusal := .next (s.route (unRouting .clz o s.th))
/-- VPOPC (R133). -/
def execVpopc (o : VUn) (s : State) : Host.Outcome State Fault Refusal := .next (s.route (unRouting .popc o s.th))

end Sys2Proof.Machine
end

