-- ==== Sys2Proof/Machine/VConfig.lean ====
section
/-! DEFINITION. vsetl, vmt and vcfg (R123–R127), with the relocation of R126. -/

namespace Sys2Proof.Machine

/-! ## Distribution (R125) -/

/-- Elements of `t` that a member's operand holds. -/
def memberCap (gc : Nat) (t : ETag) (m : Member) : Nat := memberBits gc m / t.bits

/-- The attached members' numbers by ascending capacity, ties by ascending number. -/
def visitOrder (caps : List (Nat × Nat)) : List (Nat × Nat) :=
  caps.foldl (fun acc x => (acc.filter fun y => decide (y.2 ≤ x.2)) ++ [x] ++ acc.filter fun y => !decide (y.2 ≤ x.2)) []

/-- Shares of `rem` elements over members visited in order: (member, elements). -/
def shareOut : List (Nat × Nat) → Nat → List (Nat × Nat)
  | [], _ => []
  | (m, cap) :: rest, rem =>
    let g := min cap (cdiv rem (rest.length + 1))
    (m, g) :: shareOut rest (rem - g)

/-- The members with their grants for a request. -/
def distribute (gc : Nat) (t : ETag) (ms : List Member) (req : Nat) : List Member × Nat :=
  let caps := (ms.zipIdx.filter (·.1.attached)).map fun p => (p.2, memberCap gc t p.1)
  let grant := min req ((caps.map (·.2)).foldl (· + ·) 0)
  let gs := shareOut (visitOrder caps) grant
  (ms.zipIdx.map fun p => { p.1 with grant := ((gs.find? fun g => g.1 == p.2).map (·.2)).getD 0 }, grant)

/-! ## Relocation (R126) -/

/-- The lane share LPART gives a member. -/
def State.lgOf (s : State) (m : Member) : Nat := (s.core m.core).lg.getD m.tid 0

/-- Whether a vsetl changes a lane share or the span's membership. -/
def shareChanges (s : State) (ms : List Member) : Bool :=
  ms.any fun m => m.mark.isSome || (m.attached && s.lgOf m != m.share)

/-- A member after the change. -/
def changedMember (s : State) (m : Member) : Member :=
  match m.mark with
  | some false => { m with attached := false, mark := none, nw := 0, grant := 0, share := 0 }
  | some true => { m with attached := true, mark := none, lost := false, share := s.lgOf m, nw := 8 * s.lgOf m }
  | none => if m.attached then { m with share := s.lgOf m, nw := 8 * s.lgOf m } else m

/-- The element space of a register group on a member, as a number. -/
def groupNat (v : VecState) (m n nw : Nat) : Nat → Nat
  | 0 => 0
  | g + 1 => (v.vregs.get 0 (32 * m + n)).toNat % 2 ^ (nw * 512) + 2 ^ (nw * 512) * groupNat v m (n + 1) nw g

/-- Lays an element space over the registers of a group. -/
def putGroupNat (v : VecState) (m n nw x : Nat) : Nat → VecState
  | 0 => v
  | g + 1 =>
    putGroupNat { v with vregs := v.vregs.put (32 * m + n) (BitVec.ofNat 32768 (x % 2 ^ (nw * 512))) } m (n + 1) nw (x / 2 ^ (nw * 512)) g

/-- Relocates one register group of a member. -/
def moveGroup (g m old new : Nat) (v : VecState) (n : Nat) : VecState :=
  putGroupNat v m n new (groupNat v m n old g % 2 ^ (g * min old new * 512)) g

/-- Relocates a member's registers and masks; a member that leaves or joins ends with zeros. -/
def moveMember (gc : Nat) (v : VecState) (m : Nat) (old new : Member) : VecState :=
  let g := gOf gc
  let keep := if old.attached && new.attached then 1 else 0
  let o := keep * old.nw
  let v := ((List.range (32 / g)).map (· * g)).foldl (moveGroup g m o new.nw) v
  let cap := g * min o new.nw * 128
  (List.range 7).foldl (fun v k => { v with masks := v.masks.upd 0 (8 * m + k + 1) fun b => b % 2 ^ cap }) v

/-- The first global index of member `m`'s block. -/
def blockStart (ms : List Member) (m : Nat) : Nat :=
  ((ms.take m).filter (·.attached)).foldl (fun a x => a + x.grant) 0

/-- Where element `i` of a queue entry goes; none when it is lost. -/
def moveIndex (gc : Nat) (t : ETag) (old new : List Member) (i : Nat) : Option Nat :=
  let (m, j) := locate old 0 i
  match new[m]? with
  | none => none
  | some x =>
    if !x.attached then none
    else if new.length == 1 then if j < memberCap gc t x then some j else none
    else if j < x.grant then some (blockStart new m + j) else none

/-- Relocates a queue entry. -/
def moveEntry (gc : Nat) (old new : List Member) (x : VEntry) : VEntry :=
  let l := ((List.range x.n).filter (bit x.act)).filterMap fun i =>
    (moveIndex gc x.tag old new i).map fun j => (j, x.data / 2 ^ (i * x.tag.bits) % 2 ^ x.tag.bits)
  { x with n := l.foldl (fun a p => max a (p.1 + 1)) x.n
           data := l.foldl (fun a p => setBits a (p.1 * x.tag.bits) x.tag.bits p.2) 0
           act := l.foldl (fun a p => setBit a p.1 true) 0 }

/-- Every register of each attached member dirty to its full capacity (R217). -/
def fullDirty (ms : List Member) : Tab Nat :=
  ms.zipIdx.foldl (fun d p => if p.1.attached then (List.range 32).foldl (fun d n => d.put (32 * p.2 + n) (p.1.nw * 64)) d else d) []

/-- The vector state after a relocation: every register dirty to its full capacity (R217). -/
def relocate (v : VecState) (new : List Member) : VecState :=
  let old := v.members
  let v := ((old.zip new).zipIdx).foldl (fun v p => moveMember v.gc v p.2 p.1.1 p.1.2) v
  { v with
    queues := v.queues.mapV fun _ l => l.map (moveEntry v.gc old new)
    dirty := fullDirty new
    members := new }

/-- Frees the core of each member that leaves (R245); a member that joins holds its core since it was marked (R246). -/
def State.moveCores (s : State) (k : ThreadKey) (new : List Member) : State :=
  let old := (s.thOf k).v.members
  let gone := (old.zip new).filterMap fun p => if p.1.attached && !p.2.attached then some p.1 else none
  if gone.isEmpty then s
  else
    let s := gone.foldl (fun s m => ((s.modCore m.core fun c => { c with lg := c.lg.set m.tid 0 }).ungrant (4 * m.core + m.tid)).setTh
      (4 * m.core + m.tid) {}) s
    match (s.thOf k).group with
    | none => s
    | some g =>
      (s.modGrp g fun x => { x with mems := x.mems.filter fun p => !gone.any fun m => m.core == p.1 }).later
        (.placeGroup (s.thOf k).part)

/-- ChangeShare of R125: the relocation, which then stands at the gates of its members (R126). -/
def State.changeShare (s : State) (k : ThreadKey) (req : Nat) : State :=
  let v := (s.thOf k).v
  let new := (distribute v.gc v.ltag (v.members.map (changedMember s)) req).1
  let need := (v.members.zip new).filterMap fun p =>
    if p.2.attached then some (4 * p.2.core + p.2.tid, max p.1.nw p.2.nw) else none
  let s := s.moveCores k new
  let s := s.modTh k fun t => { t with v := relocate t.v new, reloc := need }
  if s.lockstep then s.passReloc k else s.gateArrivals k

/-- Counts a vsetl toward the pacing of the thread's transfers (R295). -/
def Chan.paced (c : Chan) : Chan := { c with xfers := c.xfers.map fun x => if x.lead == 0 then x else { x with pace := x.pace + 1 } }

/-- The request, the distribution and sd (R125). -/
def State.setLength (s : State) (sd sa : VReg) : State :=
  let t := s.th
  let req := (t.scalar6 sa).toNat
  let (ms, grant) := distribute t.v.gc t.v.ltag t.v.members req
  let bytes := ((attached ms).map fun m => memberBits t.v.gc m / 8).foldl (· + ·) 0
  let s := s.mod fun t => setScalar { t with
    ch0 := t.ch0.paced
    ch1 := t.ch1.paced
    v := { t.v with members := ms, vl := grant, vlgrant := grant, maxBytes := bytes, maxNw := nwOf ms 0 } }
    none (sd.toNat % 32) (BitVec.ofNat 64 grant)
  let s := if t.ch0.xfers.any (·.lead != 0) then s.later (.stripStart s.cur 0) else s
  let s := if t.ch1.xfers.any (·.lead != 0) then s.later (.stripStart s.cur 1) else s
  s.advance

/-- VSETL (R125, R126). -/
def execVsetl (sd sa : VReg) (s : State) : Host.Outcome State Fault Refusal :=
  .next <| match firstBad [ckD isScalar6 sd, ckA isScalar6 sa] with
    | some (f, x) => s.illReg f x
    | none =>
      if shareChanges s s.th.v.members then
        if !s.th.pipe.isEmpty || !s.th.reloc.isEmpty || s.th.fetch.isSome then s.holdOn .none else (s.changeShare s.cur (s.th.scalar6 sa).toNat).setLength sd sa
      else s.setLength sd sa

/-- VMT (R127). -/
def execVmt (sa : VReg) (s : State) : Host.Outcome State Fault Refusal :=
  .next <| match firstBad [ckA isScalar6 sa] with
    | some (f, x) => s.illReg f x
    | none => s.writeReg 0x010 (s.th.scalar6 sa)

/-- VCFG (R123). -/
def execVcfg (first last : SReg) (tag : BitVec 6) (gc : BitVec 2) (cb : BitVec 4) (s : State) : Host.Outcome State Fault Refusal :=
  .next <| match tagOfCode tag.toNat with
    | none => s.trap cILLTYPE (typeDetail 1 tag.toNat).2
    | some g =>
      (s.mod fun t => { t with v := { t.v with
        tags := ((List.range (last.toNat + 1 - first.toNat)).map (first.toNat + ·)).foldl (fun a n => a.put n g) t.v.tags
        gc := gc.toNat, cb := cb.toNat, ltag := g } }).advance

end Sys2Proof.Machine
end

