-- ==== Sys2Proof/Machine/Group.lean ====
section
/-! DEFINITION. The group dispatcher and the slice scheduler: placement, load, save, retirement, pre-emption (R211–R218,
R234–R250). -/

namespace Sys2Proof.Machine

/-! ## What a partition and a core have free (R236) -/

/-- The package core numbers of a partition's clusters, ascending. -/
def PartSt.cores (p : PartSt) : List Nat :=
  (((List.range 48).filter p.clusters.contains).map fun k => (List.range 32).map (32 * k + ·)).flatten
/-- The compute dies on which a partition holds clusters. -/
def PartSt.dies (p : PartSt) : List Nat := (List.range 4).filter fun d => p.clusters.any fun k => k / 12 == d

/-- Whether a group in this state holds its cores' resources (R240). -/
def GState.holds : GState → Bool
  | .loading | .loaded | .stopping => true
  | _ => false
/-- The groups that hold resources of a core. -/
def State.holding (s : State) (c : Nat) : List Group := s.groups.filter fun g => g.st.holds && g.mems.any (·.1 == c)
/-- A free control thread of a core; one whose exited group's strips run on is not free. -/
def State.freeTid (s : State) (c : Nat) : Option Nat :=
  (List.range 4).find? fun t => (s.thOf (4 * c + t)).exitedOf.isNone && (s.holding c).all fun g => !g.mems.contains (c, t)
/-- Lane groups of a core assigned to threads. -/
def CoreSt.given (c : CoreSt) : Nat := c.lg.foldl (· + ·) 0
/-- Whether a scratchpad run is reserved for no group. -/
def State.spadOpen (s : State) (c off n : Nat) : Bool :=
  n == 0 || (decide (off + n ≤ Config.spadBytes) && (s.holding c).all fun g =>
    decide (off + n ≤ g.scrOff) || decide (g.scrOff + g.scrb * 4096 ≤ off))
/-- Whether every slot of a mask is FREE and reserved for no group. -/
def State.palmOpen (s : State) (c palm : Nat) : Bool :=
  (List.range 24).all fun x => !bit palm x || (((s.core c).slot x).st == .free && (s.holding c).all fun g => !bit g.palm x)

/-- What one group asks for: its number, a lane share for each member, scratchpad (at a given offset when it is restored),
palette slots. -/
structure Want where
  id   : Option Nat
  g    : Nat
  lgs  : List Nat
  scrb : Nat
  off  : Option Nat
  palm : Nat

/-- The scratchpad offset a group would get on all of some cores: its own, or the lowest free one (R236, R240). -/
def State.offsetFor (s : State) (w : Want) (cs : List Nat) : Option Nat :=
  match w.off with
  | some o => if cs.all fun c => s.spadOpen c o (w.scrb * 4096) then some o else none
  | none => ((List.range (385 - w.scrb)).map (· * 4096)).find? fun o => cs.all fun c => s.spadOpen c o (w.scrb * 4096)

/-- Whether core `c` meets R236 for member `m` of a group of an owner. -/
def State.seatOk (s : State) (part owner : Nat) (w : Want) (m c : Nat) : Bool :=
  (s.freeTid c).isSome && decide (w.lgs.getD m 0 + (s.core c).given ≤ (s.core c).work) && s.palmOpen c w.palm
    && ((s.holding c).all fun g => g.part == part && (s.ctx g.ctx).owner == owner) && (s.offsetFor w [c]).isSome

/-! ## Choosing cores (R242–R244) -/

/-- Insertion by key, stable. -/
def insertBy (key : Nat → Nat) (x : Nat) : List Nat → List Nat
  | [] => [x]
  | y :: ys => if key x < key y then x :: y :: ys else y :: insertBy key x ys
/-- Sorted by a key, ties in the order given. -/
def sortBy (key : Nat → Nat) (l : List Nat) : List Nat := l.foldl (fun acc x => insertBy key x acc) []

/-- Groups of a launch that hold a core of a string. -/
def State.launchOn (s : State) (l str : Nat) : Nat :=
  (s.groups.filter fun g => g.st.holds && g.launch == l && g.mems.any fun m => strOf m.1 == str).length

/-- The spots for four groups: the four levels of a string, lowest string first (R242). -/
def quadSpots (cores : List Nat) : List (List Nat) :=
  (cores.filter fun c => levelOf c == 0).map fun c => [c, c + 1, c + 2, c + 3]

/-- The spots for one group: the strings with most groups of its launch, on each the levels with fewest lane groups; then every
core (R243). -/
def State.singleSpots (s : State) (launch : Nat) (cores : List Nat) : List (List Nat) :=
  let strs := ((cores.map strOf).eraseDups).filter fun x => s.launchOn launch x != 0
  let strs := sortBy (fun x => 2 ^ 24 - s.launchOn launch x) strs
  let first := (strs.map fun x => sortBy (fun c => (s.core c).given) (cores.filter fun c => strOf c == x)).flatten
  (first ++ cores).map ([·])

/-- The first choice of one element of each list that passes. -/
def pickFrom {α : Type} (ok : List α → Bool) : List (List α) → List α → Option (List α)
  | [], acc => if ok acc then some acc else none
  | l :: rest, acc => l.findSome? fun x => pickFrom ok rest (acc ++ [x])

/-- The sublists of `n` elements, in ascending order. -/
def combos : List Nat → Nat → List (List Nat)
  | _, 0 => [[]]
  | [], _ + 1 => []
  | x :: xs, n + 1 => (combos xs n).map (x :: ·) ++ combos xs (n + 1)

/-- The cores of group `j` of a bundle, home member first. -/
def coresOfBundle (spots : List (List Nat)) (j : Nat) : List Nat := spots.map (·.getD j 0)

/-- Whether every group of a bundle has one offset on all its cores. -/
def State.offsetsOk (s : State) (ws : List Want) (spots : List (List Nat)) : Bool :=
  ws.zipIdx.all fun p => (s.offsetFor p.1 (coresOfBundle spots p.2)).isSome

/-- The spots of member `m` of a bundle among some cores. -/
def State.spots (s : State) (l : Launch) (ws : List Want) (m : Nat) (cores : List Nat) : List (List Nat) :=
  let o := (s.ctx l.ctx).owner
  (if ws.length == 4 then quadSpots cores else s.singleSpots l.id cores).filter fun spot =>
    (ws.zip spot).all fun p => s.seatOk l.part o p.1 m p.2

/-- The cores of a bundle, one spot for each member, on given dies. -/
def State.chooseOn (s : State) (l : Launch) (ws : List Want) (ds : List Nat) : Option (List (List Nat)) :=
  let cs := (s.part l.part).cores
  pickFrom (s.offsetsOk ws) (ds.zipIdx.map fun x => s.spots l ws x.2 (cs.filter fun c => dieOf c == x.1)) []

/-! ## Placing -/

/-- Free save records of a context (R215). -/
def State.freeRecords (s : State) (c n : Nat) : Option (List Nat) :=
  let used := ((s.groups.filter fun g => g.ctx == c).map (·.records)).flatten
  let l := ((List.range (s.ctx c).savecnt).filter fun r => !used.contains r).take n
  if l.length == n then some l else none

/-- The dispatcher writes a thread's LPART field. -/
def State.setLg (s : State) (c t x : Nat) : State := s.modCore c fun y => { y with lg := y.lg.set t x }

/-- Takes `n` lane groups from those offered on a core, oldest first (R247). -/
def takeReturned : List (Nat × Nat) → Nat → List (Nat × Nat)
  | [], _ => []
  | (l, m) :: rest, n => if m ≤ n then takeReturned rest (n - m) else (l, m - n) :: rest

/-- Gives a thread of a core its lane groups, offered ones first. -/
def State.giveLg (s : State) (c t x : Nat) : State :=
  (s.setLg c t x).modCore c fun y => { y with returned := takeReturned y.returned x }

/-- Gives a group its cores: it enters Loading (R240); a new group takes save records too. -/
def State.seat (s : State) (l : Launch) (w : Want) (quad : Bool) (cores : List Nat) : Option State :=
  let mems := cores.map fun c => (c, (s.freeTid c).getD 0)
  match s.offsetFor w cores with
  | none => none
  | some off =>
    let s1 := (mems.zip w.lgs).foldl (fun s p => s.giveLg p.1.1 p.1.2 p.2) s
    match w.id with
    | some id =>
      some ((s1.modGrp id fun g => { g with st := .loading, mems, scrOff := off, quad, stopAfter := false }).later
        (.groupLoadComplete id))
    | none =>
      match s.freeRecords l.ctx cores.length with
      | none => none
      | some rs =>
        let g : Group :=
          { id := s.nextId, launch := l.id, g := w.g, st := .loading, ctx := l.ctx, part := l.part, lgs := w.lgs, mems
            scrb := w.scrb, scrOff := off, palm := w.palm, records := rs, quad, save := none, poisoned := false, stopAfter := false }
        some (({ s1 with groups := s1.groups ++ [g], nextId := s1.nextId + 1 } : State).later (.groupLoadComplete g.id))

/-- Seats the groups of a bundle on their spots. -/
def seatAll (l : Launch) (quad : Bool) (spots : List (List Nat)) : List (Want × Nat) → State → Option State
  | [], s => some s
  | (w, j) :: rest, s => match s.seat l w quad (coresOfBundle spots j) with
    | none => none
    | some s => seatAll l quad spots rest s

/-- Seats a bundle on its spots. -/
def State.seatBundle (s : State) (l : Launch) (ws : List Want) (spots : List (List Nat)) : Option State :=
  seatAll l (ws.length == 4) spots ws.zipIdx s

/-- Free runs of a scratchpad, counted upward from an offset in 4 KiB pages. -/
def State.runsFrom (s : State) (c n : Nat) : Nat → Nat → Nat
  | 0, _ => 0
  | f + 1, o =>
    if 384 < o + n then 0
    else if s.spadOpen c (o * 4096) (n * 4096) then 1 + s.runsFrom c n f (o + n) else s.runsFrom c n f (o + 1)

/-- How many groups of one want a core could take now (R236). -/
def State.room (s : State) (l : Launch) (w : Want) (c : Nat) : Nat :=
  if (s.holding c).all fun g => g.part == l.part && (s.ctx g.ctx).owner == (s.ctx l.ctx).owner then
    let tids := ((List.range 4).filter fun t => (s.thOf (4 * c + t)).exitedOf.isNone && (s.holding c).all fun g => !g.mems.contains (c, t)).length
    let lanes := ((s.core c).work - (s.core c).given) / max 1 (w.lgs.getD 0 0)
    let runs := if w.scrb == 0 then 4 else s.runsFrom c w.scrb 385 0
    let palm := if w.palm == 0 then 4 else if s.palmOpen c w.palm then 1 else 0
    min (min tids lanes) (min runs palm)
  else 0

/-- Whether the partition's cores could take `n` groups of a launch now, a span's members on different dies. -/
def State.takes (s : State) (l : Launch) (w : Want) (n : Nat) : Bool :=
  let p := s.part l.part
  let roomOf := fun (cs : List Nat) => (cs.map (s.room l w)).foldl (· + ·) 0
  if l.span == 0 then decide (n ≤ roomOf p.cores)
  else
    decide (n * w.lgs.length ≤ (p.dies.map fun d => min n (roomOf (p.cores.filter fun c => dieOf c == d))).foldl (· + ·) 0)

/-- Places one bundle, four groups as a quad or one, with `rest` groups of a gang to follow. A span takes the lowest-numbered set of dies
on which every member can be placed (R244), and one of a gang the lowest that leaves room for the rest (R238). -/
def State.placeBundle (s : State) (l : Launch) (ws : List Want) (rest : List Want) : Option State :=
  let p := s.part l.part
  let fits := fun (s' : State) => if l.kern.bks && rest.any (fun w => !s'.takes l w rest.length) then none else some s'
  if l.span == 0 then (pickFrom (s.offsetsOk ws) [s.spots l ws 0 p.cores] []).bind fun x => (s.seatBundle l ws x).bind fits
  else
    let d := ((ws.head?).map (·.lgs.length)).getD 0
    (combos p.dies d).findSome? fun ds => (s.chooseOn l ws ds).bind fun x => (s.seatBundle l ws x).bind fits

/-- Places groups, four at a time while four remain (R23, R234). A gang that finds no room for four together places them singly. -/
def placeMany (l : Launch) : List Want → State → Option State
  | a :: b :: c :: d :: rest, s => match s.placeBundle l [a, b, c, d] rest with
    | some s => placeMany l rest s
    | none => if !l.kern.bks then none else match s.placeBundle l [a] (b :: c :: d :: rest) with
      | none => none
      | some s => placeMany l (b :: c :: d :: rest) s
  | w :: rest, s => match s.placeBundle l [w] rest with
    | none => none
    | some s => placeMany l rest s
  | [], s => some s

/-- What a new group of a launch asks for. -/
def newWant (l : Launch) (g : Nat) : Want :=
  { id := none, g, lgs := List.replicate (max 1 l.span) l.kern.lg, scrb := l.kern.scrb, off := none, palm := l.kern.palm }
/-- The palette slots a saved group needs: those it reserved and those it had claimed (R216, R248). -/
def Group.slotsNeeded (g : Group) : Nat :=
  ((g.save.map (·.slots)).getD []).foldl (fun a p => setBit a p.1 true) g.palm
/-- What a saved group asks for. -/
def oldWant (g : Group) : Want :=
  { id := some g.id, g := g.g, lgs := g.lgs, scrb := g.scrb, off := some g.scrOff, palm := g.slotsNeeded }

/-- The launch of a pending item, and what its groups ask for: the next four groups of a launch, or its next one, or a whole
gang; or saved groups. -/
def State.itemWants (s : State) (i : PendItem) : Option (Launch × List Want) :=
  match i with
  | .launch id => (s.lau id).map fun l =>
    let left := l.n - l.placed
    let k := if l.kern.bks then left else if 4 ≤ left then 4 else min left 1
    (l, (List.range k).map fun j => newWant l (l.placed + j))
  | .groups ids =>
    match ids.filterMap s.grp with
    | [] => none
    | g :: gs => (s.lau g.launch).map fun l => (l, (g :: gs).map oldWant)

/-- Places an item whole, or not at all. -/
def State.tryItem (s : State) (i : PendItem) : Option State :=
  match s.itemWants i with
  | none => none
  | some (l, ws) => placeMany l ws s

/-- The context of a pending item. -/
def State.itemCtx (s : State) (i : PendItem) : Nat :=
  match i with
  | .launch id => ((s.lau id).map (·.ctx)).getD 0
  | .groups ids => (((ids.head?).bind s.grp).map (·.ctx)).getD 0

/-! ## Context states (R210, R211) and holds (R213) -/

/-- Whether a context still has a launch with groups to place, or a queue entry ready. -/
def State.moreToCome (s : State) (c : Nat) : Bool :=
  s.launches.any (fun l => l.ctx == c && decide (l.placed < l.n)) || s.queues.any fun e => e.2.ctx == c && e.2.st == .ready

/-- The state that its groups give a context. -/
def State.stateFrom (s : State) (c : Nat) : CtxState :=
  let x := s.ctx c
  let gs := s.groups.filter fun g => g.ctx == c
  if gs.any fun g => g.st == .stopping || (g.st == .loading && g.stopAfter) then .preempting
  else if gs.any fun g => g.st.holds then if x.held then .resident else .running
  else if gs.any fun g => g.st == .saved then if x.waits.any fun w => w.arrived.isNone then .faulted else .saved
  else if (x.st == .running || x.st == .resident) && s.moreToCome c then x.st
  else .created

/-- Moves a context to the state that its groups give it; frozen, tearing-down and dead contexts stay. -/
def State.settleCtx (s : State) (c : Nat) : State :=
  match (s.ctx c).st with
  | .frozen | .tearing | .dead => s
  | _ => s.modCtx c fun x => { x with st := s.stateFrom c }

/-- Whether the dispatcher may place groups of a context now. -/
def CtxState.placeable : CtxState → Bool
  | .created | .resident | .running | .saved => true
  | _ => false

/-- The pending list of a partition (R241). -/
def State.pending (s : State) (p : Nat) : List PendItem := s.pend.get [] p

/-- Whether a positive-weight context of the partition has a group waiting for placement. -/
def State.positiveWaits (s : State) (p : Nat) : Bool :=
  (s.pending p).any fun i => let x := s.ctx (s.itemCtx i); x.st.placeable && decide (0 < x.weight)

/-- The items that may be placed: a weight-0 context waits while positive-weight work waits (R213). -/
def State.eligible (s : State) (p : Nat) : List PendItem :=
  (s.pending p).filter fun i =>
    let x := s.ctx (s.itemCtx i)
    x.st.placeable && (decide (0 < x.weight) || !s.positiveWaits p)

/-- Holds the weight-0 contexts of a partition while a positive-weight group waits, and releases them after (R213). -/
def State.updateHolds (s : State) (p : Nat) : State :=
  let h := s.positiveWaits p
  (s.ctxsOf p).foldl (fun s c =>
    let h := h && (s.ctx c).weight == 0
    if (s.ctx c).held != h then (s.modCtx c fun x => { x with held := h }).settleCtx c else s) s

/-- SETSLICE's values take effect at the next slice decision (R208). -/
def State.applySlices (s : State) (p : Nat) : State :=
  (s.ctxsOf p).foldl (fun s c => match (s.ctx c).sliceNext with
    | none => s
    | some (w, q) => s.modCtx c fun x => { x with weight := w, quant := q, sliceNext := none }) s

/-- Whether a context is runnable and has work. -/
def State.runnable (s : State) (c : Nat) : Bool :=
  let st := (s.ctx c).st
  st != .faulted && st != .frozen && st != .tearing && st != .dead
    && (s.groups.any (fun g => g.ctx == c) || s.launches.any fun l => l.ctx == c && decide (l.placed < l.n))

/-- The smallest of some SVTs (R213). -/
def minSvt : List Nat → Option Nat
  | [] => none
  | x :: xs => match minSvt xs with
    | none => some x
    | some y => some (if vtDiff x y ≤ 0 then x else y)

/-- A context becomes runnable: its SVT is raised to the smallest of its kind (R213). -/
def State.becomesRunnable (s : State) (c : Nat) : State :=
  let x := s.ctx c
  let l := (s.ctxsOf x.part).filter fun d => d != c && s.runnable d && ((s.ctx d).weight == 0) == (x.weight == 0)
  match minSvt (l.map fun d => (s.ctx d).svt) with
  | none => s
  | some m => if vtDiff x.svt m < 0 then s.modCtx c fun x => { x with svt := m } else s

/-- Charges held cycles to a context's SVT: 256 ÷ WEIGHT for each 1,024, the remainder carried (R213). -/
def chargeSvt (n : Nat) (x : CtxSt) : CtxSt :=
  let w := 4 * max 1 x.weight
  { x with svt := vtAdd x.svt ((n + x.svtRem) / w : Nat), svtRem := (n + x.svtRem) % w }

/-! ## The dispatcher's step (R241) -/

/-- Books what placing an item leaves: its place in the list, the launch's count, the queue that waited for it (R225). -/
def State.placed (s : State) (p : Nat) (i : PendItem) (k : Nat) : State :=
  match i with
  | .groups _ => { s with pend := s.pend.upd [] p fun l => l.filter (· != i) }
  | .launch id =>
    let s := s.modLau id fun l => { l with placed := l.placed + k }
    match s.lau id with
    | none => s
    | some l =>
      if l.placed < l.n then s
      else
        let s : State := { s with pend := s.pend.upd [] p fun x => x.filter (· != i) }
        if (s.q l.q).placing == some id then (s.modQ l.q fun q => { q with placing := none }).askHead l.q else s

/-- Tries one item. -/
def State.tryPlace (s : State) (p : Nat) (i : PendItem) : Option State :=
  match s.tryItem i, s.itemWants i with
  | some s', some (l, ws) =>
    let s' := s'.placed p i ws.length
    let s' := s'.modPart p fun x => { x with aged := false }
    some (((s'.settleCtx l.ctx).updateHolds p).later (.placeGroup p))
  | _, _ => none

/-- PLACE_GROUP (R241): the first item of the list that fits is placed; once the oldest has waited too long, no other. -/
def State.placeGroup (s : State) (p : Nat) : State :=
  let s := s.applySlices p
  let l := s.eligible p
  let l := if (s.part p).aged then l.take 1 else l
  (l.findSome? (s.tryPlace p)).getD (s.updateHolds p)

/-- PLACE_GROUP. -/
def execPlaceGroup (p : Nat) (s : State) : Host.Outcome State Fault Refusal := .next (s.placeGroup p)

/-- PENDING_AGE_LIMIT (R241): the oldest item has waited 65,536 reference cycles. -/
def execPendingAgeLimit (p : Nat) (s : State) : Host.Outcome State Fault Refusal :=
  .next (if (s.eligible p).isEmpty then s else (s.modPart p fun x => { x with aged := true }).later (.placeGroup p))

/-- The co-residence test of a kernel-scope launch: all its groups on the partition's cores, every one of them empty (R238). -/
def State.coResident (s : State) (l : Launch) : Bool :=
  decide (l.n * max 1 l.span ≤ (s.ctx l.ctx).savecnt)
    && ({ s with groups := [], threads := [], cores := s.cores.mapV fun _ c => { c with lg := [0, 0, 0, 0], slots := [] } } : State).takes l
      (newWant l 0) l.n

/-! ## The clean sequencer (R218) -/

/-- Cycles of a clean: 3,072, and up to 256 more that the manual does not fix. -/
def cleanCycles (ctr : Nat) : Nat := 3072 + (Config.freeValue ctr).toNat % 257

/-- The wait for a launch's strips ends when a clean discards them (R301, R239). -/
def State.endStrips (s : State) (k : ThreadKey) : State :=
  match (s.thOf k).exitedOf with
  | some l => s.later (.launchComplete l)
  | none => s

/-- Zeroes a range of a core's scratchpad. -/
def State.zeroSpad (s : State) (c off n : Nat) : State :=
  { s with mem := s.mem.filter fun x => !(decide (spadFlat c off ≤ x.1) && decide (x.1 < spadFlat c off + n)) }

/-- Charges a clean to the outgoing owner: its context's SVT, and quanta of the incoming owner (R218). -/
def State.chargeClean (s : State) (c : Nat) (incoming : Option Nat) : State :=
  match (s.core c).last with
  | none => s
  | some (p, o, x) =>
    let n := cleanCycles s.freeCtr
    let s : State := { s with freeCtr := s.freeCtr + 1 }
    let s := s.modCtx x (chargeSvt n)
    match incoming with
    | none => s
    | some key => s.recordWait clsSeq key (keyOf p o) n

/-- A thread's state is cleaned. -/
def State.cleanThread (s : State) (k : ThreadKey) : State := ((s.endStrips k).dropAsks k).setTh k {}
/-- The translations of a core that pass a test are dropped. -/
def State.dropTlb (s : State) (f : TlbEnt → Bool) : State := { s with tlb := s.tlb.filter fun t => !f t }

/-- The clean sequencer's effect on a core. -/
def State.cleanCore (s : State) (c : Nat) : State :=
  let s := (keysOf c).foldl State.cleanThread s
  ((s.modCore c fun x => { x with slots := [], cbs := [] }).zeroSpad c 0 (2 ^ 21)).dropTlb (·.unit == c)

/-- Cleans a core for a new owner, when another owner held it last (R214). -/
def State.cleanFor (s : State) (part owner ctx c : Nat) : State :=
  let s := match (s.core c).last with
    | none => s
    | some (p, o, _) =>
      if (s.core c).clean || (p == part && o == owner) then s
      else (s.chargeClean c (some (keyOf part owner))).cleanCore c
  s.modCore c fun x => { x with last := some (part, owner, ctx), clean := false, wiped := false }

/-! ## Loading -/

/-- The coordinates of a group number, level 3 first in the fold (R234). -/
def coordsOf (marks trip : List Nat) (g : Nat) : List Nat :=
  ([3, 2, 1, 0].foldl (fun (a : List Nat × Nat) l =>
    if marks.getD l 0 == 2 then ((a.2 % trip.getD l 1) :: a.1, a.2 / trip.getD l 1) else (0 :: a.1, a.2)) ([], g)).1

/-- Two 32-bit halves. -/
def pack2 (lo hi : Nat) : W64 := BitVec.ofNat 64 (lo % 2 ^ 32 + hi % 2 ^ 32 * 2 ^ 32)

/-- Sets scalars 2 to 10 and above. -/
def putRegs (t : Tab W64) : Nat → List W64 → Tab W64
  | _, [] => t
  | n, x :: xs => putRegs (t.put n x) (n + 1) xs

/-- The members of a group at its start. -/
def startMembers (mems : List (Nat × Nat)) (lgs : List Nat) : List Member :=
  (mems.zip lgs).map fun p =>
    { core := p.1.1, tid := p.1.2, nw := 8 * p.2, grant := 0, share := p.2, attached := true, mark := none, lost := false }

/-- A group's thread at its start (R235). -/
def freshThread (x : CtxSt) (l : Launch) (g : Group) : Thread :=
  let k := l.kern
  let c := coordsOf k.marks l.trip g.g
  let tr := fun i => if k.marks.getD i 0 == 0 then 0 else l.trip.getD i 0
  { sregs := putRegs [] 2 [l.args, BitVec.ofNat 64 g.g, pack2 (c.getD 0 0) (c.getD 1 0), pack2 (c.getD 2 0) (c.getD 3 0),
      pack2 (tr 0) (tr 1), pack2 (tr 2) (tr 3), BitVec.ofNat 64 l.n, BitVec.ofNat 64 (if k.scrb == 0 then 0 else g.scrOff),
      BitVec.ofNat 64 (k.scrb * 4096)]
    pc := k.entry
    sup := k.sup
    v := { tags := k.tags.zipIdx.map fun p => (p.2, p.1), gc := k.gc, cb := k.cb, ltag := k.ltag
           members := startMembers g.mems g.lgs }
    trap := { tvec := pcField x.tvec }
    bks := k.bks }

/-- The members of a restored span, each attached one on its new core (R246). -/
def rehome : List Member → List (Nat × Nat) → List Member
  | [], _ => []
  | m :: ms, l =>
    if m.attached then
      match l with
      | (c, t) :: l => { m with core := c, tid := t } :: rehome ms l
      | [] => m :: rehome ms []
    else m :: rehome ms l

/-- The entries and lane threads of a restored thread act on the members' new cores. -/
def reseat (new : List Member) (dist : List Member) : List Member :=
  dist.zipIdx.map fun p => match new[p.2]? with
    | some m => { p.1 with core := m.core, tid := m.tid }
    | none => p.1

/-- An entry on the members' new cores. -/
def Entry.reseated (new : List Member) (e : Entry) : Entry := { e with dist := reseat new e.dist }

/-- A fetch on the members' new cores. -/
def FetchRec.reseated (new : List Member) (f : FetchRec) : FetchRec := { f with dist := reseat new f.dist }

/-- A saved thread on the cores its group is restored to. -/
def restored (t : Thread) (mems : List (Nat × Nat)) : Thread :=
  let new := rehome t.v.members mems
  { t with
    v := { t.v with members := new }
    pipe := t.pipe.map (·.reseated new), fetch := t.fetch.map (·.reseated new)
    trap := { t.trap with stop := t.trap.stop.map (·.reseated new), fetch := t.trap.fetch.map (·.reseated new) } }

/-- A write by the dispatcher of many bytes. -/
def State.fillBytes (s : State) (a : Nat) (bs : List Byte) : State :=
  { s with mem := memFill s.mem a bs, threads := s.threads.mapV (watchMark none a bs.length) }

/-- The home thread of a group. -/
def Group.home (g : Group) : ThreadKey :=
  match g.mems with
  | [] => 0
  | (c, t) :: _ => 4 * c + t

/-! ## Save records (R215) -/

/-- What the save of a thread writes to the record of its member `m`, as offsets and bytes (R215–R217): the masks, the dirty registers
up to their high-water marks, the queue entries, the claimed palette slots, the scratchpad range, and the program counters of lane
threads in flight. `first` is the member's first element, and `ends` holds how far each register is written. -/
def recordSections (t : Thread) (ends : Tab Nat) (m first : Nat) (slots : Tab Slot) (spad : List Byte) : List (Nat × List Byte) :=
  ((List.range 7).map fun k => (0x2000 + 0x2000 * k, leBytes 0x2000 (t.v.masks.get 0 (8 * m + k + 1))))
    ++ ((List.range 32).map fun n =>
      (0x10000 + 0x1000 * n, leBytes (min 0x1000 (ends.get 0 (32 * m + n))) (t.v.vregs.get 0 (32 * m + n)).toNat))
    ++ ((List.range 6).map fun q => ((t.v.queues.get [] (32 + q)).take 4).zipIdx.map fun p =>
      (0x30000 + 0x8000 * (4 * q + p.2), leBytes 0x8000 (p.1.data / 2 ^ (first * p.1.tag.bits)))).flatten
    ++ ((slots.filter fun p => decide (p.1 < 24)).map fun p => (0xF0000 + 0x4000 * p.1, leBytes 0x4000 p.2.data.toNat))
    ++ [(0x150000, spad.take 0x180000)]
    ++ ((((t.fetch.filter (·.started)).map (·.lanes)).getD [] |>.filter fun p => decide (first ≤ p.1) && decide (p.1 < first + 65536)).map fun p =>
      (0x2D0000 + 8 * (p.1 - first), leBytes 8 p.2.pc.toNat))

/-- The two sections at the head of a record, of which the manual gives no layout (R215): free values. -/
def recordHead (ctr : Nat) : List Byte := ((List.range 1024).map fun i => leBytes 8 (Config.freeValue (ctr + i)).toNat).flatten

/-- Writes one save record (R215, R216). -/
def State.writeRecord (s : State) (base : Nat) (secs : List (Nat × List Byte)) : State :=
  secs.foldl (fun s p => s.fillBytes (base + p.1) p.2)
    { s.fillBytes base (recordHead s.freeCtr) with freeCtr := s.freeCtr + 1024 }

/-- Where a record of a context lies (R215): 4 MiB for each. -/
def recordAt (x : CtxSt) (n : Nat) : Nat := x.savebase.toNat + 2 ^ 22 * n

/-- The attached members of a thread, as their places in the member list and their first elements. -/
def memberStarts (ms : List Member) : List (Nat × Nat) :=
  let l := (ms.zipIdx.filter (·.1.attached)).map fun p => (p.2, (attached (ms.take p.2)).foldl (fun a m => a + m.grant) 0)
  if l.isEmpty then [(0, 0)] else l

/-- The records of a group, one for each member: the member's core, where the record lies, and its sections. -/
def State.recordsOf (s : State) (g : Group) (t : Thread) (ends : Tab Nat) (r : SaveRec) : List (Nat × Nat × List (Nat × List Byte)) :=
  (g.records.zip ((memberStarts t.v.members).zip r.spads)).zipIdx.map fun p =>
    ((t.v.members[p.1.2.1.1]?.map (·.core)).getD (coreOf g.home), recordAt (s.ctx g.ctx) p.1.1,
      recordSections t ends p.1.2.1.1 p.1.2.1.2 (if p.2 = 0 then r.slots else []) p.1.2.2)

/-- Writes the records of a group that is saved. -/
def State.writeRecords (s : State) (l : List (Nat × Nat × List (Nat × List Byte))) : State :=
  l.foldl (fun s p => s.writeRecord p.2.1 p.2.2) s

/-- The requests for the bytes of a group's records, made by the members' cores under its owner (R12, R15). -/
def State.recordReqs (s : State) (g : Group) (wr : Bool) (l : List (Nat × Nat × List (Nat × List Byte))) : State :=
  let key := keyOf g.part (s.ctx g.ctx).owner
  l.foldl (fun s p => p.2.2.foldl (fun s x => s.accessReqs p.1 key (p.2.1 + x.1) x.2.length wr none) (s.accessReqs p.1 key p.2.1 0x2000 wr none)) s

/-- A slot's state under the number of its restored thread. -/
def SlotState.ofThread (k : ThreadKey) : SlotState → SlotState
  | .releasing _ => .releasing k
  | _ => .claimed k

/-- Palette slots and scratchpad of a saved group return to its cores. -/
def State.restoreCores (s : State) (g : Group) (k : ThreadKey) (r : SaveRec) : State :=
  let s := r.slots.foldl (fun s p => s.modCore (coreOf k) fun c => { c with slots := c.slots.put p.1 { p.2 with st := p.2.st.ofThread k } }) s
  (g.mems.zip r.spads).foldl (fun s p => s.fillBytes (spadFlat p.1.1 g.scrOff) p.2) s

/-- The page wait of a group's thread that has ended, and whether as refused (R272 step 5). -/
def pageResult (x : CtxSt) (id : Nat) : Option Bool := (x.waits.find? fun w => w.group == id).bind (·.arrived)

/-- What a restored thread had asked of other units is asked again under its new place. -/
def State.restartEngines (s : State) (k : ThreadKey) : State :=
  let t := s.thOf k
  let s := (s.later (.stripStart k 0)).later (.stripStart k 1)
  let s := if t.fetch.any fun f => !f.started then s.later (.laneThreadStart k) else s
  if !t.pgcmd.busy then s
  else if !t.pgcmd.todo then s.later (.commandComplete (.pgcmd k))
  else if bits t.pgcmd.cmd.toNat 1 0 == 1 then s.later (.inval (.pgcmd k)) else s.later (.pagedone (.pgcmd k))

/-- A thread slot's record at the vector sequencer, at placement and at restore (R229). -/
def State.enterSeq (s : State) (w : Nat) (j : ThreadKey) : State :=
  let vt := (s.minSeqVt (s.contenders (coreOf j))).getD 0
  s.modTh j fun t => { t with seqW := w, seqVt := vt, seqRem := 0, seqAge := 0 }

/-- Its load completes: clean if the owner changed, then the start or the restored state (R214, R216, R235, R240). -/
def State.loadGroup (s : State) (g : Group) (l : Launch) : State :=
  let x := s.ctx g.ctx
  let s := g.mems.foldl (fun s m => s.cleanFor g.part x.owner g.ctx m.1) s
  let k := match g.mems with
    | [] => 0
    | (c, t) :: _ => 4 * c + t
  let t := match g.save with
    | none => freshThread x l g
    | some r =>
      let t := restored r.thr g.mems
      if pageResult x g.id == some false then leaveTrap t else reissue t
  let s := s.setTh k { t with
    group := some g.id, ctx := g.ctx, owner := x.owner, part := g.part, gnum := g.g, nmem := max 1 l.span, quad := g.quad }
  let s := g.mems.foldl (fun s m => s.enterSeq l.seqw (4 * m.1 + m.2)) s
  let s := match g.save with
    | none => s
    | some r => (s.restoreCores g k r).recordReqs g false (s.recordsOf g (s.thOf k) r.thr.v.extent r)
  let s := s.modCtx g.ctx fun x => { x with waits := x.waits.filter fun w => w.group != g.id }
  let s := s.modGrp g.id fun g => { g with st := if g.stopAfter then .stopping else .loaded, save := none, stopAfter := false }
  let s := (s.restartEngines k).gateArrivals k
  (if g.stopAfter then s.later (.saveComplete g.id) else s).settleCtx g.ctx

/-- GROUP_LOAD_COMPLETE (R240). -/
def execGroupLoadComplete (id : Nat) (s : State) : Host.Outcome State Fault Refusal :=
  .next <| match s.grp id with
    | none => s
    | some g => match s.lau g.launch with
      | none => s
      | some l => if g.st == .loading then s.loadGroup g l else s

/-! ## Stopping and saving (R41, R216, R217, R301) -/

/-- Whether a request of the thread's own has no answer yet. -/
def Thread.unanswered (t : Thread) : Bool :=
  t.asked.any fun q => if q.1 == 4 then t.refReply.isNone
    else !t.replies.any fun r => r.who == q.1 && r.pkg == q.2.1 && r.va == q.2.2.1 && r.wr == q.2.2.2

/-- Performs the started strips of a channel; one that waits for a page is left. -/
def State.finishStrips (s : State) (k : ThreadKey) (ch : Nat) : State :=
  ((s.thOf k).chan ch).active.foldl (fun s id => s.performStrip k ch id) s
/-- Whether a channel has a started strip that waits for no page and stands behind none that does. -/
def State.busyStrips (s : State) (k : ThreadKey) (c : Chan) : Bool := c.active.any fun id => !c.waiting.any (·.1 == id) && !s.behind k c id

/-- Whether an entry waits on a lent page alone, which does not hold the stop (R216). -/
def waitsLent (s : State) (k : ThreadKey) (e : Entry) : Bool :=
  match accessHalf s k e with
  | .wait _ _ (.lent _) => true
  | _ => false

/-- The stop at a head that waits (R216): one that waits on a lent page, with nothing younger in flight, is held as it stands; a store
or atomic of vector memory has stopped part-way, its start in VSTART. Any other wait holds the stop. -/
def State.stopWaiting (s : State) (k : ThreadKey) : State × Bool :=
  match (s.thOf k).pipe with
  | [] => (s, true)
  | e :: rest =>
    if waitsLent s k e && !rest.any (·.inFlight) then
      (s.modTh k fun t => { t with
        pipe := { e with begun := false, partWay := e.isMem } :: rest
        v := if e.isMem then { t.v with vstart := e.start } else t.v }, true)
    else (s, false)

/-- Whether an entry must complete before its thread stops: it has started (R41), or it names a slot the thread has let go (R175). -/
def State.mustEnd (s : State) (k : ThreadKey) (e : Entry) : Bool :=
  e.started || (s.core (coreOf k)).slots.any fun p => p.2.st == .releasing k && e.names p.1

/-- Completes the instructions that have started (R41); true when the thread has stopped. -/
def stopPipe : Nat → State → ThreadKey → State × Bool
  | 0, s, _ => (s, true)
  | n + 1, s, k =>
    match (s.thOf k).pipe with
    | [] => (s, true)
    | e :: rest =>
      if !(e :: rest).any (s.mustEnd k) then (s, true)
      else match runEntry s k e with
        | .retired s => stopPipe n s k
        | .trapped s => (s, true)
        | .waiting s => s.stopWaiting k

/-- A channel as a save leaves it: a strip waiting for a page returns to unstarted (R301). -/
def Chan.saved (c : Chan) : Chan :=
  { c with
    active := [], waiting := [], asked := false, go := false
    xfers := c.xfers.map fun x =>
      let w := c.active.filter fun id => decide (x.first ≤ id) && decide (id < x.first + x.count)
      { x with started := w.foldl (fun a id => min a (id - x.first)) x.started } }

/-- The saved extent of each register on each member: the larger of its old value and HWM (R217). -/
def newExtent (v : VecState) : Tab Nat :=
  v.dirty.foldl (fun e p => e.put p.1 (max (v.extent.get 0 p.1) p.2)) v.extent

/-- The vector state as a save keeps it: registers up to their extents, nothing dirty, no mark on a member. -/
def savedVec (v : VecState) : VecState :=
  let e := newExtent v
  { v with
    extent := e, dirty := []
    vregs := v.vregs.mapV fun key x => BitVec.ofNat 32768 (x.toNat % 2 ^ (8 * e.get 0 key))
    members := v.members.map fun m => { m with mark := none } }

/-- A thread as a save keeps it: nothing waits, and a wait is over (R119). -/
def savedThread (t : Thread) : Thread :=
  let t := t.endWait
  { t with v := savedVec t.v, ch0 := t.ch0.saved, ch1 := t.ch1.saved, hold := .none }

/-- The slots a thread has claimed, and those it has let go that its stop record still names (R175). -/
def State.claims (s : State) (k : ThreadKey) : Tab Slot :=
  (s.core (coreOf k)).slots.filter fun p => p.2.st == .claimed k || p.2.st == .releasing k
/-- Frees the slots a thread has claimed (R175). -/
def State.freeClaims (s : State) (k : ThreadKey) : State :=
  s.modCore (coreOf k) fun c => { c with slots := c.slots.filter fun p =>
    match p.2.st with
    | .claimed j => j != k
    | .releasing j => j != k
    | .free => true }

/-- A thread slot other than its home's leaves a group: its LPART field, and its record at the sequencer (R229). -/
def State.leaveSlot (s : State) (k : ThreadKey) (m : Nat × Nat) : State :=
  let j := 4 * m.1 + m.2
  let s := (s.setLg m.1 m.2 0).ungrant j
  if j == k then s else s.setTh j {}

/-- A group's cores lose it: LPART fields, sequencer records and claimed slots. -/
def State.leaveCores (s : State) (g : Group) (k : ThreadKey) : State :=
  (g.mems.foldl (fun s m => s.leaveSlot k m) s).freeClaims k

/-- The groups of a context that stopped and wait in no item. -/
def State.loose (s : State) (p c : Nat) : List Group :=
  s.groups.filter fun g => g.ctx == c && g.st == .saved && !(s.pending p).any fun i =>
    match i with
    | .groups ids => ids.contains g.id
    | .launch _ => false

/-- Whether four groups stood on the four levels of one string, on each die. -/
def isQuad (gs : List Group) : Bool :=
  gs.length == 4 && gs.zipIdx.all fun p => p.1.mems.all fun m => levelOf m.1 == p.2
    && gs.all fun h => (h.mems.map fun m => strOf m.1) == (p.1.mems.map fun m => strOf m.1)

/-- The items of the groups of one string, by level: quads as far as every level has one, and the rest singly (R248). -/
def stringItems (on : List Group) : List PendItem :=
  let lv := fun i => on.filter fun g => levelOf (coreOf g.home) == i
  let quads := ((List.range 4).map fun q => ([0, 1, 2, 3].map fun i => ((lv i)[q]?).toList).flatten).filter isQuad
  let inQuad := fun (g : Group) => quads.any fun q => q.any fun h => h.id == g.id
  quads.map (fun q => PendItem.groups (q.map (·.id))) ++ (on.filter fun g => !inQuad g).map fun g => PendItem.groups [g.id]

/-- Whether a group belongs to a gang. -/
def State.isGang (s : State) (g : Group) : Bool := ((s.lau g.launch).map (·.kern.bks)).getD false

/-- The items of groups saved together (R238, R248): whole gangs, quads of one string, and single groups. -/
def State.itemsOf (s : State) (gs : List Group) : List PendItem :=
  let gangs := ((gs.filter s.isGang).map (·.launch)).eraseDups.map fun l =>
    PendItem.groups (sortBy (fun id => ((s.grp id).map (·.g)).getD 0) ((gs.filter fun g => g.launch == l).map (·.id)))
  let rest := gs.filter fun g => !s.isGang g
  let strs := sortBy id ((rest.map fun g => strOf (coreOf g.home)).eraseDups)
  gangs ++ (strs.map fun x => stringItems (rest.filter fun g => strOf (coreOf g.home) == x)).flatten

/-- Whether a saved group waits for others that stop with it: the rest of its gang, or groups of its context on its string (R248). -/
def State.waitsPeers (s : State) (g : Group) : Bool :=
  s.groups.any fun h => h.ctx == g.ctx && (h.st == .stopping || (h.st == .loading && h.stopAfter))
    && (if s.isGang g then h.launch == g.launch else strOf (coreOf h.home) == strOf (coreOf g.home))

/-- Saved groups re-enter the list behind every item waiting, each with those that stop with it (R241). -/
def State.requeue (s : State) (c : Nat) : State :=
  let x := s.ctx c
  if x.st == .frozen || x.st == .tearing then s
  else { s with pend := s.pend.upd [] x.part (· ++ s.itemsOf ((s.loose x.part c).filter fun g => !s.waitsPeers g)) }

/-- The save of a stopped group, and the release of its cores. -/
def State.saveGroup (s : State) (g : Group) : State :=
  let k := g.home
  let s := s.performAll k
  let t := s.thOf k
  let ms := attached t.v.members
  let mems := if ms.isEmpty then g.mems else ms.map fun m => (m.core, m.tid)
  let r : SaveRec :=
    { thr := savedThread t, slots := s.claims k
      spads := mems.map fun m => s.bytes (spadFlat m.1 g.scrOff) (g.scrb * 4096) }
  let l := s.recordsOf g t t.v.dirty r
  let s := ((((s.writeRecords l).recordReqs g true l).leaveCores g k).dropAsks k).setTh k {}
  let s := s.modGrp g.id fun g =>
    { g with st := .saved, save := some r, mems, lgs := if ms.isEmpty then g.lgs else ms.map (·.share) }
  ((((s.requeue g.ctx).settleCtx g.ctx).updateHolds g.part).later (.placeGroup g.part))

/-- A freeze met the group in Loading: it is saved as it stands, and its cores are free (R240). -/
def State.unloadGroup (s : State) (g : Group) : State :=
  let s := (s.leaveCores g g.home).modGrp g.id fun g => { g with st := .saved, stopAfter := false }
  ((s.settleCtx g.ctx).updateHolds g.part).later (.placeGroup g.part)

/-- SAVE_COMPLETE (R216): the started instructions and strips complete, and the save ends; while one of them waits for another
party, or a request has no answer, the group goes on stopping. -/
def execSaveComplete (id : Nat) (s : State) : Host.Outcome State Fault Refusal :=
  .next <| match s.grp id with
    | none => s
    | some g =>
      if g.st != .stopping || (s.ctx g.ctx).st == .tearing then s
      else if g.stopAfter then s.unloadGroup g
      else
        let k := g.home
        let s := ((s.passReloc k).finishStrips k 0).finishStrips k 1
        let (s, stopped) := stopPipe (s.thOf k).pipe.length s k
        let t := s.thOf k
        if stopped && !t.unanswered && !s.busyStrips k t.ch0 && !s.busyStrips k t.ch1 then s.saveGroup g else s

/-! ## Retirement (R115, R239, R247, R249) -/

/-- A thread slot after its group has left, with channels whose strips are not all performed kept. -/
def emptied (t : Thread) (l : Nat) : Thread :=
  if t.strippedOut then {}
  else { ch0 := t.ch0, ch1 := t.ch1, ctx := t.ctx, owner := t.owner, part := t.part, exitedOf := some l }

/-- A group retires: what it held is freed, its lane groups are offered, and its launch counts it (R239, R247, R249). -/
def State.retireGroup (s : State) (k : ThreadKey) : State :=
  match (s.thOf k).group.bind s.grp with
  | none => s
  | some g =>
    if g.st != .loaded then s
    else
      let gang := (s.thOf k).bks
      let back := g.mems.zip (g.mems.map fun m => (s.core m.1).lg.getD m.2 0)
      let s := s.leaveCores g k
      let s := s.setTh k (emptied (s.thOf k) g.launch)
      let s : State := { s with groups := s.groups.filter fun x => x.id != g.id }
      let s := s.endWaits g.id
      let s := if gang then s else back.foldl (fun s p => s.modCore p.1.1 fun c => { c with returned := c.returned ++ [(g.launch, p.2)] }) s
      let s := s.modLau g.launch fun l => { l with retired := l.retired + 1 }
      let s := if (s.lau g.launch).any fun l => l.retired == l.n then s.later (.launchComplete g.launch) else s
      ((s.settleCtx g.ctx).updateHolds g.part).later (.placeGroup g.part)

/-- Gives lane groups one at a time to the loaded threads of a launch on a core, in ascending thread order (R247). -/
def giveLanes (s : State) (c l : Nat) : Nat → List Nat → State × Nat
  | n, [] => (s, n)
  | 0, _ => (s, 0)
  | n + 1, t :: ts =>
    let f := (s.core c).lg.getD t 0
    let mine := (s.holding c).any fun g => g.st == .loaded && g.launch == l && g.mems.contains (c, t)
    if mine && f < 8 then giveLanes (s.setLg c t (f + 1)) c l n ts else giveLanes s c l (n + 1) ts

/-- RETURNED_LANES_TIMEOUT (R247): no pending item took the lane groups that an exit returned, and none fits. -/
def execReturnedLanesTimeout (c : Nat) (s : State) : Host.Outcome State Fault Refusal :=
  .next <| match (s.core c).returned with
    | [] => s
    | (l, n) :: rest =>
      if (s.core c).last.any fun x => (s.eligible x.1).any fun i => (s.tryItem i).isSome then s
      else
      let s := s.modCore c fun x => { x with returned := rest }
      let n := min n ((s.core c).work - (s.core c).given)
      ((List.range 8).foldl (fun (a : State × Nat) _ => giveLanes a.1 c l a.2 [0, 1, 2, 3]) (s, n)).1

/-! ## The slice scheduler (R213, R245, R246) -/

/-- SVT_CHARGE (R213): a control thread's context has held it for 1,024 reference cycles; a span is charged on each attached
member's core. -/
def execSvtCharge (k : ThreadKey) (s : State) : Host.Outcome State Fault Refusal :=
  .next <| match (s.holding (coreOf k)).find? fun g => g.mems.contains (coreOf k, tidOf k) with
    | none => s
    | some g => s.modCtx g.ctx (chargeSvt 1024)

/-- Stops one group (R240). -/
def State.stopGroup (s : State) (id : Nat) : State :=
  match s.grp id with
  | none => s
  | some g =>
    if g.st != .loaded then s
    else ((s.modGrp id fun g => { g with st := .stopping }).settleCtx g.ctx).later (.saveComplete id)

/-- The state with a group off its cores. -/
def State.lifted (s : State) (g : Group) : State :=
  let s := s.leaveCores g g.home
  { s with groups := s.groups.filter fun h => h.id != g.id }

/-- The state with some members of a group off their cores. -/
def State.without (s : State) (id : Nat) (cs : List Nat) : State :=
  match s.grp id with
  | none => s
  | some g =>
    let s := (g.mems.filter fun m => cs.contains m.1).foldl (fun s m => s.setLg m.1 m.2 0) s
    s.modGrp id fun g => { g with mems := g.mems.filter fun m => !cs.contains m.1 }

/-- The loaded groups that a pre-emption of one of them stops: its gang, or itself (R238, R248). -/
def State.unitOf (s : State) (g : Group) : List Group :=
  if s.isGang g then s.groups.filter fun h => h.launch == g.launch && h.st == .loaded else [g]

/-- Keeps, of some units, those whose groups must go for a test to pass, looking first at the last: each that need not go stays. -/
def needed {α : Type} (test : List α → Bool) : List α → List α → List α
  | [], kept => kept
  | u :: us, kept => if test (us ++ kept) then needed test us kept else needed test us (kept ++ [u])

/-- Whether an item fits once some groups are off their cores. -/
def State.fitsWithout (s : State) (i : PendItem) (us : List (List Group)) : Bool := ((us.flatten.foldl (·.lifted ·) s).tryItem i).isSome

/-- Marks a member of a thread's span. -/
def markMember (t : Thread) (c : Nat) : Thread :=
  { t with v := { t.v with members := t.v.members.map fun m => if m.core == c && m.attached then { m with mark := some false } else m } }

/-- Whether context `b` may be pre-empted for `a`, its quantum being over (R213). -/
def State.mayPreempt (s : State) (a b : Nat) : Bool :=
  b != a && s.groups.any (fun g => g.ctx == b && g.st == .loaded)
    && ((s.ctx b).weight == 0 || decide (vtDiff (s.ctx a).svt (s.ctx b).svt < 0))

/-- The better victim: weight 0 before others, then the larger SVT, then the higher number. -/
def State.worse (s : State) (b c : Nat) : Nat :=
  let x := s.ctx b
  let y := s.ctx c
  if x.weight == 0 && y.weight != 0 then b else if y.weight == 0 && x.weight != 0 then c
  else if 0 < vtDiff x.svt y.svt then b else if vtDiff x.svt y.svt < 0 then c
  else max b c

/-- The victims of an item in the order in which they stay if they can: the better victim last (R213). -/
def State.victims (s : State) (p : Nat) (a : Nat) : List Nat :=
  let vs := (s.ctxsOf p).filter (s.mayPreempt a)
  let rec go : Nat → List Nat → List Nat
    | 0, _ => []
    | _ + 1, [] => []
    | n + 1, b :: bs =>
      let v := bs.foldl s.worse b
      go n ((b :: bs).filter (· != v)) ++ [v]
  go vs.length vs

/-- The members, other than the home's, whose cores alone an item needs of a group; none when it needs the home's too (R245). -/
def State.spareMembers (s : State) (i : PendItem) (g : Group) : Option (List Nat) :=
  let cs := (g.mems.drop 1).map (·.1)
  let test := fun (cs : List Nat) => ((s.without g.id cs).tryItem i).isSome
  if !cs.isEmpty && test cs then some (needed test cs []) else none

/-- One unit goes, the others of the list being off their cores already: the spare members of a single group are marked, or every group of
the unit stops (R245, R238). -/
def State.clear (s : State) (i : PendItem) (others : List (List Group)) (u : List Group) : State :=
  match u with
  | [g] =>
    (match (others.flatten.foldl (·.lifted ·) s).spareMembers i g with
      | some cs => s.modTh g.home fun t => cs.foldl markMember t
      | none => s.stopGroup g.id)
  | _ => u.foldl (fun s g => s.stopGroup g.id) s

/-- PREEMPT_FOR_SPACE (R213, R241, R245): the first positive-weight item that finds no room takes the cores it needs from other contexts.
Only the groups on those cores stop, each with its gang; where the cores of span members other than the home are enough, they are marked
instead. -/
def State.preemptForSpace (s : State) (p : Nat) : State :=
  let s := s.applySlices p
  let l := s.eligible p
  let l := if (s.part p).aged then l.take 1 else l
  match l.find? fun i => decide (0 < (s.ctx (s.itemCtx i)).weight) && (s.tryItem i).isNone with
  | none => s
  | some i =>
    let units := ((s.victims p (s.itemCtx i)).map fun b =>
      ((s.groups.filter fun g => g.ctx == b && g.st == .loaded).map s.unitOf).eraseDups).flatten
    if s.fitsWithout i units then
      let go := needed (s.fitsWithout i) units []
      go.foldl (fun s' u => s'.clear i (go.filter (· != u)) u) s
    else s

/-- PREEMPT_FOR_SPACE. -/
def execPreemptForSpace (p : Nat) (s : State) : Host.Outcome State Fault Refusal := .next (s.preemptForSpace p)

/-- SPAN_DETACH_TIMEOUT (R245): no vsetl came within the quantum of a mark, and the whole span is pre-empted, with its
gang (R238). -/
def execSpanDetachTimeout (k : ThreadKey) (s : State) : Host.Outcome State Fault Refusal :=
  let t := s.thOf k
  .next <| match t.group with
    | some g =>
      if t.v.members.any fun m => m.mark == some false then
        (((s.grp g).map s.unitOf).getD []).foldl (fun s h => s.stopGroup h.id) s
      else s
    | none => s

/-- SPAN_ATTACH_MARK (R246): a core on the die of a detached member has become free, and is marked for attachment. -/
def execSpanAttachMark (k : ThreadKey) (c : Nat) (s : State) : Host.Outcome State Fault Refusal :=
  let t := s.thOf k
  .next <| match t.group.bind s.grp with
    | none => s
    | some g => match s.lau g.launch with
      | none => s
      | some l =>
        let lg := l.kern.lg
        let w : Want := { id := some g.id, g := g.g, lgs := [lg], scrb := g.scrb, off := some g.scrOff, palm := g.palm }
        let mine := fun (m : Member) => !m.attached && m.mark.isNone && dieOf m.core == dieOf c
        if g.st == .loaded && t.v.members.any mine && (s.part g.part).cores.contains c
            && s.seatOk g.part (s.ctx g.ctx).owner w 0 c then
          let tid := (s.freeTid c).getD 0
          let s := (((s.setLg c tid lg).enterSeq l.seqw (4 * c + tid)).modGrp g.id fun g => { g with mems := g.mems ++ [(c, tid)] }).cleanFor g.part
            (s.ctx g.ctx).owner g.ctx c
          s.modTh k fun t =>
            let ms := t.v.members.map fun m => if mine m then { m with core := c, tid, mark := some true } else m
            { t with v := { t.v with members := ms } }
        else s

end Sys2Proof.Machine
end

