-- ==== Sys2Proof/Machine/Queue.lean ====
section
/-! DEFINITION. Work queues, the front end, launches and their completion (R222–R228, R232–R234, R238, R239, R396, R397). -/

namespace Sys2Proof.Machine

/-! ## Functions and their queues -/

/-- The partition bound to a function (R205). -/
def State.partOf (s : State) (func : Nat) : Option Nat := (s.parts.find? fun e => e.2.up && e.2.func == func).map (·.1)
/-- Whether a queue lies in a partition's range. -/
def PartSt.hasQ (p : PartSt) (n : Nat) : Bool := decide (p.qBase ≤ n) && decide (n < p.qBase + p.qCount)
/-- Whether a context number lies in a partition's range. -/
def PartSt.hasCtx (p : PartSt) (n : Nat) : Bool := decide (p.ctxBase ≤ n) && decide (n < p.ctxBase + p.ctxCount)

/-- A violation freezes the function at once, and is logged (R342). -/
def State.violate (s : State) (func addr : Nat) : State := (s.log func 7 addr 0).modFn func fun f => { f with frozen := true }

/-! ## Rings (R222, R396) -/

/-- The address of an entry: bits 63:60 name the space. -/
def QueueSt.slot (q : QueueSt) (seq : Nat) : W64 :=
  BitVec.ofNat 64 ((q.base.toNat + 64 * (seq % 2 ^ q.logd)) % 2 ^ 60 + if q.sp then 2 ^ 61 else 0)
/-- The target of a ring access: bits 63:60 are ignored, and the leaf's TGT must be the space's. -/
def QueueSt.target (q : QueueSt) (a : W64) : Target :=
  if bits a.toNat 59 57 == 0 then .paged (if q.sp then 2 else 0) (a.toNat % 2 ^ 57) else .bad

/-- The party that stands for the front end serving a queue: its accesses carry the context's owner. -/
def frontKey (q : Nat) : ThreadKey := 6144 + q
/-- The front end at a queue, under its context. -/
def State.asFront (s : State) (n : Nat) : State :=
  let c := (s.q n).ctx
  s.modTh (frontKey n) fun t => { t with ctx := c, owner := (s.ctx c).owner, part := (s.ctx c).part }

/-- The paths of the front end's accesses at a queue: the ring and the descriptor, the predicate, and the completion record of each
sequence number. -/
def frontPred : Nat := 2
def frontCrec (seq : Nat) : Nat := 16 + seq

/-- Reads for the front end; the answers of other packages stay until the entry is taken (R226, R396). -/
def State.frontRead (s : State) (n who : Nat) (tg : W64 → Target) (a : W64) (len : Nat) : RunOut :=
  readRun (s.asFront n) (frontKey n) who false tg a len
/-- The head's accesses have ended. -/
def State.endFront (s : State) (n : Nat) : State := (s.endReplies (frontKey n) 0).endReplies (frontKey n) frontPred

/-- The head entry, when its ring can be read now. -/
def State.peekHead (s : State) (n : Nat) : Option Nat :=
  let q := s.q n
  match q.target (q.slot q.head) with
  | .paged tgt va =>
    match s.translate ioCore q.ctx false .read [tgt] va with
    | .ok flat _ => some (s.load flat 64)
    | _ => none
  | _ => none

/-- Whether an entry's dependences are met (R225). -/
def State.depsMet (s : State) (n x : Nat) : Bool :=
  let q := s.q n
  (!bit x 10 || q.compl == q.head) && (!bit x 11 || decide (bits x 319 256 ≤ (s.q (bits x 45 32)).compl))

/-- The state of a queue that is empty, ready or blocked (R225). -/
def State.settleQueue (s : State) (n : Nat) : State :=
  let q := s.q n
  match q.st with
  | .empty | .ready | .blocked =>
    let st : QState :=
      if (s.ctx q.ctx).st == .frozen then .blocked
      else if q.head == q.tail then .empty
      else match s.peekHead n with
        | some x => if s.depsMet n x then .ready else .blocked
        | none => .ready
    s.modQ n fun q => { q with st }
  | _ => s

/-- A queue is looked at again. -/
def State.kickQueue (s : State) (n : Nat) : State := (s.settleQueue n).askHead n

/-! ## Completion of an entry (R224, R225, R239) -/

/-- What a write of the front end comes to. -/
inductive FrontWrite where
  | done (s : State)
  | wait (s : State)
  | failed (s : State)

/-- The front end's write of a completion record at a scalar address; one to a lent page waits, with no bound (R288). -/
def State.frontWrite (s : State) (n seq : Nat) (a : W64) (bs : List Byte) : FrontWrite :=
  let s := s.asFront n
  let k := frontKey n
  let t := s.thOf k
  let who := frontCrec seq
  match scalarTarget (coreOf k) a with
  | .paged tgt v =>
    match s.translate ioCore t.ctx false .write [tgt] v with
    | .ok flat leaf =>
      if tgt == 1 && (s.cxl.get {} (flat / 2 ^ 40 % 4)).down then .failed s
      else .done ((s.storeBytes none flat bs).touched k who flat bs.length leaf true)
    | .lent _ => .wait s
    | .unpulled sid seg f => .wait (if f then s else s.startPull unitIo t.ctx sid seg t.part t.owner none)
    | .malformed x => .failed (s.log (s.part t.part).func 3 x 0)
    | _ => .failed s
  | .remote pkg off =>
    match s.remote k who false pkg off bs.length (.write bs) with
    | .replied _ => .done (s.endReplies k who)
    | .stall _ s => .wait s
    | _ => .failed (s.endReplies k who)
  | _ => .failed s

/-- Completed sequence numbers pass (R222); a queue drained of its entries is disabled (R225). -/
def QueueSt.pass (q : QueueSt) (fin : List Nat) : QueueSt :=
  let l := q.fin ++ fin
  let c := passDone l.length q.compl l
  { q with compl := c, fin := l.filter fun x => decide (c ≤ x), st := if q.st == .draining && c == q.tail then .disabled else q.st }

/-- Every queue whose head may wait for a count is looked at again: a count has moved. -/
def State.unblock (s : State) : State :=
  (s.queues.filter fun e => e.2.st == .blocked || e.2.st == .draining).foldl (fun s e =>
    let s := s.settleQueue e.1
    if (s.q e.1).st == .blocked then s else s.askHead e.1) s

/-- An entry has completed: its record is in place. DESIGN CHOICE (log entry 59): a context left with no group and nothing to place
becomes Created. -/
def State.endEntry (s : State) (l : Launch) : State :=
  let s : State := { s with launches := s.launches.filter fun x => x.id != l.id }
  let s := if (s.q l.q).st == .disabled then s else s.modQ l.q (·.pass [l.seq])
  let s := if l.irq then s.modFn (s.part l.part).func fun f => { f with irqs := f.irqs + 1 } else s
  ((s.unblock.kickQueue l.q).settleCtx l.ctx)

/-- The completion record, then the end of the entry. -/
def State.completeEntryOf (s : State) (l : Launch) : State :=
  let c := l.crec
  let bad := fun (s : State) => (s.log (s.part l.part).func 10 c.toNat 0).endEntry l
  if c == 0 then s.endEntry l
  else if c.toNat % 8 != 0 then bad s
  else match s.frontWrite l.q l.seq c (leBytes 8 (l.status + l.seq % 2 ^ 56 * 2 ^ 8)) with
    | .done s => s.endEntry l
    | .wait s => s
    | .failed s => bad s

/-- Whether a segment pull that a launch's groups started is in flight. -/
def State.pullsOpen (s : State) (l : Nat) : Bool := s.holders.any fun h => h.pullers.any fun p => p.2 == l && h.flight.contains p.1

/-- LAUNCH_COMPLETE (R239): every group has retired, and every strip and pull is performed. -/
def execLaunchComplete (id : Nat) (s : State) : Host.Outcome State Fault Refusal :=
  .next <| match s.lau id with
    | none => s
    | some l =>
      let st := (s.ctx l.ctx).st
      if l.retired != l.n || l.placed != l.n || s.threads.any (fun e => e.2.exitedOf == some id) || s.pullsOpen id
          || st == .tearing || st == .dead then s
      else s.completeEntryOf l

/-! ## The kernel descriptor (R232, R233) -/

/-- Whether a used level stands above an unused one. -/
def gaps : List Nat → Bool
  | a :: b :: l => (a == 0 && b != 0) || gaps (b :: l)
  | _ => false

/-- The product of the trip counts of the levels marked C (R234). -/
def groupsOf (marks trip : List Nat) : Nat :=
  ((marks.zip trip).filter fun p => p.1 == 2).foldl (fun a p => a * p.2) 1
/-- The trip count of the level marked D; 0 when no level is. -/
def spanOf (marks trip : List Nat) : Option Nat := ((marks.zip trip).find? fun p => p.1 == 3).map (·.2)

/-- The kernel of a descriptor's 128 bytes. -/
def kernelOf (x : Nat) : Kernel :=
  { entry := BitVec.ofNat 64 (bits x 63 0), marks := [bits x 65 64, bits x 67 66, bits x 69 68, bits x 71 70]
    lg := bits x 75 72, bks := bit x 76, sup := bit x 79, scrb := bits x 88 80, palm := bits x 119 96
    gc := bits x 129 128, cb := bits x 135 132, ltag := (tagOfCode (bits x 141 136)).getD .n64
    tags := (List.range 32).map fun n => (tagOfCode (bits x (199 + 8 * n) (192 + 8 * n))).getD .n64 }

/-- Whether a descriptor fails checks 2 to 9 of R233. -/
def kernelBad (s : State) (part : Nat) (ctxSup : Bool) (x : Nat) (trip : List Nat) : Bool :=
  let k := kernelOf x
  let p := s.part part
  let d := spanOf k.marks trip
  bits x 95 89 != 0 || bits x 127 120 != 0 || bits x 131 130 != 0 || bits x 191 142 != 0 || bits x 1023 448 != 0
    || decide (1 < bits x 78 76) || (k.sup && !ctxSup) || k.entry.toNat % 4 != 0 || gaps k.marks
    || decide (1 < (k.marks.filter (· == 3)).length) || d.any (fun n => n == 0 || decide (4 < n) || decide (p.dies.length < n))
    || k.lg == 0 || decide (8 < k.lg) || (p.cores.all fun c => decide ((s.core c).work < k.lg)) || decide (384 < k.scrb)
    || (tagOfCode (bits x 141 136)).isNone || ((List.range 32).any fun n => (tagOfCode (bits x (199 + 8 * n) (192 + 8 * n))).isNone)
    || decide (2 ^ 24 < groupsOf k.marks trip)

/-! ## Taking the head (R225, R226) -/

/-- The launch record of an entry taken at sequence `seq`, with no group yet. -/
def entryLaunch (s : State) (n seq x : Nat) (kern : Kernel) : Launch :=
  let q := s.q n
  { id := s.nextId, q := n, seq, ctx := q.ctx, part := (s.ctx q.ctx).part, kern
    trip := [bits x 415 384, bits x 447 416, bits x 479 448, bits x 511 480]
    args := BitVec.ofNat 64 (bits x 191 128), crec := BitVec.ofNat 64 (bits x 383 320), irq := bit x 12
    n := 0, span := 0, placed := 0, retired := 0, seqw := q.seqw, status := 0 }

/-- The queue is errored, HEAD staying on the entry (R225). -/
def State.errQueue (s : State) (n code : Nat) : State := (s.endFront n).modQ n fun q => { q with st := .errored, err := code }

/-- An entry that places no group completes with a status. -/
def State.endAtHead (s : State) (l : Launch) (status : Nat) : State :=
  let l := { l with status }
  ({ s with launches := s.launches ++ [l] } : State).completeEntryOf l

/-- A launch whose kernel passed its checks reaches the dispatcher (R234, R238, R241). -/
def State.submit (s : State) (l : Launch) : State :=
  let n := groupsOf l.kern.marks l.trip
  let l := { l with n, span := (spanOf l.kern.marks l.trip).getD 0 }
  if n == 0 then s.endAtHead { l with n := 0 } 0
  else if l.kern.bks && !s.coResident l then s.endAtHead { l with n := 0 } 1
  else
    let fresh := !s.runnable l.ctx
    let s : State := { s with launches := s.launches ++ [l], pend := s.pend.upd [] l.part (· ++ [.launch l.id]) }
    let s := if fresh then s.becomesRunnable l.ctx else s
    ((s.modQ l.q fun q => { q with placing := some l.id }).updateHolds l.part).later (.placeGroup l.part)

/-- The head is taken: HEAD moves on, and the entry runs. -/
def State.takeHead (s : State) (n x : Nat) (sel : Bool) (desc : Option Nat) : State :=
  let seq := (s.q n).head
  let l := entryLaunch s n seq x (kernelOf (desc.getD 0))
  let s : State := { s.endFront n with nextId := s.nextId + 1 }
  let s := (s.modQ n fun q => { q with head := q.head + 1 }).kickQueue n
  if !sel then s.endAtHead l 2
  else if bits x 7 0 == 2 then s.endAtHead l 0
  else match desc with
    | none => s.endAtHead l 3
    | some d => if kernelBad s l.part (s.ctx l.ctx).sup d l.trip then s.endAtHead l 3 else s.submit l

/-- The predicate of a conditional entry: whether it selects the launch (R226). -/
def selects (x w : Nat) : Bool := (w != 0) != bit x 9

/-- What a read of the descriptor comes to: none when it fails check 1 of R233. -/
inductive DescOut where
  | desc (s : State) (d : Option Nat)
  | wait (s : State)

/-- Reads the descriptor of a launch (R233 check 1). -/
def State.readDesc (s : State) (n x : Nat) : DescOut :=
  let a := BitVec.ofNat 64 (bits x 127 64)
  if bits x 7 0 != 1 || a.toNat % 128 != 0 then .desc s none
  else match s.frontRead n 0 (scalarTarget (coreOf (frontKey n))) a 128 with
    | .ok s bs => .desc s (some (leNat bs))
    | .fault s _ _ _ => .desc s none
    | .wait s _ => .wait s

/-- The predicate is read at the head, and the entry taken. -/
def State.judgeHead (s : State) (n x : Nat) : State :=
  match s.readDesc n x with
  | .wait s => s
  | .desc s d =>
    if !bit x 8 then s.takeHead n x true d
    else
      let a := BitVec.ofNat 64 (bits x 255 192)
      match s.frontRead n frontPred (scalarTarget (coreOf (frontKey n))) a 8 with
      | .wait s _ => s
      | .fault s _ _ _ => s.errQueue n 4
      | .ok s bs => s.takeHead n x (selects x (leNat bs)) d

/-- QUEUE_HEAD_TAKE (R225): the front end reads the head entry, checks it, and takes it once its dependences are met. -/
def State.headTake (s : State) (n : Nat) : State :=
  let q := s.q n
  let x := s.ctx q.ctx
  let open_ := q.st == .ready || q.st == .blocked || q.st == .draining
  if !open_ || q.head == q.tail || q.placing.isSome || x.st == .dead || x.st == .tearing || x.st == .frozen then s
  else match s.frontRead n 0 q.target (q.slot q.head) 64 with
    | .wait s _ => s
    | .fault s _ _ _ => s.errQueue n 5
    | .ok s bs =>
      let e := leNat bs
      if bits e 7 0 != 1 && bits e 7 0 != 2 then s.errQueue n 1
      else if bits e 31 13 != 0 || bits e 63 46 != 0 then s.errQueue n 2
      else if bit e 11 && !(s.part x.part).hasQ (bits e 45 32) then s.errQueue n 3
      else if bit e 8 && bits e 255 192 % 8 != 0 then s.errQueue n 4
      else if !s.depsMet n e then if q.st == .draining then s else s.modQ n fun q => { q with st := .blocked }
      else s.judgeHead n e

/-- QUEUE_HEAD_TAKE. -/
def execQueueHeadTake (n : Nat) (s : State) : Host.Outcome State Fault Refusal := .next (s.headTake n)

/-! ## The queue window (R222, R225, R227, R397) -/

/-- A QTAIL write. -/
def State.writeTail (s : State) (func n : Nat) (v : Nat) : State :=
  let q := s.q n
  if q.src || decide (v < q.tail) || decide (q.head + 2 ^ q.logd < v) then s.log func 4 (64 * n + 0x10) 0
  else match q.st with
    | .empty | .ready | .blocked => if v == q.tail then s else (s.modQ n fun q => { q with tail := v }).kickQueue n
    | _ => s

/-- The fields of QCTL that a disabled queue takes. -/
def QueueSt.config (q : QueueSt) (v : Nat) : QueueSt :=
  { q with ctx := bits v 11 0, logd := bits v 16 12, src := bit v 17, sp := bit v 18, seqw := bits v 26 19 }
/-- EN: an enabled queue starts empty. -/
def QueueSt.enable (q : QueueSt) : QueueSt :=
  { q with st := .empty, head := 0, tail := 0, compl := 0, err := 0, fin := [], placing := none }

/-- CLR: an errored queue is empty, its entries discarded. -/
def State.clearQueue (s : State) (n : Nat) : State :=
  if (s.q n).st != .errored then s
  else (s.modQ n fun q => ({ q with head := q.tail, st := .empty, err := 0 } : QueueSt).pass
    ((List.range (q.tail - q.head)).map (q.head + ·))).unblock
/-- DRAIN: the queue takes no more entries. -/
def State.drainQueue (s : State) (n : Nat) : State :=
  match (s.q n).st with
  | .empty | .ready | .blocked => (s.modQ n fun q => ({ q with st := .draining } : QueueSt).pass []).askHead n
  | _ => s
/-- EN: a disabled queue is empty. -/
def State.enableQueue (s : State) (n : Nat) : State := if (s.q n).st == .disabled then s.modQ n (·.enable) else s

/-- A QCTL write: the configuration of a disabled queue, then CLR, DRAIN and EN in the order of R225's table. -/
def State.writeCtl (s : State) (func n v : Nat) : State :=
  let dis := (s.q n).st == .disabled
  let p := s.part ((s.partOf func).getD 0)
  let badCfg := !p.hasCtx (bits v 11 0) || decide (bits v 16 12 < 6) || decide (16 < bits v 16 12) || bits v 26 19 == 0
  if bits v 63 30 != 0 || (dis && badCfg) then s.log func 4 (64 * n + 8) 0
  else
    let s := s.modQ n fun q => { (if dis then q.config v else q) with en := bit v 27 }
    let s := if bit v 29 then s.clearQueue n else s
    let s := if bit v 28 then s.drainQueue n else s
    if bit v 27 then s.enableQueue n else s

/-- The state code of a queue (R222). -/
def QState.code : QState → Nat
  | .disabled => 0 | .empty => 1 | .ready => 2 | .blocked => 3 | .draining => 4 | .errored => 5
/-- What a read of a queue's window returns (R5, R222); none at an unmapped offset. -/
def QueueSt.window (q : QueueSt) : Nat → Option W64
  | 0x00 => some q.base
  | 0x08 => some (BitVec.ofNat 64 (q.ctx + q.logd * 2 ^ 12 + (if q.src then 2 ^ 17 else 0) + (if q.sp then 2 ^ 18 else 0) + q.seqw * 2 ^ 19
      + if q.en then 2 ^ 27 else 0))
  | 0x10 => some (BitVec.ofNat 64 q.tail)
  | 0x18 => some (BitVec.ofNat 64 q.head)
  | 0x20 => some (BitVec.ofNat 64 q.compl)
  | 0x28 => some (BitVec.ofNat 64 (q.st.code + q.err % 256 * 2 ^ 8))
  | _ => none
/-- A read of a queue's window by a function; none where it violates (R342). -/
def State.queueRead (s : State) (func n off : Nat) : Option W64 :=
  if (s.partOf func).any fun p => (s.part p).hasQ n then (s.q n).window off else none

/-- A write to a queue window by a function (R222, R342). -/
def State.queueWrite (s : State) (func n off : Nat) (w : W64) : State :=
  let v := w.toNat
  if (s.fn func).frozen then s
  else match s.partOf func with
    | none => s
    | some p =>
      if !(s.part p).hasQ n then s.violate func (64 * n + off)
      else match off with
        | 0x00 =>
          if (s.q n).st != .disabled then s
          else if v % 4096 != 0 then s.log func 4 (64 * n) 0
          else s.modQ n fun q => { q with base := w }
        | 0x08 => s.writeCtl func n v
        | 0x10 => s.writeTail func n v
        | 0x18 => s
        | 0x20 => s
        | 0x28 => s
        | _ => s.violate func (64 * n + off)

/-- A queue-window write of a function's host, which passes no earlier write of it that is held (R204). -/
def State.hostQueue (s : State) (i : Instr) (func n off : Nat) (w : W64) : State := s.inOrder func i fun s => s.queueWrite func n off w

/-- QTAIL_WRITE (R227). -/
def execQtailWrite (func n : Nat) (w : W64) (s : State) : Host.Outcome State Fault Refusal :=
  .next (s.hostQueue (.qtailWrite func n w) func n 0x10 w)
/-- QUEUE_ENABLE (R225): a QCTL write that carries EN. -/
def execQueueEnable (func n : Nat) (w : W64) (s : State) : Host.Outcome State Fault Refusal :=
  .next (s.hostQueue (.queueEnable func n w) func n 0x08 (w ||| BitVec.ofNat 64 (2 ^ 27)))
/-- QUEUE_DRAIN (R225): a QCTL write that carries DRAIN. -/
def execQueueDrain (func n : Nat) (w : W64) (s : State) : Host.Outcome State Fault Refusal :=
  .next (s.hostQueue (.queueDrain func n w) func n 0x08 (w ||| BitVec.ofNat 64 (2 ^ 28)))
/-- QUEUE_CLEAR (R225): a QCTL write that carries CLR. -/
def execQueueClear (func n : Nat) (w : W64) (s : State) : Host.Outcome State Fault Refusal :=
  .next (s.hostQueue (.queueClear func n w) func n 0x08 (w ||| BitVec.ofNat 64 (2 ^ 29)))

/-! ## launch (R228) -/

/-- The checks of a launch on its queue, as QFULL's DETAIL. -/
def State.launchBad (s : State) (qn : Nat) : Option Nat :=
  let t := s.th
  let q := s.q qn
  if 16383 < qn || !(s.part t.part).hasQ qn then some 3
  else if q.st == .disabled || q.st == .draining || q.st == .errored || q.ctx != t.ctx then some 3
  else if !q.src then some 2
  else none

/-- The append to the ring, one step (R228, R288). -/
def State.appendEntry (s : State) (qn : Nat) (e : List Byte) : State :=
  let q := s.q qn
  let a := q.slot q.tail
  if q.tail - q.head == 2 ^ q.logd then s.trap cQFULL 1
  else match s.access s.cur 0 (!s.th.sup) .write (q.target a) 64 (.write e) with
    | .at flat leaf =>
      (((s.storeBytes (some s.cur) flat e).touched s.cur 0 flat 64 leaf true).modQ qn fun q => { q with tail := q.tail + 1 }).kickQueue qn
        |>.advance
    | .replied _ => s.trap cPROT 0 a
    | .missed => s.trap cPROT 0 a
    | .fault c m s => s.accessFault c 0 a 0 1 m
    | .stall h s => s.holdOn h

/-- LAUNCH (R228). -/
def execLaunch (a b : SReg) (s : State) : Host.Outcome State Fault Refusal :=
  let qn := (s.getS a).toNat
  let ea := s.getS b
  .next <|
    if ea.toNat % 64 != 0 then s.trap cMISALIGN 0 ea
    else match s.launchBad qn with
      | some d => s.trap cQFULL d
      | none => s.whenPerformed fun s => s.read64 ea fun s e => s.appendEntry qn e

end Sys2Proof.Machine
end

