-- ==== Sys2Proof/Machine/Context.lean ====
section
/-! DEFINITION. Contexts: the commands of a function's management window on them, freezing, teardown, reset of a function
(R207–R212, R219–R221, R343), and fault records (R268, R272, R273). -/

namespace Sys2Proof.Machine

/-! ## Commands (R208, R343) -/

/-- The code of a context state (R210). -/
def CtxState.code : CtxState → Nat
  | .created => 0 | .resident => 1 | .running => 2 | .preempting => 3 | .saved => 4 | .faulted => 5 | .frozen => 6
  | .tearing => 7 | .dead => 8

/-- MSTAT of a command that has been carried out; BUSY stands until it completes. -/
def mstatOf (status state : Nat) (qraised : Bool) : W64 :=
  BitVec.ofNat 64 (status % 256 + state * 2 ^ 8 + (if qraised then 2 ^ 12 else 0) + 2 ^ 63)

/-- OP of MCMD. -/
def FuncSt.op (f : FuncSt) : Nat := bits f.mcmd.toNat 3 0
/-- The context that MCMD names. -/
def FuncSt.cmdCtx (f : FuncSt) : Nat := bits f.mcmd.toNat 15 4

/-- The status of a command, and what QUERY returns beside it. -/
def State.finishCmd (s : State) (func status : Nat) (state : Nat := 0) (qraised : Bool := false) : State :=
  (s.modFn func fun f => { f with mstat := mstatOf status state qraised, todo := false }).later (.commandComplete (.mgmt func))

/-- Carries out the command `op` of a function's window, once, when it has been started. -/
def State.command (s : State) (func op : Nat) (f : State → Nat → State) : State :=
  match s.partOf func with
  | none => if (s.fn func).todo && (s.fn func).op == op then s.finishCmd func 1 else s
  | some p => if (s.fn func).todo && (s.fn func).op == op then f s p else s

/-- A quantum below SAVEMAX is raised (R208). -/
def raiseQuant (saveMax q : Nat) : Nat × Bool :=
  let need := cdiv saveMax 1024
  if q < need then (need, true) else (q, false)

/-! ## CREATE (R207) -/

/-- Whether a field of a descriptor is refused with status 3. -/
def descBad (x : Nat) : Bool :=
  bits x 23 19 != 0 || bits x 63 56 != 0 || bits x 255 208 != 0 || bits x 511 384 != 0 || bits x 75 64 != 0
    || bits x 55 32 == 0 || bits x 321 320 != 0

/-- Whether a save area is refused with status 4. -/
def saveBad (p : PartSt) (base cnt : Nat) : Bool :=
  base % 65536 != 0 || cnt == 0
    || !((List.range (cdiv (base % 2 ^ 33 + cnt * 2 ^ 22) (2 ^ 33))).all fun i => p.slices.contains (base / 2 ^ 33 + i))

/-- The status with which CREATE is refused, if it is. -/
def State.createBad (s : State) (p x : Nat) : Option Nat :=
  let n := bits x 11 0
  if !(s.part p).hasCtx n then some 1
  else if (s.ctx n).st != .dead then some 2
  else if descBad x then some 3
  else if saveBad (s.part p) (bits x 191 128) (bits x 207 192) then some 4
  else none

/-- A context as its descriptor makes it. -/
def ctxOf (p saveMax x : Nat) : CtxSt :=
  let q := raiseQuant saveMax (bits x 55 32)
  { st := .created, part := p, owner := bits x 17 12, sup := bit x 18, weight := bits x 31 24, quant := q.1, qraised := q.2
    ptroot := bits x 127 64, savebase := BitVec.ofNat 64 (bits x 191 128), savecnt := bits x 207 192
    peertab := BitVec.ofNat 64 (bits x 319 256), tvec := BitVec.ofNat 64 (bits x 383 320) }

/-- Zeroes a range of memory. -/
def State.zeroMem (s : State) (a n : Nat) : State :=
  { s with mem := s.mem.filter fun x => !(decide (a ≤ x.1) && decide (x.1 < a + n)) }

/-- CREATE: the descriptor is read once, at its host bus address, over link 0, for the function's partition (R15, R317). -/
def State.createCtx (s : State) (func p : Nat) : State :=
  let a := (s.fn func).marg.toNat
  if a % 64 != 0 || !(s.pcie.get {} 0).up then s.finishCmd func 7
  else
    let x := s.load (hostFlat a) 64
    let s := s.hostRequest 0 false (s.hostKey func) 64 false
    match s.createBad p x with
    | some st => s.finishCmd func st
    | none =>
      let n := bits x 11 0
      let s := s.modCtx n fun _ => ctxOf p (s.part p).saveMax x
      let s := s.zeroMem (bits x 191 128) (bits x 207 192 * 2 ^ 22)
      let s := (s.queues.filter fun e => e.2.ctx == n).foldl (fun s e => s.kickQueue e.1) s
      s.finishCmd func 0

/-- CREATE (R208). -/
def execCreate (func : Nat) (s : State) : Host.Outcome State Fault Refusal :=
  .next (s.command func 1 fun s p => s.createCtx func p)

/-- SETSLICE (R208): the values take effect at the next slice decision. -/
def execSetslice (func : Nat) (s : State) : Host.Outcome State Fault Refusal :=
  .next <| s.command func 2 fun s p =>
    let c := (s.fn func).cmdCtx
    let x := (s.fn func).marg.toNat
    let st := (s.ctx c).st
    if !(s.part p).hasCtx c then s.finishCmd func 1
    else if bits x 31 8 == 0 then s.finishCmd func 3
    else if st == .dead || st == .tearing then s.finishCmd func 5
    else
      let q := raiseQuant (s.part p).saveMax (bits x 31 8)
      (s.modCtx c fun y => { y with sliceNext := some (bits x 7 0, q.1), qraised := q.2 }).finishCmd func 0

/-- QUERY (R208). -/
def execQuery (func : Nat) (s : State) : Host.Outcome State Fault Refusal :=
  .next <| s.command func 5 fun s p =>
    let c := (s.fn func).cmdCtx
    if !(s.part p).hasCtx c then s.finishCmd func 1
    else s.finishCmd func 0 (s.ctx c).st.code (s.ctx c).qraised

/-! ## Freezing (R219) -/

/-- Whether FREEZE takes a context in this state. -/
def CtxState.freezable : CtxState → Bool
  | .running | .resident | .preempting | .saved | .faulted => true
  | _ => false

/-- FREEZE (R208, R219). -/
def execFreeze (func : Nat) (s : State) : Host.Outcome State Fault Refusal :=
  .next <| s.command func 3 fun s p =>
    let c := (s.fn func).cmdCtx
    if !(s.part p).hasCtx c then s.finishCmd func 1
    else if !(s.ctx c).st.freezable then s.finishCmd func 5
    else (s.freezeCtx c 0xFF none).finishCmd func 0

/-- Marks the records of the state an error struck: the group of a thread, or the saved groups of the context. -/
def State.poison (s : State) (c : Nat) (k : Option ThreadKey) : State :=
  { s with groups := s.groups.map fun g =>
      if g.ctx == c && (match k with
        | some k => (s.thOf k).group == some g.id
        | none => g.st == .saved) then { g with poisoned := true } else g }

/-- SOFT_ERROR (R219): an uncorrectable error in a context's loaded state (a thread's) or saved state. -/
def execSoftError (c : Nat) (k : Option ThreadKey) (s : State) : Host.Outcome State Fault Refusal :=
  .next (if (s.ctx c).st.freezable then (s.poison c k).freezeCtx c 0xFE k else s)

/-! ## Fault records (R268, R272, R273, R345) -/

/-- The 32 bytes of a fault record. -/
def faultBytes (f : FaultRec) : List Byte :=
  leBytes 8 (f.ctx % 2 ^ 12 + f.owner % 2 ^ 6 * 2 ^ 12 + f.path % 8 * 2 ^ 18 + f.kind % 4 * 2 ^ 21 + (if f.migw then 2 ^ 23 else 0))
    ++ leBytes 8 f.va.toNat ++ leBytes 8 (f.core % 2 ^ 11 + f.thr % 4 * 2 ^ 11) ++ leBytes 8 f.seq

/-- Whether the event ring takes a record. -/
def FuncSt.ringOpen (f : FuncSt) : Bool := bit f.evctl.toNat 5 && decide (f.evwr - f.evrd < 2 ^ bits f.evctl.toNat 4 0)

/-- Whether a record may reach its function's ring: the ring has room, and no earlier record of the same unit waits for any ring (R273,
R345). -/
def State.mayDeliver (s : State) (func : Nat) (r : FaultRec) : Bool :=
  (s.fn func).ringOpen && !s.funcs.any fun e => e.2.waiting.any fun w => dieOf w.core == dieOf r.core && decide (w.seq < r.seq)

/-- A record is written to its ring. -/
def State.putFault (s : State) (func : Nat) (r : FaultRec) : State :=
  let f := s.fn func
  (ringPut s f.evbase (bits f.evctl.toNat 4 0) f.evwr 32 (faultBytes r)).modFn func fun f => { f with evwr := f.evwr + 1 }

/-- A fault record reaches its function's ring, or waits for it (R345). -/
def State.deliverFault (s : State) (func : Nat) (r : FaultRec) : State :=
  if (s.fn func).waiting.isEmpty && s.mayDeliver func r then s.putFault func r
  else s.modFn func fun f => { f with waiting := f.waiting ++ [r] }

/-- Delivers up to `n` of the records that wait. -/
def State.deliverWaiting : Nat → State → State
  | 0, s => s
  | n + 1, s => match s.funcs.findSome? fun e => (e.2.waiting.head?.filter (s.mayDeliver e.1)).map fun r => (e.1, r) with
    | none => s
    | some (f, r) => State.deliverWaiting n ((s.modFn f fun x => { x with waiting := x.waiting.drop 1 }).putFault f r)

/-- Delivers the records that wait for a ring, as far as there is room. -/
def State.flushRings (s : State) : State := State.deliverWaiting (s.funcs.foldl (fun n e => n + e.2.waiting.length) 0) s

/-- Unposted records are looked at again: a unit has room. -/
def State.retryPosts (s : State) : State :=
  { s with agenda := s.agenda ++ (s.faults.filter (!·.posted)).map fun f => Turn.event (.faultRecordPost (dieOf f.core)) }

/-- Records that pass a test are removed, those that wait for a ring among them (R268). -/
def State.dropRecords (s : State) (p : FaultRec → Bool) : State :=
  (({ s with
    faults := s.faults.filter fun f => !p f
    funcs := s.funcs.mapV fun _ x => { x with waiting := x.waiting.filter fun f => !p f } } : State).flushRings).retryPosts

/-- Pending records of a die's unit that have been posted. -/
def State.pendingOf (s : State) (d : Nat) : Nat := (s.faults.filter fun f => dieOf f.core == d && f.posted).length

/-- FAULT_RECORD_POST (R272 step 2): the oldest unposted record of a die's unit is posted, when the unit has room. -/
def execFaultRecordPost (d : Nat) (s : State) : Host.Outcome State Fault Refusal :=
  .next <| match s.faults.find? fun f => dieOf f.core == d && !f.posted with
    | none => s
    | some f =>
      if 1024 ≤ s.pendingOf d then s
      else
        let q := s.unitSeq.get 0 d + 1
        let r := { f with seq := q, posted := true }
        let s : State := { s with
          unitSeq := s.unitSeq.put d q
          faults := s.faults.map fun g => if g == f then r else g }
        s.deliverFault (s.part f.part).func r

/-! ## Teardown (R221) and reset of a function (R220) -/

/-- The queues of a context are disabled and their entries discarded (R225). -/
def State.dropQueues (s : State) (c : Nat) : State :=
  { s with queues := s.queues.mapV fun _ q =>
      if q.ctx == c && q.st != .disabled then { q with st := .disabled, placing := none, fin := [] } else q }

/-- The threads of a context on a core: its groups', and those whose strips run on. -/
def State.threadsOf (s : State) (c core : Nat) : List ThreadKey :=
  (keysOf core).filter fun k => (s.thOf k).ctx == c && ((s.thOf k).group.isSome || (s.thOf k).exitedOf.isSome)

/-- The cores that a context holds. -/
def State.coresHeld (s : State) (c : Nat) : List Nat :=
  (((s.groups.filter fun g => g.ctx == c && g.st.holds).map fun g => g.mems.map (·.1)).flatten
    ++ (s.threads.filter fun e => e.2.ctx == c && e.2.exitedOf.isSome).map fun e => coreOf e.1).eraseDups

/-- The cycles of a teardown's clean: to the context's owner, or at a reset to the partition itself. -/
def State.chargeTeardown (s : State) (c core : Nat) (reset : Bool) : State :=
  if !reset then s.chargeClean core none
  else
    let p := (s.ctx c).part
    { s with freeCtr := s.freeCtr + 1, pkgDelay := s.pkgDelay.upd 0 (pkgIdx clsSeq p p) (sat48 · (cleanCycles s.freeCtr)) }

/-- The groups of other contexts that hold a core. -/
def State.others (s : State) (c core : Nat) : List Group := (s.holding core).filter (·.ctx != c)

/-- Whether every other context on a core tears down by the reset that tears down `c`, so that the last of them cleans it (R220). -/
def State.leftToLast (s : State) (c core : Nat) : Bool :=
  (s.ctx c).byReset && !(s.others c core).isEmpty && (s.others c core).all fun g => (s.ctx g.ctx).st == .tearing && (s.ctx g.ctx).byReset

/-- The clean of one core at a teardown: whole, or confined to the context's share of it (R218). -/
def State.cleanOf (s : State) (c core : Nat) : State :=
  if s.leftToLast c core then s
  else
    let reset := (s.ctx c).byReset
    let s := s.chargeTeardown c core reset
    if (s.others c core).isEmpty then (s.cleanCore core).modCore core fun x => { x with clean := true, wiped := reset }
    else
      let s := (s.holding core).foldl (fun s g => if g.ctx == c then s.zeroSpad core g.scrOff (g.scrb * 4096) else s) s
      ((s.threadsOf c core).foldl (fun s k => (s.freeClaims k).cleanThread k) s).dropTlb fun t => t.unit == core && t.ctx == c

/-- Every group of a context stops with no save, its instructions in flight completing (R41); false while one of them waits. -/
def State.stopAll (s : State) (c : Nat) : State × Bool :=
  (s.groups.filter fun g => g.ctx == c && (g.st == .loaded || g.st == .stopping)).foldl (fun a g =>
    let (s, b) := stopPipe (a.1.thOf g.home).pipe.length a.1 g.home
    (s.performAll g.home, a.2 && b)) (s, true)

/-- Steps 2 and 3 of a teardown: the groups stop, the cores are cleaned, and the groups are gone; false while one has not stopped. -/
def State.strip (s : State) (c : Nat) : State × Bool :=
  let s : State := { s with groups := s.groups.map fun g => if g.ctx == c && g.st == .loaded then { g with st := .stopping } else g }
  let (s, ok) := s.stopAll c
  if !ok then (s, false)
  else
    let s := (s.coresHeld c).foldl (fun s core => s.cleanOf c core) s
    let gs := s.groups.filter fun g => g.ctx == c
    let s := gs.foldl (fun s g => ((if g.st.holds then g.mems.foldl (fun s m => s.setLg m.1 m.2 0) s else s).endWaits g.id)) s
    ({ s with groups := s.groups.filter fun g => g.ctx != c }, true)

/-- Step 1 of a teardown. The record of a save that a reset abandons keeps the bytes that stand in it: DESIGN CHOICE (log entry 60). -/
def State.beginTear (s : State) (c : Nat) (reset : Bool) : State :=
  let p := (s.ctx c).part
  let s := (s.modCtx c fun x => { x with st := .tearing, waits := [], byReset := reset }).dropQueues c
  { s with
    pend := s.pend.upd [] p fun l => l.filter fun i => s.itemCtx i != c
    launches := s.launches.filter fun l => l.ctx != c }

/-- Steps 2 and 3 as far as they go, and the rest of the teardown to come. -/
def State.goOnTear (s : State) (c : Nat) : State :=
  let p := (s.ctx c).part
  (((s.strip c).1.updateHolds p).later (.placeGroup p)).later (.teardownComplete c)

/-- A teardown's steps 1 to 3. -/
def State.tearDown (s : State) (c : Nat) (reset : Bool) : State := (s.beginTear c reset).goOnTear c

/-- TEARDOWN (R208, R221). -/
def execTeardown (func : Nat) (s : State) : Host.Outcome State Fault Refusal :=
  .next <| s.command func 4 fun s p =>
    let c := (s.fn func).cmdCtx
    let st := (s.ctx c).st
    if !(s.part p).hasCtx c then s.finishCmd func 1
    else if st == .dead || st == .tearing then s.finishCmd func 5
    else (s.tearDown c false).finishCmd func 0

/-- TEARDOWN_COMPLETE (R221 steps 4 to 6, R259, R268): links, pages and barriers go, and the context is dead. -/
def execTeardownComplete (c : Nat) (s : State) : Host.Outcome State Fault Refusal :=
  .next <|
    if (s.ctx c).st != .tearing then s
    else
      let p := (s.ctx c).part
      let (s, stopped) := s.strip c
      if !stopped then s
      else
      let s := (s.tearLinks c).dropBars c
      let s := (s.dropTlb (·.ctx == c)).dropRecords (·.ctx == c)
      (s.modCtx c fun _ => { st := .dead, part := p }).later (.placeGroup p)

/-- FUNCTION_RESET (R220, R342): every context of its partition tears down at once, and the function's freeze ends. -/
def execFunctionReset (func : Nat) (s : State) : Host.Outcome State Fault Refusal :=
  .next <| match s.partOf func with
    | none => s
    | some p =>
      let s := s.modFn func fun f => { f with frozen := false }
      let cs := (s.ctxsOf p).filter fun c => (s.ctx c).st != .tearing
      cs.foldl (fun s c => s.goOnTear c) (cs.foldl (fun s c => s.beginTear c true) s)

/-! ## Completion of a command (R271, R343, R352) -/

/-- The stores of a context that wait to be performed, which used the translations of their time, are performed (R271). -/
def State.performCtx (s : State) (c : Nat) : State :=
  ((s.threads.filter fun e => e.2.ctx == c && !e.2.pending.isEmpty).map (·.1)).foldl State.performAll s

/-- BUSY clears; INVAL and PAGEDONE end once every access that used an old entry is performed (R271). -/
def State.endCommand (s : State) (src : CmdSrc) : State :=
  match src with
  | .mgmt func =>
    let f := s.fn func
    if f.todo then s
    else (if f.op == 6 || f.op == 7 then s.performCtx f.cmdCtx else s).modFn func fun f =>
      { f with mstat := BitVec.ofNat 64 (f.mstat.toNat % 2 ^ 63) }
  | .pgcmd k =>
    if (s.thOf k).pgcmd.todo then s
    else (s.performCtx (s.thOf k).ctx).modTh k fun t =>
      { t with pgcmd := { t.pgcmd with busy := false }, hold := if t.hold = .command then .none else t.hold }
  | .debug r =>
    if s.dbg.todo then s
    else match r with
      | none => { s with dbg := { s.dbg with busy := false } }
      | some (st, x) => { s with dbg := { s.dbg with busy := false, status := st, ddata := x } }

/-- COMMAND_COMPLETE (R343, R271, R352): a command carried out ends, and BUSY clears. -/
def execCommandComplete (src : CmdSrc) (s : State) : Host.Outcome State Fault Refusal := .next (s.endCommand src)

end Sys2Proof.Machine
end

