-- ==== Sys2Proof/Machine/Page.lean ====
section
/-! DEFINITION. Pages: cached translations, INVAL and PAGEDONE (R264–R271). -/

namespace Sys2Proof.Machine

/-! ## Cached translations (R269) -/

/-- The table entries that a walk reads (R262). -/
def walkAddrs (mem : List Host.Cell) (slices : List Nat) (va : Nat) : List (Nat × Nat × Bool) → Nat → List Nat
  | [], _ => []
  | (lo, n, _) :: rest, base =>
    let addr := base + va / 2 ^ lo % 2 ^ n * 8
    let e := leNat (memGets mem addr 8)
    addr :: if bit e 0 && !bit e 1 && tableOk rest.isEmpty (rest.length == 1) e then walkAddrs mem slices va rest (bits e 51 8 * 2 ^ 8) else []

/-- The requests of a walk for a core, under the key of its context: 5 beats at its unit's walkers, and the reads of the table entries
(R15, R269). -/
def State.walkReqs (s : State) (core c va : Nat) : State :=
  let x := s.ctx c
  let key := keyOf x.part x.owner
  let d := tlbUnit core - 1536
  (walkAddrs s.mem (s.part x.part).slices va levels x.ptroot).foldl (fun s a => s.accessReqs (unitWalk d) key a 8 false none)
    (s.request (arbNum clsWalk d) key 5)

/-- Caches a leaf in a core or a translation unit. -/
def State.cacheLeaf (s : State) (unit c page : Nat) (leaf : W64) (lvl : Nat) : State :=
  if s.tlb.any fun t => t.unit == unit && t.ctx == c && t.page == page then s
  else { s with tlb := s.tlb ++ [{ unit, ctx := c, page, leaf, lvl }] }

/-- PAGE_WALK (R269): a miss of a core is filled from its translation unit, or by a walk whose leaf both cache. -/
def execPageWalk (miss : Miss) (va : W64) (s : State) : Host.Outcome State Fault Refusal :=
  let core := miss.core
  let c := miss.ctx
  let v := va.toNat % 2 ^ 57
  let page := v / 2 ^ 16
  let held := fun (unit : Nat) => s.tlb.find? fun t => t.unit == unit && t.ctx == c && t.page == page
  .next <|
    if (s.ctx c).st == .dead || (decide (core < 1536) && (held core).isSome) then s
    else match held (tlbUnit core) with
      | some t => if core < 1536 then s.cacheLeaf core c page t.leaf t.lvl else s
      | none =>
        let s := s.walkReqs core c v
        match s.walk c v with
        | .leaf e lo =>
          let s := s.cacheLeaf (tlbUnit core) c page (BitVec.ofNat 64 e) lo
          if core < 1536 then s.cacheLeaf core c page (BitVec.ofNat 64 e) lo else s
        | .malformed a => s.log (s.part (s.ctx c).part).func 3 a 0
        | .invalid => s

/-! ## Ranges (R271) -/

/-- Pages of 64 KiB in a range of SIZE 0, 1 or 2. -/
def rangePages : Nat → Nat
  | 0 => 1
  | 1 => 32
  | _ => 16384

/-- A range of pages: SIZE and the first page; SIZE 3 is the whole context. -/
structure PageRange where
  size : Nat
  base : Nat

/-- Whether a page lies in a range. -/
def PageRange.has (r : PageRange) (page : Nat) : Bool :=
  r.size == 3 || (decide (r.base ≤ page) && decide (page < r.base + rangePages r.size))

/-- The range that a command's fields name. -/
def rangeOf (x : Nat) : PageRange := { size := bits x 5 3, base := bits x 56 16 }

/-- Physical pages that live links hold (R268). -/
def State.lentPages (s : State) : List Nat := ((s.origins.filter (·.st.live)).map (·.pages)).flatten

/-- Whether a leaf maps one of some physical pages. -/
def mapsOne (ps : List Nat) (e lo : Nat) : Bool :=
  ps.any fun p => decide (leafFlat e lo 0 / 65536 ≤ p) && decide (p < leafFlat e lo 0 / 65536 + 2 ^ (lo - 16))

/-- Whether the pages of a range of a context, as cached or as the tables map them, meet one of some physical pages. -/
def State.rangeMeets (s : State) (c : Nat) (r : PageRange) (ps : List Nat) : Bool :=
  !ps.isEmpty && (s.tlb.any (fun t => t.ctx == c && r.has t.page && ps.contains (leafFlat t.leaf.toNat t.lvl (t.page * 65536) / 65536))
    || if r.size == 3 then treeAny s.mem (s.part (s.ctx c).part).slices (mapsOne ps) levels (s.ctx c).ptroot
    else (List.range (rangePages r.size)).any fun i =>
      let va := (r.base + i) * 65536
      match s.walk c va with
      | .leaf e lo => ps.contains (leafFlat e lo va / 65536)
      | _ => false)

/-- Whether any page of a range is lent. -/
def State.rangeLent (s : State) (c : Nat) (r : PageRange) : Bool := s.rangeMeets c r s.lentPages

/-! ## The commands -/

/-- STATUS of a command's fields before it acts: reserved, or not aligned (R271). -/
def rangeBad (mgmt : Bool) (x : Nat) : Option Nat :=
  let r := rangeOf x
  if mgmt && (decide (3 < r.size) || bits x 15 6 != 0 || bits x 59 57 != 0) then some 3
  else if r.size != 3 && r.base % rangePages r.size != 0 then some 2
  else none

/-- Discards the cached translations of a range in every core and unit; the near caches write back and drop the lines of its pages (R267,
R271). -/
def State.discard (s : State) (c : Nat) (r : PageRange) : State :=
  { s.dropTlb fun t => t.ctx == c && r.has t.page with nearLines := s.nearLines.filter fun l => !s.rangeMeets c r [l / 1024] }

/-- INVAL of a range: its STATUS. -/
def State.invalRange (s : State) (c : Nat) (r : PageRange) : State × Nat :=
  if s.rangeLent c r then (s, 1) else (s.discard c r, 0)

/-- A strip that waited for a page of a range goes on, or its channel freezes (R300). -/
def State.pageForStrips (s : State) (c : Nat) (r : PageRange) (refused : Bool) (k : ThreadKey) (ch : Nat) : State :=
  let t := s.thOf k
  let ids := (((t.chan ch).waiting.filter fun w => r.has w.2).map (·.1)).eraseDups
  if t.ctx != c || ids.isEmpty then s
  else if refused then s.freezeCh k ch (ids.foldl min (ids.headD 0)) 2
  else
    let s := s.modCh k ch fun x => { x with waiting := x.waiting.filter fun w => !r.has w.2 }
    ids.foldl (fun s id => s.later ((t.chan ch).performEvent k ch id)) s

/-- The pages of a range arrive (R271, R272 step 4). -/
def State.arrive (s : State) (c : Nat) (r : PageRange) (refused : Bool) : State :=
  let was := (s.ctx c).st
  let s := s.dropRecords fun f => f.ctx == c && r.has (f.va.toNat % 2 ^ 57 / 2 ^ 16)
  let s := s.modCtx c fun x => { x with
    waits := x.waits.map fun w => if w.arrived.isNone && r.has w.page then { w with arrived := some refused } else w }
  let s := (s.threads.map (·.1)).foldl (fun s k => (s.pageForStrips c r refused k 0).pageForStrips c r refused k 1) s
  let s := s.settleCtx c
  if was == .faulted && (s.ctx c).st == .saved then
    ((s.becomesRunnable c).updateHolds (s.ctx c).part).later (.placeGroup (s.ctx c).part)
  else s

/-- PAGEDONE of a range: its STATUS. -/
def State.doneRange (s : State) (c : Nat) (r : PageRange) (refused : Bool) : State × Nat :=
  if s.rangeLent c r then (s, 1) else ((s.discard c r).arrive c r refused, 0)

/-- Runs a page command of either route. -/
def State.pageCommand (s : State) (src : CmdSrc) (op : Nat) (f : State → Nat → Nat → State × Nat) : State :=
  match src with
  | .mgmt func => s.command func (op + 5) fun s p =>
    let c := (s.fn func).cmdCtx
    let x := (s.fn func).marg.toNat
    if !(s.part p).hasCtx c then s.finishCmd func 1
    else match rangeBad true x with
      | some st => s.finishCmd func (16 + st)
      | none =>
        let (s, st) := f s c x
        s.finishCmd func (16 + st)
  | .pgcmd k =>
    let t := s.thOf k
    let x := t.pgcmd.cmd.toNat
    if !t.pgcmd.todo || bits x 1 0 != op then s
    else
      let (s, st) := match rangeBad false x with
        | some st => (s, st)
        | none => f s t.ctx x
      (s.modTh k fun t => { t with pgcmd := { t.pgcmd with status := st, todo := false } }).later (.commandComplete src)
  | .debug _ => s

/-- INVAL (R271). -/
def execInval (src : CmdSrc) (s : State) : Host.Outcome State Fault Refusal :=
  .next (s.pageCommand src 1 fun s c x => s.invalRange c (rangeOf x))
/-- PAGEDONE (R271). -/
def execPagedone (src : CmdSrc) (s : State) : Host.Outcome State Fault Refusal :=
  .next (s.pageCommand src 2 fun s c x => s.doneRange c (rangeOf x) (bit x 2))

end Sys2Proof.Machine
end

