-- ==== Sys2Proof/Machine/System.lean ====
section
/-! DEFINITION. trap, eret, brk, wait, uiret, the fences, rdimb, rdsamp, setwash, and user-level interrupts (R114–R119, R169,
R170, R304, R332, R333, R357). -/

namespace Sys2Proof.Machine

/-! ## Debug events (R353, R358) -/

/-- The stop record of a stopped thread, oldest first: what a trap holds, then what stands in the queues (R114, R351). -/
def Thread.stopRec (t : Thread) : List Entry := t.trap.stop ++ t.pipe

/-- CP of R351: the oldest routed instruction not completed, or PC. -/
def Thread.cp (t : Thread) : W64 :=
  match t.stopRec with
  | e :: _ => e.fu.addr
  | [] => t.pc

/-- The trace record of a debug event: 1 halted, 2 resumed, 3 break. -/
def State.traceDebug (s : State) (k : ThreadKey) (ev : Nat) : State :=
  let t := s.thOf k
  let q := s.unitSeq.get 0 5 + 1
  let s : State := { s with unitSeq := s.unitSeq.put 5 q }
  s.trace (s.part t.part).func
    (leBytes 16 (3 + tidOf k * 2 ^ 4 + coreOf k * 2 ^ 6) ++ leBytes 4 ev ++ leBytes 4 q ++ leBytes 8 0
      ++ leBytes 8 t.pc.toNat ++ leBytes 8 t.cp.toNat ++ List.replicate 80 0)

/-! ## trap, brk, eret, uiret -/

/-- The exit of a control thread: its older instructions complete, then it retires (R115). DESIGN CHOICE (log entry 54): it holds until
its lane threads are gone. -/
def State.exit (s : State) : State :=
  if s.th.fetch.isSome then s.holdOn .join
  else if !s.th.pipe.isEmpty || !s.th.reloc.isEmpty then s.holdOn .none
  else (s.performAll s.cur).retireGroup s.cur

/-- TRAP (R115). -/
def execTrap (code : BitVec 10) (s : State) : Host.Outcome State Fault Refusal :=
  .next <|
    if code.toNat != 0 then s.trapAfter cSVC code.toNat
    else match s.lane with
      | some vp => s.mod fun t => t.modLane vp fun _ => none
      | none => s.exit

/-- A break under halt-on-break (R116, R353): TRAPINFO and TRAPVA as BRK, and the thread halts, once what has started has completed
(R41). -/
def State.breakHalt (s : State) (code : Nat) : State :=
  let d := s.trapDesc cBRK code 0
  if !s.th.canStop then s.holdOn .none
  else (s.mod fun t => { t with
    trap := { t.trap with info := d.info, va := 0 }, halted := true, brkStop := true, hold := .none }).traceDebug s.cur 3

/-- BRK (R116). -/
def execBrk (code : BitVec 10) (s : State) : Host.Outcome State Fault Refusal :=
  .next (if s.th.haltBrk then s.breakHalt code.toNat else s.trap cBRK code.toNat)

/-- ERET (R117); a fetch whose older entries have all completed starts (R107). -/
def execEret (s : State) : Host.Outcome State Fault Refusal :=
  .next <|
    if !s.th.sup then s.trap cPRIV 0
    else if s.th.fetch.isSome then s.holdOn .join
    else ((s.mod fun t => { leaveTrap t with hold := .none }).startFetch s.cur).gateArrivals s.cur

/-- The entry of a user-level handler (R304). -/
def enterUi (t : Thread) : Thread :=
  { t with
    pc := pcField t.ui.vec
    loops := []
    ui := { t.ui with epc := pcField t.pc, taken := t.ui.pend, pend := 0, inn := true, loops := t.loops } }

/-- Whether a thread takes a user-level interrupt at this boundary (R304): not while the front holds for an entry (R30). -/
def Thread.uiDue (t : Thread) : Bool :=
  !t.frontHeld && !t.sup && t.ui.vec.getLsbD 0 && t.ui.pend != 0 && !t.ui.inn

/-- Whether the control front stands between two fetch units: no instruction of it is part-way. -/
def Thread.atBoundary (t : Thread) : Bool :=
  t.hold = .none && t.barHidden.isNone && !t.asked.any (·.1 == 0)

/-- UIRET (R118). -/
def execUiret (s : State) : Host.Outcome State Fault Refusal :=
  .next <|
    if !s.th.ui.inn then s.trap cCTLSTATE 3
    else s.mod fun t => { t with
      pc := pcField t.ui.epc, loops := t.ui.loops, ui := { t.ui with inn := false, loops := [] }, hold := .none }

/-- USER_INTERRUPT_ENTRY (R304). -/
def execUserInterruptEntry (k : ThreadKey) (s : State) : Host.Outcome State Fault Refusal :=
  let t := s.thOf k
  .next (if t.group.isSome && !t.halted && t.atBoundary && t.uiDue then s.modTh k enterUi else s)

/-! ## wait (R119) -/

/-- WAIT (R119): it ends at once when the watch block has been written, or a cause is pending. A write that has ended one wait ends no
second one without a load or atomic between: DESIGN CHOICE (log entry 55). -/
def execWait (s : State) : Host.Outcome State Fault Refusal :=
  .next (if s.th.watchHit || s.th.ui.pend != 0 then s.advance.mod fun t => { t with watchHit := false }
    else s.holdOn (.wait s.th.fu.nextAddr))

/-- WAIT_TIMEOUT (R119): 65,536 scalar cycles have passed. -/
def execWaitTimeout (k : ThreadKey) (s : State) : Host.Outcome State Fault Refusal :=
  .next (s.modTh k (·.endWait))

/-! ## Fences (R169, R170) -/

/-- Whether an entry's accesses lie on the vec path and are not performed. -/
def Entry.vecOpen (e : Entry) : Bool := (e.isMem || e.op == .capp) && e.inAcc && !e.accDone

/-- Whether the earlier accesses that a fence names are performed. -/
def Thread.fenceDone (t : Thread) (ord ty : Nat) : Bool :=
  let scalar := ord == 1 || t.pending.isEmpty
  let vec := !t.pipe.any fun e => e.vecOpen && (ord != 1 || !e.isStore)
  match ty with
  | 0 => scalar && vec
  | 1 => scalar
  | _ => vec

/-- FENCE (R169). A lane thread's accesses are performed as it makes them. -/
def execFence (_scope : BitVec 3) (ord ty : BitVec 2) (s : State) : Host.Outcome State Fault Refusal :=
  .next (if s.lane.isSome || s.th.fenceDone ord.toNat ty.toNat then s.advance else s.holdOn .none)

/-- Whether a channel has a background load that is neither complete nor stopped by a freeze. -/
def Chan.bxOpen (c : Chan) : Bool := c.xfers.any fun x => x.isBx && (!c.frz || c.active.contains x.first)

/-- Whether the FROM set of an xfence is performed (R170). Transfers observed complete have been. -/
def State.fromDone (s : State) (t : Thread) (src : Nat) : Bool :=
  match src with
  | 1 => t.pending.isEmpty && !t.pipe.any (·.vecOpen)
  | 2 => !t.pipe.any fun e => !e.accDone && (match e.op with
    | .mldt | .cbld => true
    | _ => false)
  | 4 => !t.ch0.bxOpen && !t.ch1.bxOpen && !t.pipe.any fun e => !e.accDone && e.op == .bxld
  | 5 => !(s.holders.any fun h => h.ctx == t.ctx && !h.flight.isEmpty) && !t.pipe.any fun e => e.inAcc && !e.accDone
  | _ => true

/-- XFENCE (R170). -/
def execXfence (src _dst _scope : BitVec 3) (s : State) : Host.Outcome State Fault Refusal :=
  .next (if s.fromDone s.th src.toNat then s.advance else s.holdOn (if src.toNat == 5 then .pull else .none))

/-! ## rdimb, rdsamp, setwash -/

/-- The value of rdimb (R332). -/
def State.imbValue (s : State) (k : ThreadKey) (x : Nat) : Nat :=
  let r := s.str (strOf (coreOf k))
  let p := s.part (s.thOf k).part
  let key := bits x 10 4
  if 64 < key || x / 2 ^ 11 != 0 then 0
  else match x % 16 with
    | 4 => r.lastSpread
    | 5 => r.lastWash
    | 6 => r.thrcnt
    | 7 => r.lastL % 256 + (if r.off then 2 ^ 8 else 0) + (if r.lastHalf then 2 ^ 9 else 0) + r.icount % 2 ^ 32 * 2 ^ 32
    | 8 => p.gateu.get 0 key
    | 9 => p.washu.get 0 key
    | n => if n < 4 then r.lastC.getD n 0 else 0

/-- RDIMB (R332). -/
def execRdimb (d a : SReg) (s : State) : Host.Outcome State Fault Refusal :=
  .next ((s.setS d (BitVec.ofNat 64 (s.imbValue s.cur (s.getS a).toNat))).advance)

/-- The value of rdsamp (R357). -/
def sampValue (t : Thread) (x : Nat) : Nat :=
  match t.sample with
  | none => 0
  | some m =>
    if x / 2 ^ 7 != 0 then 0
    else match x % 16 with
      | 0 => m.addr.toNat
      | 1 => m.seq % 2 ^ 32 + m.vl % 2 ^ 32 * 2 ^ 32
      | 2 => m.lvl % 8 + m.it % 2 ^ 32 * 2 ^ 32
      | n => if n < 7 then min (((m.lgs.getD (bits x 6 4) []).getD (n - 3) 0)) (2 ^ 32 - 1) else 0

/-- RDSAMP (R357). -/
def execRdsamp (d a : SReg) (s : State) : Host.Outcome State Fault Refusal :=
  .next ((s.setS d (BitVec.ofNat 64 (sampValue s.th (s.getS a).toNat))).advance)

/-- SETWASH (R333): OFF takes effect at the string's next interval boundary. -/
def execSetwash (a : SReg) (s : State) : Host.Outcome State Fault Refusal :=
  let x := (s.getS a).toNat
  .next <|
    if !s.th.sup then s.trap cPRIV 0
    else if x / 2 != 0 then s.trap cPWRFAULT 1
    else (s.modStr (strOf (coreOf s.cur)) fun r => { r with offPend := some (bit x 0) }).advance

end Sys2Proof.Machine
end

