-- ==== Sys2Proof/Machine/Power.lean ====
section
/-! DEFINITION. Strings and clusters: balance intervals, wash, the issue limit, cluster caps, boost, power records
(R325–R338). -/

namespace Sys2Proof.Machine

/-! ## Owners of strings and clusters -/

/-- The partition that holds a package cluster (R205). -/
def State.partOfCluster (s : State) (c : Nat) : Option Nat :=
  (s.parts.find? fun e => e.2.up && e.2.clusters.contains c).map (·.1)
/-- The package cluster of a string. -/
def cluOfStr (str : Nat) : Nat := str / 96 * 12 + str % 96 / 8
/-- The package core of a level of a string. -/
def levelCore (str l : Nat) : Nat := str / 96 * 384 + str % 96 * 4 + l
/-- The cores of a cluster. -/
def coresOfClu (c : Nat) : List Nat := (List.range 32).map fun i => c / 12 * 384 + c % 12 * 32 + i
/-- PWRP of the partition that holds a cluster, at its reset value when none does. -/
def State.pwrp (s : State) (cl : Nat) : Nat :=
  match s.partOfCluster cl with
  | some p => (s.mgrReg (0x9D0 + p)).toNat
  | none => (mgrReset 0x9D0).toNat
/-- DRAIN (R326). -/
def State.drain8 (s : State) (cl : Nat) : Nat := bits (s.pwrp cl) 7 0
/-- ALLOT (R326). -/
def State.allot (s : State) (cl : Nat) : Nat := bits (s.pwrp cl) 19 8
/-- BCAP of a partition (R326). -/
def State.bcap (s : State) (p : Nat) : Nat := bits (s.mgrReg (0x9D0 + p)).toNat 27 20

/-! ## Power records (R338, R358) -/

def caThermal : Nat := 0
def caCurrent : Nat := 1
def caDroop : Nat := 2
def caBudget : Nat := 3
def caBalance : Nat := 4
def caExpiry : Nat := 5
def caGrant : Nat := 6
def caRestore : Nat := 7
def caClock : Nat := 8

/-- A record of R338 as the body of a 128-byte slot. -/
def powerRec (cause what srck src seq icount old new : Nat) : List Byte :=
  leBytes 16 1
    ++ leBytes 2 (cause + what * 2 ^ 4 + srck * 2 ^ 6) ++ leBytes 2 src ++ leBytes 4 seq ++ leBytes 4 icount
    ++ leBytes 1 old ++ leBytes 1 new ++ leBytes 2 0 ++ List.replicate 96 0

/-- Sends a power record to the function of the partition that holds a cluster. -/
def State.powerTrace (s : State) (cl : Nat) (bs : List Byte) : State :=
  match s.partOfCluster cl with
  | some p => s.trace (s.part p).func bs
  | none => s

/-- A change of a string's L or lane clock. -/
def State.strTrace (s : State) (str cause what old new : Nat) : State :=
  if old == new then s
  else
    let r := s.str str
    (s.powerTrace (cluOfStr str) (powerRec cause what 0 str r.seq r.icount old new)).modStr str fun r =>
      { r with seq := (r.seq + 1) % 2 ^ 32 }

/-- A change of a cluster's cap or step. -/
def State.cluTrace (s : State) (cl cause what old new : Nat) : State :=
  if old == new then s
  else
    let r := s.clu cl
    (s.powerTrace cl (powerRec cause what 1 cl r.seq r.icount old new)).modClu cl fun r =>
      { r with seq := (r.seq + 1) % 2 ^ 32 }

/-! ## The string controller (R327, R330, R333) -/

/-- Whether SHALF selects a string (R330): bit j of SHALF(2d + h) is string 64h + j of die d. -/
def State.shalf (s : State) (str : Nat) : Bool :=
  bit (s.mgrReg (0x9E0 + 2 * (str / 96) + str % 96 / 64)).toNat (str % 96 % 64)

/-- A boundary's cause of throttling. -/
def balanceCause (d c : List Nat) (off : Bool) (win ub : Nat) : Bool :=
  let m := c.foldl max 0
  let mn := c.foldl min m
  d.any (0 < ·) || decide (ub < m) || (off && decide (mn + win < m))

/-- The new issue limit, from L already bounded by DRAIN. -/
def nextLimit (l drain : Nat) (cause : Bool) : Nat :=
  if cause then max (l / 2) 8 else if l < drain then min (l + cdiv drain 8) drain else l

/-- The end of a string's interval. -/
def stringInterval (s : State) (str : Nat) : State :=
  let cl := cluOfStr str
  let p := (s.partOfCluster cl).getD 0
  let r := s.str str
  let drain := s.drain8 cl
  let imb := (s.imb p).toNat
  let win := bits imb 15 0
  let c := (List.range 4).map fun l => (s.core (levelCore str l)).charge
  let m := c.foldl max 0
  let mn := c.foldl min m
  let off := r.offPend.getD r.off
  let cause := balanceCause r.deficit c off win (bits imb 31 16)
  let l := nextLimit (min r.limit drain) drain cause
  let t := min m (l * 256)
  let half := s.shalf str
  let s := s.modStr str fun r => { r with
    limit := l, off, offPend := none, deficit := c.map fun x => if off then 0 else t - win - x
    lastC := c, lastSpread := m - mn, lastWash := r.washNow, lastL := l, lastHalf := r.half
    thrcnt := if l < drain then (r.thrcnt + 1) % 2 ^ 32 else r.thrcnt
    half, washNow := 0 }
  let s := (s.strTrace str (if cause then caBalance else caRestore) 2 r.limit l).strTrace str caClock 3
    (if r.half then 1 else 0) (if half then 1 else 0)
  let s := s.modStr str fun r => { r with icount := (r.icount + 1) % 2 ^ 32 }
  (List.range 4).foldl (fun s l => s.modCore (levelCore str l) fun x => { x with charge := 0 }) s

/-- STRING_INTERVAL_END (R327). -/
def execStringIntervalEnd (str : Nat) (s : State) : Host.Outcome State Fault Refusal := .next (stringInterval s str)

/-! ## Wash (R325, R328, R329) -/

/-- The oldest access-unit operation of a thread that is not performed, when it is no lent-write stall (R329). -/
def Thread.memOp (t : Thread) : Option Entry :=
  if !t.stall.any (·.1 == 1) then t.pipe.find? fun e => e.inAcc && !e.accDone && !e.dropped else none

/-- Whether a waiting request has a blocker: the environment, a request served, or one that would be granted first (R308). -/
def blockedAt (n : Nat) (a : Arb) (r : Req) : Bool :=
  r.need == 0 && (a.env || a.serving.isSome || match a.ready with
    | [] => false
    | x :: rest => a.first n x rest != r)

/-- The access-unit requests of a thread that wait with a blocker, with their arbiters. -/
def blockedReqs (k : ThreadKey) (t : Tab Arb) : List (Nat × Req) :=
  (t.map fun p => (p.2.waiting.filter fun r => r.src == some k && blockedAt p.1 p.2 r).map fun r => (p.1, r)).flatten

/-- The longest-waiting request of a list. -/
def oldestReq : List (Nat × Req) → Option (Nat × Req)
  | [] => none
  | x :: xs => some (xs.foldl (fun a b => if a.2.age < b.2.age then b else a) x)

/-- The key a wash issue is booked to (R329): a key, or `envKey`; none where no owner ever held the core. -/
def State.washKey (s : State) (c : Nat) : Option Nat :=
  let last := if (s.core c).wiped then some envKey else (s.core c).last.map fun l => keyOf l.1 l.2.1
  if (s.holding c).all (fun g => g.st != .loaded) || (s.holding c).any (fun g => g.st == .stopping) then last
  else match ((keysOf c).filterMap s.slotOwner).find? fun k => (s.thOf k).memOp.isSome with
    | some k =>
      match oldestReq (blockedReqs k s.arbs) with
      | some (n, r) => some (blameAt s n r)
      | none => some (keyOf (s.thOf k).part (s.thOf k).owner)
    | none => last

/-- Books wash (R329): the environment to record 64 of the core's partition, a key to its own partition's record. -/
def State.bookWash (s : State) (c units : Nat) : State :=
  match s.washKey c with
  | none => s
  | some k =>
    if k == envKey then
      s.modPart ((s.partOfCluster (cluOf c)).getD 0) fun p => { p with washu := p.washu.upd 0 64 (sat48 · units) }
    else s.modPart (keyPart k) fun p => { p with washu := p.washu.upd 0 (keyOwner k) (sat48 · units) }

/-- A lane cycle of a core whose gate has nothing waiting (R325 steps 1 and 3, R328). -/
def washIssue (s : State) (c : Nat) : State :=
  let str := strOf c
  let r := s.str str
  let d := r.deficit.getD (levelOf c) 0
  if d == 0 || r.off || !(s.contenders c).isEmpty then s
  else
    let n := s.drainOf c
    let s := s.modCore c fun x => { x with bucket := x.bucket - n }
    let ch := 64 * s.wtab 18
    if !gateOpens (s.core c).bucket ch then s
    else
      let s := s.modCore c fun x => { x with bucket := min (x.bucket + ch) (2 ^ 21 - 1), charge := x.charge + ch }
      let s := s.modStr str fun r => { r with deficit := r.deficit.set (levelOf c) (d - ch), washNow := r.washNow + ch }
      s.bookWash c ch

/-- WASH_ISSUE (R328). -/
def execWashIssue (c : Nat) (s : State) : Host.Outcome State Fault Refusal := .next (washIssue s c)

/-! ## The power controller (R330, R335–R337) -/

/-- Sets a cluster's cap, with its record. -/
def State.setCap (s : State) (cl cause new : Nat) : State :=
  let old := (s.clu cl).cap
  (s.modClu cl fun c => { c with cap := new }).cluTrace cl cause 2 old new

/-- Sets a cluster's step, with its record. -/
def State.setStep (s : State) (cl new : Nat) : State :=
  let old := (s.clu cl).cur
  (s.modClu cl fun c => { c with cur := new }).cluTrace cl (if old < new then caGrant else caExpiry) 0 old new

/-- SUPPLY_DROOP (R336): at once, and for the rest of this interval and the next. -/
def execSupplyDroop (cl : Nat) (s : State) : Host.Outcome State Fault Refusal :=
  .next ((s.setCap cl caDroop (max ((s.clu cl).cap / 2) 8)).modClu cl fun c => { c with droop := true })

/-- A cluster's ceiling through rows 1 to 3 of R336: the state, t, and whether a row applied. -/
def powerRows (inp : PowerInputs) (s : State) (cl : Nat) : State × Nat × Bool :=
  let c := s.clu cl
  let t := c.req
  let (s, t, a) := if inp.hot then (s.setCap cl caThermal (max (c.cap / 2) 8), 0, true) else (s, t, false)
  let exceeds := inp.amps.any fun r => r.cluster == cl && r.overCurrent
  let (s, t, a) :=
    if !exceeds then (s, t, a)
    else (if c.cur == 0 then s.setCap cl caCurrent (max ((s.clu cl).cap / 2) 8) else s, min t (c.cur - 1), true)
  let w := match s.partOfCluster cl with
    | some p => ((inp.watts.find? (·.1 == p)).map (·.2)).getD 0
    | none => 0
  if s.allot cl < w then (s.setCap cl caBudget (max ((s.clu cl).cap * s.allot cl / w) 8), 0, true) else (s, t, a)

/-- Rows 1 to 3 over some clusters. -/
def powerRowsAll (inp : PowerInputs) : List Nat → State → State × List (Nat × Nat × Bool)
  | [], s => (s, [])
  | cl :: rest, s =>
    let (s, t, a) := powerRows inp s cl
    let (s, l) := powerRowsAll inp rest s
    (s, (cl, t, a) :: l)

/-- The owners with a loaded group on a cluster. -/
def State.ownersOn (s : State) (cl : Nat) : List Nat :=
  ((s.groups.filter fun g => g.st == .loaded && g.mems.any fun m => cluOf m.1 == cl).map fun g => (s.ctx g.ctx).owner).eraseDups

/-- A key's column total less its row total over the nine classes, the diagonal left out (R337). -/
def State.netOf (s : State) (p o : Nat) : Int :=
  let d := (s.part p).delay
  (List.range 9).foldl (fun (a : Int) i =>
    (List.range 64).foldl (fun (a : Int) j =>
      if j == o then a
      else a + ((Tab.get 0 d (cellIdx (i + 1) j o) : Nat) : Int) - ((Tab.get 0 d (cellIdx (i + 1) o j) : Nat) : Int)) a) 0

/-- Net harm NH of a cluster (R337). -/
def State.netHarm (s : State) (p cl : Nat) : Int := (s.ownersOn cl).foldl (fun a o => a + s.netOf p o) 0

/-- Insertion of a cluster by net harm, ties to the lower number. -/
def insertHarm (x : Int × Nat × Nat) : List (Int × Nat × Nat) → List (Int × Nat × Nat)
  | [] => [x]
  | y :: ys => if x.1 < y.1 || (x.1 == y.1 && decide (x.2.1 < y.2.1)) then x :: y :: ys else y :: insertHarm x ys

/-- The boost step of one cluster (R337): the state, with its permits. -/
def boostStep (p : Nat) (s : State) (cl t : Nat) : State :=
  let cur := (s.clu cl).cur
  let a := min t (min 2 (s.part p).permits)
  if cur == 2 && a == 0 then s.setStep cl 1
  else (s.setStep cl a).modPart p fun x => { x with permits := x.permits - a }

/-- Boost allocation over the clusters of one partition on the die (R337): (cluster, t). -/
def boostAlloc (s : State) (p : Nat) (l : List (Nat × Nat)) : State :=
  let up := l.filter fun x => x.2 != 0
  let order := up.foldl (fun acc x => insertHarm (s.netHarm p x.1, x.1, x.2) acc) []
  let s := order.foldl (fun s x => boostStep p s x.2.1 x.2.2) s
  (l.filter fun x => x.2 == 0).foldl (fun s x => s.setStep x.1 (min x.2 (s.clu x.1).cur)) s

/-- The permit that a cluster adds at the end of an interval it stood through at nominal with REQ 0 (R337). -/
def State.refill (s : State) (cl : Nat) : State :=
  let c := s.clu cl
  match s.partOfCluster cl with
  | some p => if c.cur == 0 && c.req == 0 && !c.asked then s.modPart p fun x => { x with permits := min (x.permits + 1) (s.bcap p) } else s
  | none => s

/-- C of a cluster whose DRAIN has been lowered below it (R330). -/
def State.boundCap (s : State) (cl : Nat) : State :=
  if s.drain8 cl < (s.clu cl).cap then s.setCap cl caRestore (s.drain8 cl) else s

/-- Row 5, and the interval's count. -/
def closeCluster (s : State) (x : Nat × Nat × Bool) : State :=
  let cl := x.1
  let c := s.clu cl
  let drain := s.drain8 cl
  let s := if !x.2.2 && !c.droop && c.cap < drain then s.setCap cl caRestore (min (c.cap + cdiv drain 8) drain)
    else s
  s.modClu cl fun c => { c with droop := false, asked := c.req != 0, icount := (c.icount + 1) % 2 ^ 32 }

/-- One power interval of a die (R336). -/
def powerInterval (s : State) (die : Nat) (inp : PowerInputs) : State :=
  let cls := (List.range 12).map (12 * die + ·)
  let s := cls.foldl State.refill s
  let (s, l) := powerRowsAll inp cls (cls.foldl State.boundCap s)
  let s := (List.range 16).foldl (fun s p =>
    boostAlloc s p ((l.filter fun x => s.partOfCluster x.1 == some p).map fun x => (x.1, x.2.1))) s
  let s := (l.filter fun x => (s.partOfCluster x.1).isNone).foldl (fun s x => s.setStep x.1 0) s
  l.foldl closeCluster s

/-- POWER_INTERVAL (R336). -/
def execPowerInterval (die : Nat) (inp : PowerInputs) (s : State) : Host.Outcome State Fault Refusal :=
  .next (powerInterval s die inp)

end Sys2Proof.Machine
end

