-- ==== Sys2Proof/Machine/Sequencer.lean ====
section
/-! DEFINITION. The events of the access unit, the vector sequencer, the dispatch gate and the execute unit, for routed
instructions that stand in the queues across steps (R25, R29–R35, R41, R229, R325). -/

namespace Sys2Proof.Machine

/-- The state after an entry's turn; a fetch that waited for the queues starts (R107). -/
def EntryOut.state (k : ThreadKey) : EntryOut → State
  | .retired s => s.startFetch k
  | .waiting s => s
  | .trapped s => s

/-! ## The access unit (R31, R34, R35, R154) -/

/-- Whether a released instruction of some control thread of a core decodes through codebook slot `x` (R65). -/
def State.bookInUse (s : State) (c x : Nat) : Bool :=
  (keysOf c).any fun j => (s.slotOwner j).any fun k => (s.thOf k).pipe.any fun o => o.released && o.readsBook x

/-- Whether an entry's access half may start: its operands are complete, the queue it names has an entry or room, what its ORD orders has
been performed, and what reads the slot or codebook it fills has completed (R31, R34, R65, R179). A cbld waits for every older product
of its own thread: DESIGN CHOICE (log entry 58). -/
def accReady (s : State) (k : ThreadKey) (older : List Entry) (e : Entry) : Bool :=
  let t := s.thOf k
  (!e.readsVec || older.isEmpty) && (decide (e.ord < 2) || (older.isEmpty && t.pending.isEmpty))
    && !(e.op == .mldt && older.any fun o => isProduct o && o.names e.x)
    && !(e.op == .cbld && (s.bookInUse (coreOf k) e.x || older.any fun o => isProduct o || o.readsBook e.x))
    && (!(isQ e.d && e.isStore) || !(t.v.queues.get [] e.d).isEmpty)
    && (!(isQ e.d && e.isLoad) || decide ((t.v.queues.get [] e.d).length < 4))

/-- Whether the entry that stands after `older` may trap now: it is the oldest, and nothing younger is in flight (R41). -/
def mayTrapNow (t : Thread) (older : List Entry) : Bool := older.isEmpty && t.headMayTrap

/-- The access half of an entry that may start. -/
def accessTurn (s : State) (k : ThreadKey) (older : List Entry) (e : Entry) : EntryOut :=
  match runAccess s k e with
  | .inl (.waiting s') => .waiting s'
  | .inl o => if mayTrapNow (s.thOf k) older then o else .waiting s
  | .inr (s, e') =>
    let s := s.putEntry k e e'
    if e'.inExe then .waiting s else completeEntry s k e'

/-- ACCESS_UNIT_COMPLETE (R154): the oldest access half not performed; a fault waits until every older entry has completed. -/
def execAccessUnitComplete (k : ThreadKey) (s : State) : Host.Outcome State Fault Refusal :=
  let t := s.thOf k
  .next <| match splitAt (fun e => e.inAcc && !e.accDone) t.pipe with
    | none => s
    | some (older, e) =>
      if !s.issues k || !accReady s k older e then s
      else if isDropped t.v e then (if older.isEmpty then ((s.retireDropped k e).startFetch k).gateArrivals k else s)
      else if lostMember s k e then (if mayTrapNow t older then s.trapEntry k e e cSPANFAULT 0 0 0 else s)
      else ((accessTurn s k older e).state k).gateArrivals k

/-! ## The vector sequencer (R229) -/

/-- VECTOR_SEQUENCER_GRANT (R229): when nothing is granted, the best of the contenders is. -/
def execVectorSequencerGrant (c : Nat) (s : State) : Host.Outcome State Fault Refusal :=
  let s := s.gateArrive c
  .next <| match (s.core c).granted, s.contenders c with
    | some _, _ => s
    | none, [] => s
    | none, j :: js =>
      let w := js.foldl s.seqBetter j
      (s.seqGrant c (j :: js) w (((s.standing w).map (·.beats)).getD 1)).modCore c fun x => { x with granted := some w }

/-- The waits of a core's contenders, self-harm that is never settled (R229). -/
def State.postContenders (s : State) (n c : Nat) : State :=
  ((s.contenders c).filter fun j => (s.core c).granted != some j).foldl (fun s j =>
    let t := s.thOf ((s.slotOwner j).getD j)
    s.postCell n (keyOf t.part t.owner) (keyOf t.part t.owner)) s

/-- QUANTUM_POST (R309, R311, R229): an arbiter, or a core's vector sequencer, posts the quanta of one cycle of its clock. -/
def execQuantumPost (n : Nat) (s : State) : Host.Outcome State Fault Refusal :=
  .next (if arbCls n == clsSeq then s.postContenders n (n % 2 ^ 20) else s.postQuanta n)

/-! ## The dispatch gate (R31, R34, R325) -/

/-- The faults of an instruction at its release from its home member's gate (R65, R183): cause, DETAIL, INDEX. -/
def releaseFault (s : State) (k : ThreadKey) (e : Entry) : Option (Nat × Nat × Nat) :=
  match e.op with
  | .cvt _ => cvtFault s (s.thOf k).v e
  | _ => prodFault s k (s.thOf k).v e

/-- An entry has passed the gate of core `c`: it is released once it has passed all of its gates (R325). -/
def State.passedGate (s : State) (c : Nat) (k : ThreadKey) (e : Entry) : State :=
  let g := c :: e.gates
  if (spotsOf k e).all fun p => g.contains (coreOf p.slot) then
    let (s, e') := s.sampleRelease k e
    s.putEntry k e { e' with gates := g, released := true }
  else s.putEntry k e { e with gates := g }

/-- One lane cycle of the gate of core `c` for the instruction granted to slot `j`, which stands there; `idle` is the state after a
cycle that releases nothing. -/
def State.gateTurn (s idle : State) (c : Nat) (j k : ThreadKey) (older : List Entry) (e : Entry) (p : GateSpot) : State :=
  let t := s.thOf k
  if lostMember s k e then if mayTrapNow t older then (s.trapEntry k e e cSPANFAULT 0 0 0).ungrant j else idle
  else match (if j == k then releaseFault s k e else none) with
    | some (cause, d, i) => if mayTrapNow t older then (s.trapEntry k e e cause d i 0).ungrant j else idle
    | none =>
      let ch := s.charge e p.n
      if ch == 0 then ((s.passedGate c k e).ungrant j).gateArrivals k
      else
        let (s, ok) := s.gateCycle c t.part t.owner ch
        if ok then ((s.passedGate c k e).ungrant j).gateArrivals k else s

/-- One lane cycle of the gate for a relocation granted to slot `j` (R126). -/
def State.relocTurn (s : State) (j k : ThreadKey) (n : Nat) : State :=
  let t := s.thOf k
  let ch := s.relocCharge n
  let (s, ok) := if ch == 0 then (s, true) else s.gateCycle (coreOf j) t.part t.owner ch
  if ok then ((s.modTh k fun t => { t with reloc := t.reloc.filter (·.1 != j) }).ungrant j).gateArrivals k else s

/-- INSTRUCTION_RELEASE (R325): one lane cycle of a core's gate. -/
def execInstructionRelease (c : Nat) (s : State) : Host.Outcome State Fault Refusal :=
  let idle := s.modCore c fun x => { x with bucket := x.bucket - s.drainOf c }
  .next <| match (s.core c).granted with
    | none => idle
    | some j => match s.standing j with
      | none => idle.modCore c fun x => { x with granted := none }
      | some (.reloc k n _) => s.relocTurn j k n
      | some (.entry k older e p) => s.gateTurn idle c j k older e p

/-- RELOCATION (R126): one lane cycle of the gate of each core that has granted the relocation of a thread. -/
def execRelocation (k : ThreadKey) (s : State) : Host.Outcome State Fault Refusal :=
  .next ((s.thOf k).reloc.foldl (fun s r =>
    if s.issues k && (s.core (coreOf r.1)).granted == some r.1 then s.relocTurn r.1 k r.2 else s) s)

/-! ## The execute unit -/

/-- INSTRUCTION_COMPLETE (R56, R129, R131): the oldest entry of the execute queue, once it has been released or dropped; one
that faults waits until every older entry has completed. -/
def execInstructionComplete (k : ThreadKey) (s : State) : Host.Outcome State Fault Refusal :=
  let t := s.thOf k
  .next <| match splitAt (·.inExe) t.pipe with
    | none => s
    | some (older, e) =>
      if e.released then
        match completeEntry s k e with
        | .trapped s' => if mayTrapNow t older then s' else s
        | o => (o.state k).gateArrivals k
      else if older.isEmpty && isDropped t.v e && s.issues k then ((s.retireDropped k e).startFetch k).gateArrivals k
      else s

/-- SPAN_MEMBER_LOST (R25): an uncorrectable error takes a member; the vector instruction that would next use it traps. -/
def execSpanMemberLost (k : ThreadKey) (m : Nat) (s : State) : Host.Outcome State Fault Refusal :=
  .next <| s.modTh k fun t =>
    if t.v.members.length < 2 then t
    else { t with v := { t.v with members := t.v.members.zipIdx.map fun p =>
      if p.2 == m && p.1.attached then { p.1 with lost := true } else p.1 } }

end Sys2Proof.Machine
end

