-- ==== Sys2Proof/Machine/Debug.lean ====
section
/-! DEFINITION. The debug window and its operations, and requests forwarded by a peer (R351–R355). -/

namespace Sys2Proof.Machine

/-! ## Fields of DCMD (R352) -/

/-- OP. -/
def dcOp (x : Nat) : Nat := bits x 3 0
/-- PKG. -/
def dcPkg (x : Nat) : Nat := bits x 9 4
/-- The thread: CORE and THR. -/
def dcKey (x : Nat) : ThreadKey := bits x 20 10 * 4 + bits x 22 21
/-- NUM. -/
def dcNum (x : Nat) : Nat := bits x 34 23

/-- The parties that stand for the debug unit's own remote accesses: the window's, and a forwarded request's. -/
def debugKey (fwd : Bool) : ThreadKey := 22528 + if fwd then 1 else 0

/-- What an operation comes to: status and, for a read, the data; or it waits. -/
inductive DebugOut where
  | done (s : State) (status : Nat) (data : Option W64)
  | wait (s : State)

/-- Whether a thread is loaded and its context not frozen. -/
def State.debuggable (s : State) (k : ThreadKey) : Bool :=
  ((s.thOf k).group.bind s.grp).any (fun g => g.st == .loaded) && (s.ctx (s.thOf k).ctx).st != .frozen

/-! ## HALT and RESUME (R353, R354) -/

/-- Applies a pending halt: the started instructions complete, and the thread stops (R41). -/
def State.applyHalt (s : State) (k : ThreadKey) : State :=
  let (s, stopped) := stopPipe (s.thOf k).pipe.length s k
  if stopped && !(s.thOf k).unanswered then
    (s.modTh k fun t => { t with halted := true, haltPend := false }).traceDebug k 1
  else s

/-- HALT. -/
def State.doHalt (s : State) (k : ThreadKey) : State :=
  if (s.thOf k).halted then s else (s.modTh k fun t => { t with haltPend := true }).applyHalt k

/-- The BRK trap of a thread that halted on break. -/
def breakTrap (t : Thread) : TrapDesc :=
  let x := t.trap.info.toNat
  let lane := bit x 56
  { cause := cBRK, detail := bits x 23 8, index := bits x 55 24, fu := t.fu, lane, resume := if lane then t.pc else t.fu.addr }

/-- A thread goes on after the `brk` word at which it halted. -/
def passBreak (t : Thread) : Thread :=
  let x := t.trap.info.toNat
  if bit x 56 then t.modLane (bits x 55 24) (fun l => laneSeq l t.fu.nextAddr) else t.seqTo t.fu.nextAddr

/-- RESUME. -/
def State.doResume (s : State) (k : ThreadKey) (after : Bool) : State :=
  let t := s.thOf k
  if !t.halted then s.modTh k fun t => { t with haltPend := false }
  else
    let s := s.modTh k fun t => { t with halted := false, haltPend := false, brkStop := false }
    let s := if !t.brkStop then s.modTh k reissue
      else if after then s.modTh k fun t => reissue (passBreak t)
      else s.takeTrap k (breakTrap t)
    (s.gateArrivals k).traceDebug k 2

/-! ## Registers -/

/-- SRRD: a number of the user or supervisor level that is allocated. -/
def debugRegOk (num : Nat) : Bool := decide (num < 0x800) && regAllocated num

/-- SRWR: a value that R49 refuses leaves the register as it is. -/
def State.debugSrw (s : State) (k : ThreadKey) (num : Nat) (w : W64) : DebugOut :=
  if !debugRegOk num || (num == 0x420 && (s.thOf k).pgcmd.busy) then .done s 3 none
  else match s.regWrite k true num w with
    | .ok s => .done s 0 none
    | .reserved => .done s 3 none

/-! ## Memory -/

/-- The debug unit under a thread's context. -/
def State.asDebug (s : State) (who k : ThreadKey) : State :=
  let t := s.thOf k
  s.modTh who fun u => { u with ctx := t.ctx, owner := t.owner, part := t.part }

/-- One access of the debug unit for thread `k`, read or write, at a flat address: it carries the owner of the thread's context (R15,
R355). -/
def State.debugAt (s : State) (k : ThreadKey) (flat leaf : Nat) (w : Option W64) : DebugOut :=
  let t := s.thOf k
  let s := (s.accessReqs (coreOf k) (keyOf t.part t.owner) flat 8 w.isSome none).nearTouch flat leaf
  match w with
  | none => .done s 0 (some (BitVec.ofNat 64 (s.load flat 8)))
  | some x => .done (s.store none flat 8 x.toNat) 0 none

/-- MEMRD and MEMWR: one 8-byte access, as supervisor, in the thread's context. -/
def State.debugMem (s : State) (who k : ThreadKey) (a : W64) (w : Option W64) : DebugOut :=
  let t := s.thOf k
  let kind : AKind := if w.isSome then .write else .read
  if a.toNat % 8 != 0 then .done s 4 none
  else match scalarTarget (coreOf k) a with
    | .bad => .done s 4 none
    | .spad core off => if s.spadOk k t.ctx core off 8 then s.debugAt k (spadFlat core off) 0 w else .done s 4 none
    | .paged tgt v =>
      match s.translate (coreOf k) t.ctx false kind [tgt] v with
      | .ok flat leaf => if tgt == 1 && (s.cxl.get {} (flat / 2 ^ 40 % 4)).down then .done s 4 none else s.debugAt k flat leaf w
      | .lent _ => .done s 5 none
      | .unpulled .. => .done s 5 none
      | .malformed x => .done (s.log (s.part t.part).func 3 x 0) 4 none
      | _ => .done s 4 none
    | .remote pkg off =>
      let rop := match w with
        | none => RemoteOp.read none
        | some x => .write (leBytes 8 x.toNat)
      match (s.asDebug who k).remote who 0 false pkg off 8 rop with
      | .replied bs => .done (s.endReplies who 0) 0 (if w.isSome then none else some (BitVec.ofNat 64 (leNat bs)))
      | .stall _ s => .wait s
      | _ => .done (s.endReplies who 0) 4 none

/-! ## STOPRD -/

/-- Whether a stop-record entry has stopped part-way (R41, R216). -/
def Entry.part (e : Entry) : Bool := e.partWay

/-- A doubleword of a stop-record entry (R351). -/
def stopWord (e : Entry) (i : Nat) : W64 :=
  match i with
  | 0 => e.fu.addr
  | 1 => BitVec.ofNat 64 (e.fu.word.toNat + e.fu.pre.toNat * 2 ^ 32)
  | 2 => e.capA
  | _ => e.capB

/-- STOPRD: its value, or none where the number is out of range. -/
def stopRead (t : Thread) (num arg : Nat) : Option W64 :=
  let l := t.stopRec
  if num == 0xFFF then
    match arg with
    | 0 => some t.pc
    | 1 => some t.cp
    | 2 => some (BitVec.ofNat 64 l.length)
    | 3 => some (((l.zipIdx.find? fun p => p.1.part).map fun p => BitVec.ofNat 64 p.2).getD (BitVec.allOnes 64))
    | _ => none
  else (l[num]?).map fun e => stopWord e (arg % 4)

/-! ## One operation -/

/-- Carries out a request on a thread of this package. -/
def State.debugOp (s : State) (who : ThreadKey) (dcmd darg ddata : W64) : DebugOut :=
  let x := dcmd.toNat
  let k := dcKey x
  let op := dcOp x
  let t := s.thOf k
  if op == 0 || 10 < op then .done s 7 none
  else if !s.debuggable k then .done s 2 none
  else if op != 1 && op != 2 && op != 9 && !t.halted then .done s 1 none
  else match op with
    | 1 => .done (s.doHalt k) 0 none
    | 2 => .done (s.doResume k (bit darg.toNat 0)) 0 none
    | 3 => if debugRegOk (dcNum x) then .done s 0 (some (s.regRead k (dcNum x))) else .done s 3 none
    | 4 => s.debugSrw k (dcNum x) ddata
    | 5 => .done s 0 (some (getScalar t none (dcNum x % 32)))
    | 6 => .done (s.modTh k fun t => setScalar t none (dcNum x % 32) ddata) 0 none
    | 7 => s.debugMem who k darg none
    | 8 => s.debugMem who k darg (some ddata)
    | 9 => .done (s.modTh k fun t => { t with haltBrk := bit darg.toNat 0 }) 0 none
    | _ => match stopRead t (dcNum x) darg.toNat with
      | some v => .done s 0 (some v)
      | none => .done s 3 none

/-! ## The window (R352) -/

/-- A request of the window ends; BUSY clears at its completion. -/
def State.endDebug (s : State) (status : Nat) (data : Option W64) : State :=
  ({ s with dbg := { s.dbg with todo := false, status, ddata := data.getD s.dbg.ddata } } : State).later (.commandComplete (.debug none))

/-- The event of an OP. -/
def debugEvent : Nat → Instr
  | 1 => .halt | 2 => .resume | 3 => .srrd | 4 => .srwr | 5 => .sregrd | 6 => .sregwr | 7 => .memrd | 8 => .memwr | 9 => .brkhalt
  | _ => .stoprd

/-- Starts the request of a DCMD write: here, at the package it names, or refused. -/
def State.startDebug (s : State) : State :=
  let x := s.dbg.dcmd.toNat
  let s : State := { s with dbg := { s.dbg with busy := true, todo := true } }
  if 10 < dcOp x then s.endDebug 7 none
  else if dcPkg x == s.urnyx.number then s.later (debugEvent (dcOp x))
  else if s.reachable (dcPkg x) then
    ({ s with dbg := { s.dbg with todo := false } } : State).send (.debug (dcPkg x) s.dbg.dcmd s.dbg.darg s.dbg.ddata)
  else s.endDebug 6 none

/-- A write of a debug register (R352); reserved bits of DCMD read as zero. -/
def State.debugWrite (s : State) (off : Nat) (w : W64) : State :=
  match off with
  | 0x100 =>
    if s.dbg.busy then s
    else
      let s : State := { s with dbg := { s.dbg with dcmd := BitVec.ofNat 64 (w.toNat % 2 ^ 35) } }
      if dcOp w.toNat == 0 then s else s.startDebug
  | 0x108 => { s with dbg := { s.dbg with darg := w } }
  | 0x110 => { s with dbg := { s.dbg with ddata := w } }
  | _ => s

/-- What a read of a debug register returns (R352). -/
def State.debugRead (s : State) (off : Nat) : W64 :=
  match off with
  | 0x100 => s.dbg.dcmd
  | 0x108 => s.dbg.darg
  | 0x110 => s.dbg.ddata
  | _ => BitVec.ofNat 64 (s.dbg.status % 256 + if s.dbg.busy then 2 ^ 63 else 0)

/-- Carries out the window's request, once, when its OP is the event's. -/
def State.debugRow (s : State) (op : Nat) : State :=
  if s.dbg.todo && dcOp s.dbg.dcmd.toNat == op then
    match s.debugOp (debugKey false) s.dbg.dcmd s.dbg.darg s.dbg.ddata with
    | .done s st x => s.endDebug st x
    | .wait s => s
  else s

/-- HALT (R353). -/
def execHalt (s : State) : Host.Outcome State Fault Refusal := .next (s.debugRow 1)
/-- RESUME (R353). -/
def execResume (s : State) : Host.Outcome State Fault Refusal := .next (s.debugRow 2)
/-- SRRD (R353). -/
def execSrrd (s : State) : Host.Outcome State Fault Refusal := .next (s.debugRow 3)
/-- SRWR (R353). -/
def execSrwr (s : State) : Host.Outcome State Fault Refusal := .next (s.debugRow 4)
/-- SREGRD (R353). -/
def execSregrd (s : State) : Host.Outcome State Fault Refusal := .next (s.debugRow 5)
/-- SREGWR (R353). -/
def execSregwr (s : State) : Host.Outcome State Fault Refusal := .next (s.debugRow 6)
/-- MEMRD (R353). -/
def execMemrd (s : State) : Host.Outcome State Fault Refusal := .next (s.debugRow 7)
/-- MEMWR (R353). -/
def execMemwr (s : State) : Host.Outcome State Fault Refusal := .next (s.debugRow 8)
/-- BRKHALT (R353). -/
def execBrkhalt (s : State) : Host.Outcome State Fault Refusal := .next (s.debugRow 9)
/-- STOPRD (R353). -/
def execStoprd (s : State) : Host.Outcome State Fault Refusal := .next (s.debugRow 10)

/-! ## Forwarded requests (R355) -/

/-- Carries out the forwarded requests in order, as far as none waits. -/
def runForwarded : Nat → State → State
  | 0, s => s
  | n + 1, s =>
    match s.dbgFwd with
    | [] => s
    | (p, c, a, d) :: rest =>
      match s.debugOp (debugKey true) c a d with
      | .wait s => s
      | .done s st x => runForwarded n (({ s with dbgFwd := rest } : State).send (.debugReply p st (x.getD 0)))

/-- DEBUG_FORWARD (R355): only the debug master's requests are taken, each under the owner of its thread's context. -/
def execDebugForward (from_ : Nat) (dcmd darg ddata : W64) (s : State) : Host.Outcome State Fault Refusal :=
  .next <|
    if s.urnyx.master == some from_ then
      let t := s.thOf (dcKey dcmd.toNat)
      let s : State := { s.crosses unitIo (keyOf t.part t.owner) from_ true 24 with dbgFwd := s.dbgFwd ++ [(from_, dcmd, darg, ddata)] }
      runForwarded s.dbgFwd.length s
    else s.send (.debugReply from_ 6 0)

end Sys2Proof.Machine
end

