-- ==== Sys2Proof/Machine/Host.lean ====
section
/-! DEFINITION. The host, Urnyx, the ports and the peers: register writes, BAR4, AtomicOps, attestation, firmware, partitions,
domains, links and replies (R15, R20, R49, R193, R201–R206, R267, R316, R324, R326, R330, R340–R350, R358). -/

namespace Sys2Proof.Machine

/-! ## The management window (R343, R358) -/

/-- A write to a management window that is ignored whole is logged (R343). -/
def State.badMgmt (s : State) (func off : Nat) : State := s.log func 9 off 0

/-- Whether a ring control value is legal (R343, R358). -/
def ringCtlOk (v : Nat) : Bool := decide (6 ≤ bits v 4 0) && decide (bits v 4 0 ≤ 16) && v / 2 ^ 6 == 0

/-- The event that carries out a command (R343). -/
def mgmtEvent (func : Nat) : Nat → Instr
  | 1 => .create func
  | 2 => .setslice func
  | 3 => .freeze func
  | 4 => .teardown func
  | 5 => .query func
  | 6 => .inval (.mgmt func)
  | 7 => .pagedone (.mgmt func)
  | _ => .attest func

/-- A write of MCMD. -/
def State.writeMcmd (s : State) (func : Nat) (w : W64) : State :=
  let v := w.toNat
  if bit (s.fn func).mstat.toNat 63 then s
  else if v / 2 ^ 16 != 0 then s.badMgmt func 0
  else
    let op := bits v 3 0
    let s := s.modFn func fun f => { f with mcmd := w }
    if op == 0 then s
    else if 8 < op then s.finishCmd func 6
    else (s.modFn func fun f => { f with mstat := BitVec.ofNat 64 (2 ^ 63), todo := true }).later (mgmtEvent func op)

/-- A write to a function's management window (R342, R343, R352, R358). -/
def State.mgmtWrite (s : State) (func off : Nat) (w : W64) : State :=
  let v := w.toNat
  if (s.fn func).frozen then s
  else match off with
    | 0x00 => s.writeMcmd func w
    | 0x08 => s.modFn func fun f => { f with marg := w }
    | 0x18 => s
    | 0x20 => if v % 4096 != 0 then s.badMgmt func off else s.modFn func fun f => { f with evbase := w }
    | 0x28 => if !ringCtlOk v then s.badMgmt func off else (s.modFn func fun f => { f with evctl := w }).flushRings
    | 0x30 => s
    | 0x38 => (s.modFn func fun f => { f with evrd := v }).flushRings
    | 0x40 => s
    | 0x48 => if v % 4096 != 0 then s.badMgmt func off else s.modFn func fun f => { f with trbase := w }
    | 0x50 => if !ringCtlOk v then s.badMgmt func off else s.modFn func fun f => { f with trctl := w }
    | 0x58 => s
    | 0x60 => s.modFn func fun f => { f with trrd := v }
    | 0x68 => s
    | _ =>
      if func == 0 && (off == 0x100 || off == 0x108 || off == 0x110 || off == 0x118) then s.debugWrite off w
      else s.violate func off

/-- What a read of a function's management window returns (R5, R343, R352, R358); none at an unmapped offset. -/
def State.mgmtRead (s : State) (func off : Nat) : Option W64 :=
  let f := s.fn func
  let num := fun (n : Nat) => some (BitVec.ofNat 64 n)
  match off with
  | 0x00 => some f.mcmd
  | 0x08 => some f.marg
  | 0x18 => some f.mstat
  | 0x20 => some f.evbase
  | 0x28 => some f.evctl
  | 0x30 => num f.evwr
  | 0x38 => num f.evrd
  | 0x40 => num f.evlost
  | 0x48 => some f.trbase
  | 0x50 => some f.trctl
  | 0x58 => num f.trwr
  | 0x60 => num f.trrd
  | 0x68 => num f.trlost
  | _ => if func == 0 && (off == 0x100 || off == 0x108 || off == 0x110 || off == 0x118) then some (s.debugRead off) else none

/-! ## ATTEST (R344) -/

/-- The numbers of a function's partition setup. -/
def State.setupOf (s : State) (func : Nat) : List Nat :=
  match s.partOf func with
  | none => [func]
  | some p =>
    let x := s.part p
    [func, p, x.ctxBase, x.ctxCount, x.qBase, x.qCount, x.saveMax] ++ x.clusters ++ x.slices

/-- ATTEST (R344): the nonce, the two measurements, and two signatures over both. -/
def execAttest (func : Nat) (s : State) : Host.Outcome State Fault Refusal :=
  .next <|
    if (s.fn func).todo && (s.fn func).op == 8 then
      let a := hostFlat (s.fn func).marg.toNat
      let body := s.bytes a 48 ++ s.urnyx.measure ++ Config.sha384 (Config.setupBytes (s.setupOf func))
      let report := (body ++ Config.ed25519Sign body ++ Config.mldsa65Sign body).take 4096
      (s.storeBytes none (a + 48) report).finishCmd func 0
    else s

/-! ## Manager registers (R49, R316, R324, R326, R330) -/

/-- Whether a byte of a word is zero. -/
def zeroByte (v : Nat) : Bool := (List.range 8).any fun k => bits v (8 * k + 7) (8 * k) == 0

/-- The value that a legal write leaves in a manager register; none for a reserved value or an unallocated number. -/
def mgrValue (num v : Nat) : Option Nat :=
  if 0x900 ≤ num && num < 0x980 then if zeroByte v then none else some v
  else if 0x980 ≤ num && num ≤ 0x990 then some (v % 2 ^ 16)
  else if 0x9A0 ≤ num && num < 0x9B0 then some (v % 2 ^ 54)
  else if num == 0x9C1 then if bits v 11 8 == 0 then none else some v
  else if 0x9C0 ≤ num && num < 0x9C4 then some v
  else if 0x9D0 ≤ num && num < 0x9E0 then
    if bits v 7 0 < 8 || bits v 19 8 == 0 || 3200 < bits v 19 8 then none else some (v % 2 ^ 28)
  else if 0x9E0 ≤ num && num < 0x9E8 then
    if num % 2 == 1 && v / 2 ^ 32 != 0 then none else some v
  else none

/-- A write of Urnyx to a manager register, or to a partition's IMBWIN; a reserved value leaves the register as it is (R49). -/
def State.managerWrite (s : State) (num p : Nat) (w : W64) : State :=
  let v := w.toNat
  if num == 0x061 then
    if bits v 31 16 ≤ bits v 15 0 then s else { s with imbwin := s.imbwin.put p (BitVec.ofNat 64 (v % 2 ^ 32)) }
  else match mgrValue num v with
    | some x => { s with mgr := s.mgr.put num (BitVec.ofNat 64 x) }
    | none => s

/-- What a read of a manager register by Urnyx returns (R5, R49): PWRPn with its PERM (R326), 0 for a number that is not allocated. -/
def State.managerRead (s : State) (num p : Nat) : W64 :=
  if num == 0x061 then s.imb p
  else if 0x9D0 ≤ num && num < 0x9E0 then BitVec.ofNat 64 ((s.mgrReg num).toNat % 2 ^ 28 + (s.part (num - 0x9D0)).permits % 2 ^ 8 * 2 ^ 28)
  else s.mgrReg num

/-- REGISTER_WRITE (R5): a write that has no row of its own. -/
def execRegisterWrite (t : RegTarget) (w : W64) (s : State) : Host.Outcome State Fault Refusal :=
  .next <| match t with
    | .queue func q off => s.hostQueue (.registerWrite t w) func q off w
    | .mgmt func off => s.inOrder func (.registerWrite t w) fun s => s.mgmtWrite func off w
    | .manager num p => s.managerWrite num p w
    | .packageMatrix => { s with pkgDelay := [] }

/-! ## BAR4 (R203, R288, R340, R342) -/

/-- Whether every byte of a range lies in a function's own slices. -/
def State.ownBytes (s : State) (func addr n : Nat) : Bool :=
  match s.partOf func with
  | none => false
  | some p => n != 0 && decide (addr + n ≤ Config.hbmBytes)
      && (List.range ((addr + n - 1) / 2 ^ 33 - addr / 2 ^ 33 + 1)).all fun i => (s.part p).slices.contains (addr / 2 ^ 33 + i)

/-- A host access that changes memory: held while a page it meets is lent. -/
def State.hostChange (s : State) (h : HostWrite) : State :=
  if s.lentRange h.addr h.size then { s with hostHeld := s.hostHeld ++ [h] } else s.hostPerform h

/-- HOST_MEMORY_WRITE (R203). -/
def execHostMemoryWrite (func addr : Nat) (bs : List Byte) (s : State) : Host.Outcome State Fault Refusal :=
  .next <| s.inOrder func (.hostMemoryWrite func addr bs) fun s =>
    if (s.fn func).frozen || bs.isEmpty then s
    else if !s.ownBytes func addr bs.length then s.violate func addr
    else s.hostChange { func, addr, bytes := bs }

/-- The host receives bytes. -/
def State.toHost (s : State) (bs : List Byte) : State := { s with hostOut := s.hostOut ++ [bs] }

/-- A read of a function's register: its value, all ones while the function is frozen, or an abort (R342). -/
def State.readWindow (s : State) (func at_ : Nat) (x : Option W64) : State :=
  if (s.fn func).frozen then s.toHost (List.replicate 8 0xFF)
  else match x with
    | some x => s.toHost (leBytes 8 x.toNat)
    | none => (s.toHost []).violate func at_

/-- A read of device memory through BAR4 (R340): all ones while the function is frozen, nothing on an abort. -/
def State.readBar4 (s : State) (func addr n : Nat) : State :=
  if (s.fn func).frozen then s.toHost (List.replicate n 0xFF)
  else if !s.ownBytes func addr n then (s.toHost []).violate func addr
  else (s.hostReqs func addr n false).toHost (s.bytes addr n)

/-- HOST_MEMORY_READ (R340): a host read through a BAR, or of a manager register by Urnyx (R5, R222, R343). -/
def execHostMemoryRead (func : Nat) (place : HostPlace) (n : Nat) (s : State) : Host.Outcome State Fault Refusal :=
  let inOrder := s.inOrder func (.hostMemoryRead func place n)
  .next <| match place with
    | .mem addr => inOrder (·.readBar4 func addr n)
    | .queue q off => inOrder fun s => s.readWindow func (64 * q + off) (s.queueRead func q off)
    | .mgmt off => inOrder fun s => s.readWindow func off (s.mgmtRead func off)
    | .manager num p => s.toHost (leBytes 8 (s.managerRead num p).toNat)
    | .packageMatrix => s.toHost (leBytes 8 0)

/-- The INFO of a refused AtomicOp (R345). -/
def hostOpType : HostOp → Nat
  | .fetchAdd .. => 0 | .swap .. => 1 | .cas .. => 2

/-- Whether a live context of a partition maps an address on a page marked system-atomic (R201). -/
def State.systemAtomic (s : State) (p addr : Nat) : Bool := s.anyMaps p addr (bit · 8)

/-- HOST_ATOMICOP (R201, R202). -/
def execHostAtomicop (func addr : Nat) (op : HostOp) (s : State) : Host.Outcome State Fault Refusal :=
  let n := hostOpSize op
  .next <| s.inOrder func (.hostAtomicop func addr op) fun s =>
    if (s.fn func).frozen then s
    else if !s.ownBytes func addr n then s.violate func addr
    else if (n != 4 && n != 8) || addr % n != 0 || !(s.partOf func).any (s.systemAtomic · addr) then
      (s.toHost []).log func 1 addr (hostOpType op)
    else s.hostChange { func, addr, op := some op }

/-- FLUSH_READ_COMPLETE (R341): an access to the host space is performed at one instant, so no release waits for it. -/
def execFlushReadComplete (s : State) : Host.Outcome State Fault Refusal := .next s

/-! ## Links and ports -/

/-- The environment holds, or lets go, the arbiters of a PCIe link, which trains (R15). -/
def State.holdLink (s : State) (link : Nat) (on : Bool) : State :=
  let set := fun (a : Arb) => { a with env := on }
  (s.modArb (hostArb link true) set).modArb (hostArb link false) set

/-- PCIE_LINK_TRAINING (R340): rate 5, 6 or 7, width 8 or 16. -/
def execPcieLinkTraining (link rate width : Nat) (s : State) : Host.Outcome State Fault Refusal :=
  .next <|
    if link < 2 && 5 ≤ rate && rate ≤ 7 && (width == 8 || width == 16) then
      ({ s with pcie := s.pcie.put link { up := true, rate, width } } : State).holdLink link false
    else s
/-- PCIE_LINK_DOWN (R340). -/
def execPcieLinkDown (link : Nat) (s : State) : Host.Outcome State Fault Refusal :=
  .next (if link < 2 then ({ s with pcie := s.pcie.put link { s.pcie.get {} link with up := false } } : State).holdLink link true else s)

/-- A log record for every function that a partition is bound to. -/
def State.logAll (s : State) (code info : Nat) : State :=
  (s.parts.filter fun e => e.2.up).foldl (fun s e => s.log e.2.func code 0 info) s

/-- CXL_PORT_TRAINING (R346): 128, 64 or 32 GT/s. -/
def execCxlPortTraining (port rate : Nat) (s : State) : Host.Outcome State Fault Refusal :=
  .next <|
    if port < 4 && (rate == 128 || rate == 64 || rate == 32) then { s with cxl := s.cxl.put port { up := true, rate } } else s
/-- CXL_PORT_DOWN (R347). -/
def execCxlPortDown (port : Nat) (s : State) : Host.Outcome State Fault Refusal :=
  .next <|
    if port < 4 && !(s.cxl.get {} port).down then
      ({ s with cxl := s.cxl.put port { s.cxl.get {} port with up := false, down := true } } : State).logAll 8 port
    else s

/-- GLASAL_LINK_TRAINING (R349): 224 Gb/s between two second-generation ends that hold it, 112 otherwise. -/
def execGlasalLinkTraining (port peerGen : Nat) (holds : Bool) (s : State) : Host.Outcome State Fault Refusal :=
  .next <|
    if port < 12 && (peerGen == 1 || peerGen == 2) then
      { s with glasal := s.glasal.put port { up := true, rate := if peerGen == 2 && holds then 224 else 112, width := 8 } }
    else s
/-- GLASAL_FLIT_RETRY (R349): the receiver asks again from the flit, and every later flit is resent. -/
def execGlasalFlitRetry (port flit : Nat) (s : State) : Host.Outcome State Fault Refusal :=
  .next (if port < 12 then { s with glasal := s.glasal.put port { s.glasal.get {} port with retry := some flit } } else s)

/-! ## Peers -/

/-- REMOTE_ACCESS_REQUEST (R193). -/
def execRemoteAccessRequest (from_ c : Nat) (va : W64) (user : Bool) (n : Nat) (op : RemoteOp) (s : State) :
    Host.Outcome State Fault Refusal :=
  let x := s.ctx c
  let s := s.crosses unitIo (keyOf x.part x.owner) from_ true (remoteBytes op)
  .next (s.serveRemote { from_, ctx := c, va, user, n, op })

/-- What waits for the replies of a party is looked at again. -/
def State.retryParty (s : State) (k : ThreadKey) : State :=
  let s := s.retryFront.retryStrips.retrySaves
  if k == debugKey true then runForwarded s.dbgFwd.length s
  else if k == debugKey false && s.dbg.todo then s.later (debugEvent (dcOp s.dbg.dcmd.toNat))
  else s

/-- Ends a wait for a remote access. -/
def freeRemote (pkg : Nat) (t : Thread) : Thread := { t with hold := if t.hold = .remote pkg then .none else t.hold }

/-- A write of this package to another has been performed there: the watches on its block are marked (R119). -/
def State.remoteWritten (s : State) (w : Option ThreadKey) (pkg : Nat) (va : W64) : State :=
  { s with threads := s.threads.mapV (watchMark w (remoteFlat pkg va.toNat) 1) }

/-- REMOTE_REPLY (R193, R350): the reply reaches the access that asked; one of a lost package is discarded. -/
def execRemoteReply (k : ThreadKey) (pkg : Nat) (va : W64) (o : RemoteOutcome) (s : State) : Host.Outcome State Fault Refusal :=
  let t := s.thOf k
  .next <| match t.asked.find? fun q => q.1 != 4 && q.2.1 == pkg && q.2.2.1 == va
      && !t.replies.any fun r => r.who == q.1 && r.pkg == pkg && r.va == va && r.wr == q.2.2.2 with
    | none => s
    | some q =>
      if !s.reachable pkg then s
      else
        let n := match o with
          | .data bs => bs.length
          | _ => 0
        let s := s.crosses (unitOf k) (keyOf t.part t.owner) pkg true n
        let s := if q.2.2.2 then s.remoteWritten (if q.1 < 2 then some k else none) pkg va else s
        (s.modTh k fun t => freeRemote pkg { t with replies := t.replies ++ [⟨q.1, pkg, va, o, q.2.2.2⟩] }).retryParty k

/-- A thread after the loss of a package: its accesses there fail, and a reference asked of it has no live link (R290, R350). -/
def peerGone (pkg : Nat) (t : Thread) : Thread :=
  let t := freeRemote pkg t
  if t.asked.any fun q => q.1 == 4 && q.2.1 == pkg then
    { t with refReply := some (t.refReply.getD .noLink) }
  else t

/-- PEER_LOSS_TIMEOUT (R348, R290): a member of the domain is lost. -/
def execPeerLossTimeout (pkg : Nat) (s : State) : Host.Outcome State Fault Refusal :=
  .next <|
    if !s.reachable pkg || pkg == s.urnyx.number then s
    else
      let s : State := { s with urnyx := { s.urnyx with lostPeers := s.urnyx.lostPeers ++ [pkg] } }
      let s := (s.logAll 6 pkg).lostPackage pkg
      let s : State := { s with threads := s.threads.mapV fun _ => peerGone pkg }
      let s := s.retryFront.retryStrips.retrySaves
      let s := runForwarded s.dbgFwd.length s
      if s.dbg.todo then s.later (debugEvent (dcOp s.dbg.dcmd.toNat))
      else if s.dbg.busy && dcPkg s.dbg.dcmd.toNat == pkg then s.endDebug 6 none
      else s

/-- NEAR_CACHE_EVICT (R267): the line goes back to HBM and is dropped. -/
def execNearCacheEvict (line : Nat) (s : State) : Host.Outcome State Fault Refusal :=
  .next { s with nearLines := s.nearLines.filter (· != line) }

/-! ## Urnyx -/

/-- FIRMWARE_LOAD (R20). -/
def execFirmwareLoad (image ed ml : List Byte) (s : State) : Host.Outcome State Fault Refusal :=
  .next <|
    if Config.ed25519Verifies image ed && Config.mldsa65Verifies image ml then
      { s with urnyx := { s.urnyx with image := some image, measure := Config.sha384 image } }
    else { s with urnyx := { s.urnyx with refusals := s.urnyx.refusals ++ [Config.sha384 image] } }

/-- Whether two ranges of a base and a count are apart. -/
def apart (a n b m : Nat) : Bool := n == 0 || m == 0 || decide (a + n ≤ b) || decide (b + m ≤ a)

/-- Whether a partition may be set up (R205, R222): it is new, its numbers are in range, and it shares nothing. -/
def State.setupOk (s : State) (c : PartCfg) : Bool :=
  decide (c.id < 16) && !(s.part c.id).up && decide (c.func ≤ 16)
    && !c.clusters.isEmpty && c.clusters.all (fun k => decide (k < 48)) && !c.slices.isEmpty && c.slices.all (fun k => decide (k < 64))
    && decide (c.ctxBase + c.ctxCount ≤ 4096) && decide (c.qBase + c.qCount ≤ 16384)
    && s.parts.all fun e => !e.2.up || (e.2.func != c.func && !e.2.clusters.any c.clusters.contains && !e.2.slices.any c.slices.contains
      && apart e.2.ctxBase e.2.ctxCount c.ctxBase c.ctxCount && apart e.2.qBase e.2.qCount c.qBase c.qCount)

/-- An arbiter with every key of a partition at its start (R386). -/
def freshKeys (p : Nat) (a : Arb) : Arb :=
  let mine := fun (e : Nat × Nat) => keyPart e.1 != p
  { a with
    vt := (List.range 64).foldl (fun v o => v.put (keyOf p o) 0) a.vt
    remV := a.remV.filter mine, remU := a.remU.filter mine, remD := a.remD.filter mine
    hsUp := a.hsUp.filter mine, hxUp := a.hxUp.filter mine, hsDn := a.hsDn.filter mine, hxDn := a.hxDn.filter mine }

/-- PARTITION_SETUP (R205, R206, R386). -/
def execPartitionSetup (c : PartCfg) (s : State) : Host.Outcome State Fault Refusal :=
  .next <|
    if s.setupOk c then
      { s with
        parts := s.parts.put c.id { up := true, func := c.func, clusters := c.clusters, slices := c.slices, ctxBase := c.ctxBase
                                    ctxCount := c.ctxCount, qBase := c.qBase, qCount := c.qCount, saveMax := c.saveMax
                                    permits := c.perm }
        arbs := s.arbs.mapV fun n a => if isFifo n then a else freshKeys c.id a }
    else s

/-- Whether a cluster may move: no context holds a group on its cores, and its partition keeps another (R205). -/
def State.moveOk (s : State) (cl p : Nat) : Bool :=
  decide (cl < 48) && (s.part p).up && !(s.part p).clusters.contains cl
    && (coresOfClu cl).all (fun c => (s.holding c).isEmpty && (keysOf c).all fun k => (s.thOf k).exitedOf.isNone)
    && (match s.partOfCluster cl with
      | some q => decide (1 < (s.part q).clusters.length)
      | none => true)

/-- Cleans a core of a cluster that moves, charged to the partition that gives it up. -/
def State.moveClean (s : State) (from_ : Option Nat) (c : Nat) : State :=
  let s : State := match from_ with
    | some q => { s with freeCtr := s.freeCtr + 1, pkgDelay := s.pkgDelay.upd 0 (pkgIdx clsSeq q q) (sat48 · (cleanCycles s.freeCtr)) }
    | none => s
  (s.cleanCore c).modCore c fun x => { x with clean := true }

/-- CLUSTER_MOVE (R205, R333). -/
def execClusterMove (cl p : Nat) (s : State) : Host.Outcome State Fault Refusal :=
  .next <|
    if s.moveOk cl p then
      let q := s.partOfCluster cl
      let s := (coresOfClu cl).foldl (fun s c => s.moveClean q c) s
      let s := match q with
        | some q => s.modPart q fun x => { x with clusters := x.clusters.filter (· != cl) }
        | none => s
      let s := s.modPart p fun x => { x with clusters := x.clusters ++ [cl] }
      let s := ((coresOfClu cl).filter fun c => levelOf c == 0).foldl (fun s c => s.modStr (strOf c) fun r => { r with off := false, offPend := none }) s
      s.later (.placeGroup p)
    else s

/-- DOMAIN_SETUP (R348, R355). -/
def execDomainSetup (number : Nat) (members : List Nat) (master : Nat) (s : State) : Host.Outcome State Fault Refusal :=
  .next <|
    if number < 64 && members.contains number && members.all (fun m => decide (m < 64)) then
      { s with urnyx := { s.urnyx with number, members, master := some master, lostPeers := [] } }
    else s

/-- PACKAGE_RESET (R5): every field takes its reset value. What the environment still brings, memory, and what has left the
package stay. -/
def execPackageReset (s : State) : Host.Outcome State Fault Refusal :=
  .next { State.reset with
    agenda := s.agenda, lockstep := s.lockstep, freeCtr := s.freeCtr, mem := s.mem, fabricOut := s.fabricOut, hostOut := s.hostOut }

end Sys2Proof.Machine
end

