-- ==== Sys2Proof/Machine/Fetch.lean ====
section
/-! DEFINITION. The traps of a fetch unit that has no instruction to run: ILLOP (R91 checks 1 to 5) and a fetch fault (R270). -/

namespace Sys2Proof.Machine

/-- UNALLOCATED_WORD_FETCH (R91): the fetch unit being run is no instruction, or is misplaced. -/
def execUnallocatedWordFetch (detail : Nat) (s : State) : Host.Outcome State Fault Refusal := .next (s.trap cILLOP detail)

/-- INSTRUCTION_FETCH_FAULT (R270, R72): a word of the fetch unit at the pc cannot be fetched. -/
def execInstructionFetchFault (cause : Nat) (va : W64) (long : Bool) (s : State) : Host.Outcome State Fault Refusal :=
  .next ((s.mod fun t => { t with fu := { t.fu with long } }).accessFault cause 0 va 0 2 false)

end Sys2Proof.Machine
end

