-- ==== Sys2Proof/Machine/MatOps.lean ====
section
/-! DEFINITION. The palette and matrix instructions: major 0x38 (R171–R187). -/

namespace Sys2Proof.Machine

/-! ## Checks at routing (R181–R183) -/

/-- PALSTATE 5: a span with more than one attached member. -/
def ckSpan (t : Thread) : Option (Nat × Nat) :=
  if 1 < (attached t.v.members).length then some (palDetail 5 0) else none
/-- PALSTATE 1: the slot is not claimed by the thread. -/
def ckClaim (s : State) (k : ThreadKey) (x : Nat) : Option (Nat × Nat) :=
  if s.claimed k x then none else some (palDetail 1 x)
/-- Reason 16: the accumulator's tag. -/
def ckAcc (t : ETag) : Option (Nat × Nat) := if t == .fp32 then none else some (typeDetail 16 (t.code * 32))
/-- Reason 17: the operand pair. -/
def ckPair (ok : Bool) (a b : ETag) : Option (Nat × Nat) :=
  if ok && (pairWeight a b).isSome then none else some (typeDetail 17 (a.code * 32 + b.code))
/-- Reason 18: the output tile against a bound. -/
def ckTile (vd n bound : Nat) : Option (Nat × Nat) := if bound < n then some (typeDetail 18 vd) else none
/-- Reason 19: VL against the DEPTH of an unscaled slot. -/
def ckDepth (vl x : Nat) (sh : Shape) : Option (Nat × Nat) :=
  if !sh.tag.isScaled && decide (sh.depth < vl) then some (typeDetail 19 x) else none
/-- Reason 20: LINES against the lane groups. -/
def ckLines (lg x : Nat) (sh : Shape) : Option (Nat × Nat) := if sh.lines % lg == 0 then none else some (typeDetail 20 x)

/-- The shape word of a slot, captured at routing (R173). -/
def State.slotShape (s : State) (k : ThreadKey) (x : Nat) : W64 := ((s.core (coreOf k)).slot x).shape
/-- BYTES ÷ 4 of the thread's member. DEDUCED (log entry 61): from the captured G, as R130 decides. -/
def tileBound (v : VecState) : Nat := gOf v.gc * nwOf v.members 0 * 16

/-! ## Routings -/

/-- Routing of mma (R184). -/
def mmaRouting (vd : VReg) (x y : BitVec 5) (k : MReg) (s : State) : Routing :=
  let t := s.th
  let wx := s.slotShape s.cur x.toNat
  let wy := s.slotShape s.cur y.toNat
  let sx := shapeGet wx
  let sy := shapeGet wy
  { bad := firstBad [ckD isVPlain vd, ckX isSlot x, ckY isSlot y]
    typ := firstSome [ckGroup t.v.gc vd.toNat, ckSpan t, ckClaim s s.cur x.toNat, ckClaim s s.cur y.toNat,
      ckAcc (tagOf t.v vd.toNat), ckPair true sx.tag sy.tag, ckTile vd.toNat (sx.lines * sy.lines) (tileBound t.v),
      ckDepth t.v.vl x.toNat sx, ckDepth t.v.vl y.toNat sy]
    ent := { t.entry .mma with d := vd.toNat, k := k.toNat, x := x.toNat, y := y.toNat, capA := wx, capB := wy, inExe := true
                               tagD := .fp32, tagA := sx.tag, tagB := sy.tag } }

/-- Whether mmax takes activations of a tag: BF16 or F8 (R180). -/
def mmaxTakes (t : ETag) : Bool := t == .bf16 || t == .f8a || t == .f8b

/-- Routing of mmax (R186). -/
def mmaxRouting (vd : VReg) (x : BitVec 5) (va vi : VReg) (k : MReg) (s : State) : Routing :=
  let t := s.th
  let wx := s.slotShape s.cur x.toNat
  let sx := shapeGet wx
  let ta := t.srcTag va.toNat
  let ti := t.srcTag vi.toNat
  { bad := firstBad [ckD isVPlain vd, ckX isSlot x, ckP isVSrc va, ckP isVSrc vi]
    pops := popsOf [va.toNat, vi.toNat]
    typ := firstSome [ckGroup t.v.gc vd.toNat, ckGroup t.v.gc va.toNat, ckGroup t.v.gc vi.toNat, ckIndex ti,
      ckCap t.v.gc t.v.members t.v.vl va.toNat ta, ckCap t.v.gc t.v.members t.v.vl vi.toNat ti,
      ckSpan t, ckClaim s s.cur x.toNat, ckAcc (tagOf t.v vd.toNat), ckPair (mmaxTakes ta) ta sx.tag,
      ckTile vd.toNat sx.lines (tileBound t.v)]
    ent := { t.entry .mmax with d := vd.toNat, a := va.toNat, b := vi.toNat, k := k.toNat, x := x.toNat, capA := wx, inExe := true
                                tagD := .fp32, tagA := ta, tagB := ti } }

/-- Routing of mmab (R187); the length scalar is captured. DESIGN CHOICE (log entry 57): reason 18 judges Ma and Nb rounded down where
LINES is not a multiple of L. -/
def mmabRouting (vd : VReg) (x y : BitVec 5) (sl : SReg) (k : MReg) (s : State) : Routing :=
  let t := s.th
  let wx := s.slotShape s.cur x.toNat
  let wy := s.slotShape s.cur y.toNat
  let sx := shapeGet wx
  let sy := shapeGet wy
  let lg := laneGroups (t.v.members.take 1)
  { bad := firstBad [ckD isVPlain vd, ckX isSlot x, ckY isSlot y]
    typ := firstSome [ckGroup t.v.gc vd.toNat, ckSpan t, ckClaim s s.cur x.toNat, ckClaim s s.cur y.toNat,
      ckAcc (tagOf t.v vd.toNat), ckPair (!sx.tag.isScaled && !sy.tag.isScaled) sx.tag sy.tag,
      ckTile vd.toNat (sx.lines / lg * (sy.lines / lg)) (batchOut t.v.gc (t.v.members.take 1)),
      ckDepth t.v.vl x.toNat sx, ckDepth t.v.vl y.toNat sy, ckLines lg x.toNat sx, ckLines lg y.toNat sy]
    ent := { t.entry .mmab with d := vd.toNat, k := k.toNat, x := x.toNat, y := y.toNat, capA := wx, capB := wy, inExe := true
                                tagD := .fp32, tagA := sx.tag, tagB := sy.tag, buf := [(0, (getScalar t none sl.toNat).toNat)] } }

/-- Routing of mldt (R176). -/
def mldtRouting (sa : VReg) (x : BitVec 5) (s : State) : Routing :=
  let t := s.th
  { bad := firstBad [ckD isScalar6 sa, ckX isSlot x]
    typ := firstSome [ckSpan t, ckClaim s s.cur x.toNat]
    ent := { t.entry .mldt with d := sa.toNat, x := x.toNat, capA := t.scalar6 sa, capB := s.slotShape s.cur x.toNat
                                inAcc := true, start := 0 } }

/-- Routing of cbld (R177). -/
def cbldRouting (sa : VReg) (cb : BitVec 5) (s : State) : Routing :=
  let t := s.th
  { bad := firstBad [ckD isScalar6 sa, ckX isCbSlot cb]
    typ := ckSpan t
    ent := { t.entry .cbld with d := sa.toNat, x := cb.toNat, capA := t.scalar6 sa, inAcc := true, start := 0 } }

/-- MMA (R184, R185). -/
def execMma (vd : VReg) (x y : BitVec 5) (k : MReg) (s : State) : Host.Outcome State Fault Refusal :=
  .next (s.route (mmaRouting vd x y k s))
/-- MMAX (R186). -/
def execMmax (vd : VReg) (x : BitVec 5) (va vi : VReg) (k : MReg) (s : State) : Host.Outcome State Fault Refusal :=
  .next (s.route (mmaxRouting vd x va vi k s))
/-- MMAB (R187). -/
def execMmab (vd : VReg) (x y : BitVec 5) (sl : SReg) (k : MReg) (s : State) : Host.Outcome State Fault Refusal :=
  .next (s.route (mmabRouting vd x y sl k s))
/-- MLDT (R176). -/
def execMldt (sa : VReg) (x : BitVec 5) (s : State) : Host.Outcome State Fault Refusal := .next (s.route (mldtRouting sa x s))
/-- CBLD (R177). -/
def execCbld (sa : VReg) (cb : BitVec 5) (s : State) : Host.Outcome State Fault Refusal := .next (s.route (cbldRouting sa cb s))

/-! ## Claims and releases, which act at routing -/

/-- Whether a group other than the thread's, on the core, reserves the slot (R236). -/
def State.reservedByOther (s : State) (k : ThreadKey) (x : Nat) : Bool :=
  s.groups.any fun g => (g.st == .loading || g.st == .loaded || g.st == .stopping) && (s.thOf k).group != some g.id
    && g.mems.any (fun m => m.1 == coreOf k) && bit g.palm x

/-- Changes a slot of a core. -/
def State.setSlot (s : State) (c x : Nat) (f : Slot → Slot) : State :=
  s.modCore c fun y => { y with slots := y.slots.upd {} x f }

/-- MCLAIM (R173). -/
def execMclaim (sa : VReg) (x : BitVec 5) (s : State) : Host.Outcome State Fault Refusal :=
  let k := s.cur
  let n := x.toNat
  .next <| match firstBad [ckD isScalar6 sa, ckX isSlot x] with
    | some (f, v) => s.illReg f v
    | none =>
      let w := s.th.scalar6 sa
      match ckSpan s.th with
      | some (c, d) => s.trap c d
      | none =>
        if (shapeOf w).isNone then s.trap cPALSTATE (palDetail 3 n).2
        else
          let claim := (s.setSlot (coreOf k) n fun _ => { st := .claimed k, shape := w, data := 0 }).advance
          match ((s.core (coreOf k)).slot n).st with
          | .claimed j => if j != k then s.trap cPALSTATE (palDetail 2 n).2 else if s.th.uses n then s.holdOn (.slot n) else claim
          | .releasing _ => if s.reservedByOther k n then s.trap cPALSTATE (palDetail 2 n).2 else s.holdOn (.slot n)
          | .free => if s.reservedByOther k n then s.trap cPALSTATE (palDetail 2 n).2 else claim

/-- MREL (R174). -/
def execMrel (x : BitVec 5) (s : State) : Host.Outcome State Fault Refusal :=
  let k := s.cur
  .next <| match firstBad [ckX isSlot x] with
    | some (f, v) => s.illReg f v
    | none =>
      match firstSome [ckSpan s.th, ckClaim s k x.toNat] with
      | some (c, d) => s.trap c d
      | none => ((s.setSlot (coreOf k) x.toNat fun sl => { sl with st := .releasing k }).sweepSlots (coreOf k)).advance

end Sys2Proof.Machine
end

