-- ==== Sys2Proof/Machine/VMask.lean ====
section
/-! DEFINITION. Compares, mask logic and mask scalars: majors 0x2A and part of 0x2B (R138–R140). -/

namespace Sys2Proof.Machine

/-- Routing of a compare (R138). -/
def cmpRouting (r : Rel) (w : VBin) (t : Thread) : Routing :=
  let ta := t.srcTag w.va.toNat
  let tb := if w.c then ta else t.srcTag w.vb.toNat
  { bad := binCk w isMaskDst
    pops := popsOf (binSources w)
    typ := firstSome [ckGroup t.v.gc w.va.toNat, if w.c then none else ckGroup t.v.gc w.vb.toNat,
      ckShare ta [some tb], ckImpl (ta.isInt || ta.isIeee) ta, ckCap t.v.gc t.v.members t.v.vl w.va.toNat ta,
      if w.c then none else ckCap t.v.gc t.v.members t.v.vl w.vb.toNat tb]
    ent := t.binEntry (.cmp r) w ta tb ta }

/-- Routing of mask logic (R139). -/
def mlogRouting (o : MLogK) (md ma mb : VReg) (t : Thread) : Routing :=
  { bad := firstBad [ckD isMaskDst md, ckA isMask6 ma, ckB isMask6 mb]
    ent := { t.entry (.mlog o) with d := md.toNat, a := ma.toNat, b := mb.toNat, inExe := true } }

/-- Routing of mpop and mff1 (R140). -/
def mscalRouting (op : VOp) (sd ma : VReg) (t : Thread) : Routing :=
  { bad := firstBad [ckD isScalar6 sd, ckA isMask6 ma]
    ent := { t.entry op with d := sd.toNat, a := ma.toNat, inExe := true } }

/-- VCEQ (R138). -/
def execVceq (o : VBin) (s : State) : Host.Outcome State Fault Refusal := .next (s.route (cmpRouting .eq o s.th))
/-- VCNE (R138). -/
def execVcne (o : VBin) (s : State) : Host.Outcome State Fault Refusal := .next (s.route (cmpRouting .ne o s.th))
/-- VCLT (R138). -/
def execVclt (o : VBin) (s : State) : Host.Outcome State Fault Refusal := .next (s.route (cmpRouting .lt o s.th))
/-- VCLE (R138). -/
def execVcle (o : VBin) (s : State) : Host.Outcome State Fault Refusal := .next (s.route (cmpRouting .le o s.th))
/-- VCGT (R138). -/
def execVcgt (o : VBin) (s : State) : Host.Outcome State Fault Refusal := .next (s.route (cmpRouting .gt o s.th))
/-- VCGE (R138). -/
def execVcge (o : VBin) (s : State) : Host.Outcome State Fault Refusal := .next (s.route (cmpRouting .ge o s.th))
/-- VCUN (R138). -/
def execVcun (o : VBin) (s : State) : Host.Outcome State Fault Refusal := .next (s.route (cmpRouting .un o s.th))
/-- MAND (R139). -/
def execMand (md ma mb : VReg) (s : State) : Host.Outcome State Fault Refusal := .next (s.route (mlogRouting .and md ma mb s.th))
/-- MOR (R139). -/
def execMor (md ma mb : VReg) (s : State) : Host.Outcome State Fault Refusal := .next (s.route (mlogRouting .or md ma mb s.th))
/-- MXOR (R139). -/
def execMxor (md ma mb : VReg) (s : State) : Host.Outcome State Fault Refusal := .next (s.route (mlogRouting .xor md ma mb s.th))
/-- MANDN (R139). -/
def execMandn (md ma mb : VReg) (s : State) : Host.Outcome State Fault Refusal := .next (s.route (mlogRouting .andn md ma mb s.th))
/-- MNOT (R139). -/
def execMnot (md ma : VReg) (s : State) : Host.Outcome State Fault Refusal := .next (s.route (mlogRouting .not md ma 0 s.th))
/-- MSBF (R139). -/
def execMsbf (md ma : VReg) (s : State) : Host.Outcome State Fault Refusal := .next (s.route (mlogRouting .sbf md ma 0 s.th))
/-- MSIF (R139). -/
def execMsif (md ma : VReg) (s : State) : Host.Outcome State Fault Refusal := .next (s.route (mlogRouting .sif md ma 0 s.th))
/-- MPOP (R140). -/
def execMpop (sd ma : VReg) (s : State) : Host.Outcome State Fault Refusal := .next (s.route (mscalRouting .mpop sd ma s.th))
/-- MFF1 (R140). -/
def execMff1 (sd ma : VReg) (s : State) : Host.Outcome State Fault Refusal := .next (s.route (mscalRouting .mff1 sd ma s.th))

end Sys2Proof.Machine
end

