-- ==== Sys2Proof/Machine/VPerm.lean ====
section
/-! DEFINITION. Permutes: major 0x2B (R141–R147). -/

namespace Sys2Proof.Machine

/-- Routing of vperm (R142). -/
def permRouting (w : VBin) (t : Thread) : Routing :=
  let ta := t.srcTag w.va.toNat
  let tb := if w.c then .n64 else t.srcTag w.vb.toNat
  let td := (t.dstTag w.vd.toNat).getD ta
  { bad := binCk w isVDst
    pops := popsOf (binSources w)
    push := pushOf w.vd
    pushTag := ta
    typ := firstSome (binGroups w t.v.gc ++ [ckShare ta [t.dstTag w.vd.toNat], if w.c then none else ckIndex tb]
      ++ binCaps w t.v ta tb td)
    ent := t.binEntry .perm w ta tb td }

/-- Routing of the slides and xch, whose second source is a scalar (R143, R147). -/
def slideRouting (op : VOp) (w : VSc) (t : Thread) : Routing :=
  let ta := t.srcTag w.va.toNat
  let td := (t.dstTag w.vd.toNat).getD ta
  { bad := firstBad [ckD isVDst w.vd, ckA isVSrc w.va, ckB isScalar6 w.sb]
    pops := popsOf [w.va.toNat]
    push := pushOf w.vd
    pushTag := ta
    typ := firstSome [ckGroup t.v.gc w.vd.toNat, ckGroup t.v.gc w.va.toNat, ckShare ta [t.dstTag w.vd.toNat],
      ckCap t.v.gc t.v.members t.v.vl w.vd.toNat td, ckCap t.v.gc t.v.members t.v.vl w.va.toNat ta]
    ent := { t.entry op with d := w.vd.toNat, a := w.va.toNat, k := w.k.toNat, c := true, inExe := true
                             capB := t.scalar6 w.sb, tagA := ta, tagB := ta, tagD := td } }

/-- Routing of vcompress and vexpand (R144). -/
def packRouting (op : VOp) (w : VUn) (t : Thread) : Routing :=
  let ta := t.srcTag w.va.toNat
  let td := (t.dstTag w.vd.toNat).getD ta
  { bad := firstBad [ckD isVDst w.vd, ckA isVSrc w.va]
    pops := popsOf [w.va.toNat]
    push := pushOf w.vd
    pushTag := ta
    typ := firstSome [ckGroup t.v.gc w.vd.toNat, ckGroup t.v.gc w.va.toNat, ckShare ta [t.dstTag w.vd.toNat],
      ckCap t.v.gc t.v.members t.v.vl w.vd.toNat td, ckCap t.v.gc t.v.members t.v.vl w.va.toNat ta]
    ent := t.unEntry op w ta td }

/-- Routing of viota (R145); an sq tail, which has no tag, takes N64. -/
def iotaRouting (vd : VReg) (k : MReg) (t : Thread) : Routing :=
  let td := (t.dstTag vd.toNat).getD .n64
  { bad := firstBad [ckD isVDst vd]
    push := pushOf vd
    pushTag := td
    typ := firstSome [ckGroup t.v.gc vd.toNat, ckImpl td.isInt td, ckCap t.v.gc t.v.members t.v.vl vd.toNat td]
    ent := { t.entry .iota with d := vd.toNat, k := k.toNat, inExe := true, tagD := td, tagA := td, tagB := td } }

/-- Routing of vmerge (R145). -/
def mergeRouting (w : VBin) (t : Thread) : Routing :=
  let ta := t.srcTag w.va.toNat
  let tb := if w.c then ta else t.srcTag w.vb.toNat
  let td := (t.dstTag w.vd.toNat).getD ta
  { bad := binCk w isVDst
    pops := popsOf (binSources w)
    push := pushOf w.vd
    pushTag := ta
    typ := firstSome (binGroups w t.v.gc ++ [ckShare ta [t.dstTag w.vd.toNat, some tb], ckSplit w.c ta] ++ binCaps w t.v ta tb td)
    ent := t.binEntry .merge w ta tb td }

/-- Routing of vins (R146); an sq tail, which has no tag, takes N64. -/
def insRouting (vd sa sb : VReg) (t : Thread) : Routing :=
  let td := (t.dstTag vd.toNat).getD .n64
  { bad := firstBad [ckD isVDst vd, ckA isScalar6 sa, ckB isScalar6 sb]
    push := pushOf vd
    pushTag := td
    typ := firstSome [ckGroup t.v.gc vd.toNat, ckSplit true td, ckCap t.v.gc t.v.members t.v.vl vd.toNat td]
    ent := { t.entry .ins with d := vd.toNat, c := true, inExe := true, capA := t.scalar6 sa, capB := t.scalar6 sb
                               tagD := td, tagA := td, tagB := td } }

/-- Routing of vext (R146). -/
def extRouting (sd va sb : VReg) (t : Thread) : Routing :=
  let ta := t.srcTag va.toNat
  { bad := firstBad [ckD isScalar6 sd, ckA isVSrc va, ckB isScalar6 sb]
    pops := popsOf [va.toNat]
    typ := firstSome [ckGroup t.v.gc va.toNat, ckSplit true ta, ckCap t.v.gc t.v.members t.v.vl va.toNat ta]
    ent := { t.entry .ext with d := sd.toNat, a := va.toNat, c := true, inExe := true, capB := t.scalar6 sb
                               tagD := ta, tagA := ta, tagB := ta } }

/-- VPERM (R142). -/
def execVperm (o : VBin) (s : State) : Host.Outcome State Fault Refusal := .next (s.route (permRouting o s.th))
/-- VSLIDEUP (R143). -/
def execVslideup (o : VSc) (s : State) : Host.Outcome State Fault Refusal := .next (s.route (slideRouting .slideup o s.th))
/-- VSLIDEDN (R143). -/
def execVslidedn (o : VSc) (s : State) : Host.Outcome State Fault Refusal := .next (s.route (slideRouting .slidedn o s.th))
/-- VCOMPRESS (R144). -/
def execVcompress (o : VUn) (s : State) : Host.Outcome State Fault Refusal := .next (s.route (packRouting .compress o s.th))
/-- VEXPAND (R144). -/
def execVexpand (o : VUn) (s : State) : Host.Outcome State Fault Refusal := .next (s.route (packRouting .expand o s.th))
/-- VIOTA (R145). -/
def execViota (vd : VReg) (k : MReg) (s : State) : Host.Outcome State Fault Refusal := .next (s.route (iotaRouting vd k s.th))
/-- VMERGE (R145). -/
def execVmerge (o : VBin) (s : State) : Host.Outcome State Fault Refusal := .next (s.route (mergeRouting o s.th))
/-- VINS (R146). -/
def execVins (vd sa sb : VReg) (s : State) : Host.Outcome State Fault Refusal := .next (s.route (insRouting vd sa sb s.th))
/-- VEXT (R146). -/
def execVext (sd va sb : VReg) (s : State) : Host.Outcome State Fault Refusal := .next (s.route (extRouting sd va sb s.th))
/-- XCH (R147). -/
def execXch (o : VSc) (s : State) : Host.Outcome State Fault Refusal := .next (s.route (slideRouting .xch o s.th))

end Sys2Proof.Machine
end

