-- ==== Sys2Proof/Machine/VReduce.lean ====
section
/-! DEFINITION. Reductions and conversions: majors 0x2C and 0x2D (R148, R149). -/

namespace Sys2Proof.Machine

/-- The tags a reduction takes (R148). -/
def RedK.takes (o : RedK) (t : ETag) : Bool :=
  match o with
  | .and | .or | .xor => t.isInt
  | _ => t.isInt || t.isIeee

/-- Routing of a reduction (R148). -/
def redRouting (o : RedK) (tree : Bool) (w : VSc) (t : Thread) : Routing :=
  let ta := t.srcTag w.va.toNat
  { bad := firstBad [ckD isScalar6 w.vd, ckA isVSrc w.va, ckB isScalar6 w.sb]
    pops := popsOf [w.va.toNat]
    typ := firstSome [ckGroup t.v.gc w.va.toNat, ckImpl (o.takes ta) ta, ckCap t.v.gc t.v.members t.v.vl w.va.toNat ta]
    ent := { t.entry (.red o tree) with d := w.vd.toNat, a := w.va.toNat, k := w.k.toNat, c := true, inExe := true
                                        capB := t.scalar6 w.sb, tagA := ta, tagB := ta, tagD := ta } }

/-- Reason 9 for the destination of a conversion: its own element count (R149, R124). -/
def ckCvtCap (v : VecState) (vd : Nat) (src dst : ETag) : Option (Nat × Nat) :=
  let n := if src.isScaled then unitCap src else 1
  if fits v.gc (scaleDist v.members n) (v.vl * n) dst.bits then none else some (typeDetail 9 vd)

/-- Routing of vcvt (R149); a reserved destination code fails with reason 1. -/
def cvtRouting (w : VUn) (code : BitVec 6) (t : Thread) : Routing :=
  let ta := t.srcTag w.va.toNat
  let dst := tagOfCode code.toNat
  let td := dst.getD .n64
  { bad := firstBad [ckD isVDst w.vd, ckA isVSrc w.va]
    pops := popsOf [w.va.toNat]
    push := pushOf w.vd
    pushTag := td
    typ := firstSome [if dst.isSome then none else some (typeDetail 1 code.toNat),
      ckGroup t.v.gc w.vd.toNat, ckGroup t.v.gc w.va.toNat,
      if cvtAllowed ta td then none else some (typeDetail 6 (ta.code * 32 + td.code)),
      ckCvtCap t.v w.vd.toNat ta td, ckCap t.v.gc t.v.members t.v.vl w.va.toNat ta]
    setTag := if isQ w.vd.toNat then none else some (w.vd.toNat, td)
    ent := t.unEntry (.cvt td) w ta td }

/-- VRADD_T (R148). -/
def execVraddT (o : VSc) (s : State) : Host.Outcome State Fault Refusal := .next (s.route (redRouting .add true o s.th))
/-- VRADD_O (R148). -/
def execVraddO (o : VSc) (s : State) : Host.Outcome State Fault Refusal := .next (s.route (redRouting .add false o s.th))
/-- VRMIN_T (R148). -/
def execVrminT (o : VSc) (s : State) : Host.Outcome State Fault Refusal := .next (s.route (redRouting .min true o s.th))
/-- VRMIN_O (R148). -/
def execVrminO (o : VSc) (s : State) : Host.Outcome State Fault Refusal := .next (s.route (redRouting .min false o s.th))
/-- VRMAX_T (R148). -/
def execVrmaxT (o : VSc) (s : State) : Host.Outcome State Fault Refusal := .next (s.route (redRouting .max true o s.th))
/-- VRMAX_O (R148). -/
def execVrmaxO (o : VSc) (s : State) : Host.Outcome State Fault Refusal := .next (s.route (redRouting .max false o s.th))
/-- VRAND (R148). -/
def execVrand (o : VSc) (s : State) : Host.Outcome State Fault Refusal := .next (s.route (redRouting .and true o s.th))
/-- VROR (R148). -/
def execVror (o : VSc) (s : State) : Host.Outcome State Fault Refusal := .next (s.route (redRouting .or true o s.th))
/-- VRXOR (R148). -/
def execVrxor (o : VSc) (s : State) : Host.Outcome State Fault Refusal := .next (s.route (redRouting .xor true o s.th))
/-- VCVT (R149). -/
def execVcvt (o : VUn) (tag : BitVec 6) (s : State) : Host.Outcome State Fault Refusal := .next (s.route (cvtRouting o tag s.th))

end Sys2Proof.Machine
end

