-- ==== Sys2Proof/Machine/VecMem.lean ====
section
/-! DEFINITION. Vector memory: majors 0x31 to 0x33 (R151–R168, R230, R302). -/

namespace Sys2Proof.Machine

/-- The reason 1 check of a prefix's TAG (R89, R130). -/
def ckPayTag (p : VPay) : Option (Nat × Nat) :=
  if p.present && (tagOfCode p.tag.toNat).isNone then some (typeDetail 1 p.tag.toNat) else none

/-- The data tag (R152): a register's own, a queue's from the prefix. -/
def Thread.dataTag (t : Thread) (vd : VReg) (p : VPay) : ETag :=
  if isQ vd.toNat then (tagOfCode p.tag.toNat).getD .n64 else tagOf t.v vd.toNat

/-- Reason 4 for K4 data: the unit-stride forms alone, with an even VL and VSTART (R153). -/
def ckNibble (v : VecState) (f : MemForm) (t : ETag) : Option (Nat × Nat) :=
  ckImpl (t != .k4 || (f == .unit && v.vl % 2 == 0 && v.vstart % 2 == 0)) t

/-- The second address operand: none, a stride scalar or an index register. -/
structure AddrOp where
  form : MemForm
  b    : VReg
deriving DecidableEq, Repr

/-- Check 7 on the address operands. -/
def AddrOp.ck (x : AddrOp) : List (Bool × Nat × Nat) :=
  match x.form with
  | .unit => []
  | .strided => [ckB isScalar6 x.b]
  | .indexed => [ckB isVPlain x.b]

/-- The entry of a vector-memory word. -/
def Thread.memEntry (t : Thread) (op : VOp) (vd sa : VReg) (x : AddrOp) (k : MReg) (p : VPay) (td : ETag) : Entry :=
  { t.entry op with
    d := vd.toNat, a := sa.toNat, b := x.b.toNat, k := k.toNat
    capA := t.scalar6 sa, capB := if x.form == .strided then t.scalar6 x.b else 0
    tagD := td, tagA := td, tagB := if x.form == .indexed then tagOf t.v x.b.toNat else td
    ord := p.ord.toNat, scope := p.scope.toNat
    inAcc := true, inExe := !isQ vd.toNat }

/-- The checks of check 8 on the operands (R130), `more` those of reasons 3 and 4. -/
def Thread.memTyp (t : Thread) (vd : VReg) (x : AddrOp) (p : VPay) (td : ETag) (more : List (Option (Nat × Nat))) :
    Option (Nat × Nat) :=
  let ix := x.form == .indexed
  let ti := tagOf t.v x.b.toNat
  firstSome ([ckPayTag p, ckGroup t.v.gc vd.toNat, if ix then ckGroup t.v.gc x.b.toNat else none] ++ more
    ++ [if ix then ckIndex ti else none, ckCap t.v.gc t.v.members t.v.vl vd.toNat td,
        if ix then ckCap t.v.gc t.v.members t.v.vl x.b.toNat ti else none])

/-- Routing of a load (R154, R160). -/
def loadRouting (ff ordered : Bool) (vd sa : VReg) (x : AddrOp) (k : MReg) (p : VPay) (t : Thread) : Routing :=
  let td := t.dataTag vd p
  { bad := firstBad ([ckD isLoadData vd, ckA isScalar6 sa] ++ x.ck)
    push := if isQ vd.toNat then some vd.toNat else none
    pushTag := td
    typ := t.memTyp vd x p td [ckNibble t.v x.form td]
    ent := t.memEntry (.load x.form ff ordered) vd sa x k p td }

/-- Reason 3 of a store from a queue: TAG against the entry it will pop (R161). -/
def ckQueueTag (t : Thread) (vd : VReg) (td : ETag) : Option (Nat × Nat) :=
  if isQ vd.toNat then ckShare td [some (t.srcTag vd.toNat)] else none

/-- Routing of a store (R154, R161). -/
def storeRouting (ordered : Bool) (vd sa : VReg) (x : AddrOp) (k : MReg) (p : VPay) (t : Thread) : Routing :=
  let td := t.dataTag vd p
  { bad := firstBad ([ckD isVDst vd, ckA isScalar6 sa] ++ x.ck)
    pops := if isQ vd.toNat then [vd.toNat] else []
    typ := t.memTyp vd x p td [ckQueueTag t vd td, ckNibble t.v x.form td]
    ent := t.memEntry (.store x.form ordered) vd sa x k p td }

/-- The tags an atomic takes (R165, R166). -/
def AmoK.takes (o : AmoK) (t : ETag) : Bool :=
  let wide := t.bits == 32 || t.bits == 64
  match o with
  | .swap => wide
  | .add => wide && (t.isInt || t == .fp32 || t == .fp64)
  | _ => wide && t.isInt

/-- Routing of vamo and vscadd (R165, R166). -/
def atomRouting (op : VOp) (o : AmoK) (w : VMemX) (t : Thread) : Routing :=
  let td := tagOf t.v w.vd.toNat
  let x : AddrOp := ⟨.indexed, w.vb⟩
  { bad := firstBad ([ckD isVPlain w.vd, ckA isScalar6 w.sa] ++ x.ck)
    typ := t.memTyp w.vd x w.p td [ckImpl (o.takes td) td]
    ent := t.memEntry op w.vd w.sa x w.k w.p td }

/-- Routing of capp (R230). -/
def cappRouting (sa : VReg) (k : MReg) (p : VPay) (t : Thread) : Routing :=
  { bad := firstBad [ckA isScalar6 sa]
    typ := ckPayTag p
    ent := { t.entry .capp with a := sa.toNat, k := k.toNat, capA := t.scalar6 sa, ord := p.ord.toNat, scope := p.scope.toNat
                                inAcc := true } }

/-- Routing of bxld (R302). -/
def bxldRouting (md sa vb : VReg) (p : VPay) (t : Thread) : Routing :=
  let ti := tagOf t.v vb.toNat
  { bad := firstBad [ckD isMaskDst md, ckA isScalar6 sa, ckB isVPlain vb]
    typ := firstSome [ckPayTag p, ckGroup t.v.gc vb.toNat, ckIndex ti, ckCap t.v.gc t.v.members t.v.vl vb.toNat ti]
    ent := { t.entry .bxld with d := md.toNat, a := sa.toNat, b := vb.toNat, capA := t.scalar6 sa, tagB := ti
                                ord := p.ord.toNat, scope := p.scope.toNat, inAcc := true } }

/-- VLD (R154). -/
def execVld (o : VMemU) (s : State) : Host.Outcome State Fault Refusal := .next (s.route (loadRouting false false o.vd o.sa ⟨.unit, 0⟩ o.k o.p s.th))
/-- VLD_S (R154). -/
def execVldS (o : VMemS) (s : State) : Host.Outcome State Fault Refusal := .next (s.route (loadRouting false false o.vd o.sa ⟨.strided, o.sb⟩ o.k o.p s.th))
/-- VLD_X (R154). -/
def execVldX (o : VMemX) (s : State) : Host.Outcome State Fault Refusal := .next (s.route (loadRouting false false o.vd o.sa ⟨.indexed, o.vb⟩ o.k o.p s.th))
/-- VLD_FF (R156). -/
def execVldFf (o : VMemU) (s : State) : Host.Outcome State Fault Refusal := .next (s.route (loadRouting true false o.vd o.sa ⟨.unit, 0⟩ o.k o.p s.th))
/-- VLD_O (R158). -/
def execVldO (o : VMemU) (s : State) : Host.Outcome State Fault Refusal := .next (s.route (loadRouting false true o.vd o.sa ⟨.unit, 0⟩ o.k o.p s.th))
/-- VLD_SO (R158). -/
def execVldSo (o : VMemS) (s : State) : Host.Outcome State Fault Refusal := .next (s.route (loadRouting false true o.vd o.sa ⟨.strided, o.sb⟩ o.k o.p s.th))
/-- VLD_XO (R158). -/
def execVldXo (o : VMemX) (s : State) : Host.Outcome State Fault Refusal := .next (s.route (loadRouting false true o.vd o.sa ⟨.indexed, o.vb⟩ o.k o.p s.th))
/-- VST (R154). -/
def execVst (o : VMemU) (s : State) : Host.Outcome State Fault Refusal := .next (s.route (storeRouting false o.vd o.sa ⟨.unit, 0⟩ o.k o.p s.th))
/-- VST_S (R154). -/
def execVstS (o : VMemS) (s : State) : Host.Outcome State Fault Refusal := .next (s.route (storeRouting false o.vd o.sa ⟨.strided, o.sb⟩ o.k o.p s.th))
/-- VST_X (R154). -/
def execVstX (o : VMemX) (s : State) : Host.Outcome State Fault Refusal := .next (s.route (storeRouting false o.vd o.sa ⟨.indexed, o.vb⟩ o.k o.p s.th))
/-- VST_O (R158). -/
def execVstO (o : VMemU) (s : State) : Host.Outcome State Fault Refusal := .next (s.route (storeRouting true o.vd o.sa ⟨.unit, 0⟩ o.k o.p s.th))
/-- VST_SO (R158). -/
def execVstSo (o : VMemS) (s : State) : Host.Outcome State Fault Refusal := .next (s.route (storeRouting true o.vd o.sa ⟨.strided, o.sb⟩ o.k o.p s.th))
/-- VST_XO (R158). -/
def execVstXo (o : VMemX) (s : State) : Host.Outcome State Fault Refusal := .next (s.route (storeRouting true o.vd o.sa ⟨.indexed, o.vb⟩ o.k o.p s.th))
/-- VAMO_ADD (R165). -/
def execVamoAdd (o : VMemX) (s : State) : Host.Outcome State Fault Refusal := .next (s.route (atomRouting (.vamo .add) .add o s.th))
/-- VAMO_MIN (R165). -/
def execVamoMin (o : VMemX) (s : State) : Host.Outcome State Fault Refusal := .next (s.route (atomRouting (.vamo .min) .min o s.th))
/-- VAMO_MAX (R165). -/
def execVamoMax (o : VMemX) (s : State) : Host.Outcome State Fault Refusal := .next (s.route (atomRouting (.vamo .max) .max o s.th))
/-- VAMO_AND (R165). -/
def execVamoAnd (o : VMemX) (s : State) : Host.Outcome State Fault Refusal := .next (s.route (atomRouting (.vamo .and) .and o s.th))
/-- VAMO_OR (R165). -/
def execVamoOr (o : VMemX) (s : State) : Host.Outcome State Fault Refusal := .next (s.route (atomRouting (.vamo .or) .or o s.th))
/-- VAMO_XOR (R165). -/
def execVamoXor (o : VMemX) (s : State) : Host.Outcome State Fault Refusal := .next (s.route (atomRouting (.vamo .xor) .xor o s.th))
/-- VAMO_SWAP (R165). -/
def execVamoSwap (o : VMemX) (s : State) : Host.Outcome State Fault Refusal := .next (s.route (atomRouting (.vamo .swap) .swap o s.th))
/-- VSCADD (R166). -/
def execVscadd (o : VMemX) (s : State) : Host.Outcome State Fault Refusal := .next (s.route (atomRouting .scadd .add o s.th))
/-- BXLD (R302). -/
def execBxld (md sa vb : VReg) (p : VPay) (s : State) : Host.Outcome State Fault Refusal := .next (s.route (bxldRouting md sa vb p s.th))
/-- CAPP (R231). -/
def execCapp (sa : VReg) (k : MReg) (p : VPay) (s : State) : Host.Outcome State Fault Refusal := .next (s.route (cappRouting sa k p s.th))

end Sys2Proof.Machine
end

