-- ==== Sys2Proof/Machine/Dispatch.lean ====
section
/-! DEFINITION. One arm for each constructor of `Instr`: the meaning it calls. -/

namespace Sys2Proof.Machine

open Sys2Proof

/-- The meaning of an instruction or an event. -/
def exec (i : Instr) (s : State) : Host.Outcome State Fault Refusal :=
  match i with
  | .add d a b => Sys2Proof.Machine.execAdd d a b s
  | .sub d a b => Sys2Proof.Machine.execSub d a b s
  | .mul d a b => Sys2Proof.Machine.execMul d a b s
  | .mulh d a b => Sys2Proof.Machine.execMulh d a b s
  | .mulhu d a b => Sys2Proof.Machine.execMulhu d a b s
  | .div d a b => Sys2Proof.Machine.execDiv d a b s
  | .divu d a b => Sys2Proof.Machine.execDivu d a b s
  | .rem d a b => Sys2Proof.Machine.execRem d a b s
  | .remu d a b => Sys2Proof.Machine.execRemu d a b s
  | .and d a b => Sys2Proof.Machine.execAnd d a b s
  | .or d a b => Sys2Proof.Machine.execOr d a b s
  | .xor d a b => Sys2Proof.Machine.execXor d a b s
  | .sll d a b => Sys2Proof.Machine.execSll d a b s
  | .srl d a b => Sys2Proof.Machine.execSrl d a b s
  | .sra d a b => Sys2Proof.Machine.execSra d a b s
  | .slt d a b => Sys2Proof.Machine.execSlt d a b s
  | .sltu d a b => Sys2Proof.Machine.execSltu d a b s
  | .seq d a b => Sys2Proof.Machine.execSeq d a b s
  | .min d a b => Sys2Proof.Machine.execMin d a b s
  | .max d a b => Sys2Proof.Machine.execMax d a b s
  | .minu d a b => Sys2Proof.Machine.execMinu d a b s
  | .maxu d a b => Sys2Proof.Machine.execMaxu d a b s
  | .clz d a => Sys2Proof.Machine.execClz d a s
  | .ctz d a => Sys2Proof.Machine.execCtz d a s
  | .popc d a => Sys2Proof.Machine.execPopc d a s
  | .sel d a b => Sys2Proof.Machine.execSel d a b s
  | .addi d a imm => Sys2Proof.Machine.execAddi d a imm s
  | .andi d a imm => Sys2Proof.Machine.execAndi d a imm s
  | .ori d a imm => Sys2Proof.Machine.execOri d a imm s
  | .xori d a imm => Sys2Proof.Machine.execXori d a imm s
  | .slti d a imm => Sys2Proof.Machine.execSlti d a imm s
  | .slli d a sh => Sys2Proof.Machine.execSlli d a sh s
  | .srli d a sh => Sys2Proof.Machine.execSrli d a sh s
  | .srai d a sh => Sys2Proof.Machine.execSrai d a sh s
  | .lb d a imm => Sys2Proof.Machine.execLb d a imm s
  | .lbu d a imm => Sys2Proof.Machine.execLbu d a imm s
  | .lh d a imm => Sys2Proof.Machine.execLh d a imm s
  | .lhu d a imm => Sys2Proof.Machine.execLhu d a imm s
  | .lw d a imm => Sys2Proof.Machine.execLw d a imm s
  | .lwu d a imm => Sys2Proof.Machine.execLwu d a imm s
  | .ld d a imm => Sys2Proof.Machine.execLd d a imm s
  | .lih d imm => Sys2Proof.Machine.execLih d imm s
  | .sb d a imm => Sys2Proof.Machine.execSb d a imm s
  | .sh d a imm => Sys2Proof.Machine.execSh d a imm s
  | .sw d a imm => Sys2Proof.Machine.execSw d a imm s
  | .sd d a imm => Sys2Proof.Machine.execSd d a imm s
  | .amoadd o => Sys2Proof.Machine.execAmoadd o s
  | .amomin o => Sys2Proof.Machine.execAmomin o s
  | .amomax o => Sys2Proof.Machine.execAmomax o s
  | .amominu o => Sys2Proof.Machine.execAmominu o s
  | .amomaxu o => Sys2Proof.Machine.execAmomaxu o s
  | .amoand o => Sys2Proof.Machine.execAmoand o s
  | .amoor o => Sys2Proof.Machine.execAmoor o s
  | .amoxor o => Sys2Proof.Machine.execAmoxor o s
  | .amoswap o => Sys2Proof.Machine.execAmoswap o s
  | .amocas o => Sys2Proof.Machine.execAmocas o s
  | .beq a b off => Sys2Proof.Machine.execBeq a b off s
  | .bne a b off => Sys2Proof.Machine.execBne a b off s
  | .blt a b off => Sys2Proof.Machine.execBlt a b off s
  | .bge a b off => Sys2Proof.Machine.execBge a b off s
  | .bltu a b off => Sys2Proof.Machine.execBltu a b off s
  | .bgeu a b off => Sys2Proof.Machine.execBgeu a b off s
  | .bany m off => Sys2Proof.Machine.execBany m off s
  | .ball m off => Sys2Proof.Machine.execBall m off s
  | .bnone m off => Sys2Proof.Machine.execBnone m off s
  | .j off => Sys2Proof.Machine.execJ off s
  | .jal off => Sys2Proof.Machine.execJal off s
  | .loop a sm1 lvl len => Sys2Proof.Machine.execLoop a sm1 lvl len s
  | .vfetch k off => Sys2Proof.Machine.execVfetch k off s
  | .vthr k off => Sys2Proof.Machine.execVthr k off s
  | .vjoin => Sys2Proof.Machine.execVjoin s
  | .srr d num => Sys2Proof.Machine.execSrr d num s
  | .srw num a => Sys2Proof.Machine.execSrw num a s
  | .vadd o => Sys2Proof.Machine.execVadd o s
  | .vsub o => Sys2Proof.Machine.execVsub o s
  | .vmul o => Sys2Proof.Machine.execVmul o s
  | .vmulh o => Sys2Proof.Machine.execVmulh o s
  | .vdiv o => Sys2Proof.Machine.execVdiv o s
  | .vrem o => Sys2Proof.Machine.execVrem o s
  | .vmin o => Sys2Proof.Machine.execVmin o s
  | .vmax o => Sys2Proof.Machine.execVmax o s
  | .vand o => Sys2Proof.Machine.execVand o s
  | .vor o => Sys2Proof.Machine.execVor o s
  | .vxor o => Sys2Proof.Machine.execVxor o s
  | .vsll o => Sys2Proof.Machine.execVsll o s
  | .vsrl o => Sys2Proof.Machine.execVsrl o s
  | .vsra o => Sys2Proof.Machine.execVsra o s
  | .vsadd o => Sys2Proof.Machine.execVsadd o s
  | .vssub o => Sys2Proof.Machine.execVssub o s
  | .vfma o => Sys2Proof.Machine.execVfma o s
  | .vfms o => Sys2Proof.Machine.execVfms o s
  | .vfnma o => Sys2Proof.Machine.execVfnma o s
  | .vfnms o => Sys2Proof.Machine.execVfnms o s
  | .vsqrt o => Sys2Proof.Machine.execVsqrt o s
  | .vrcpe o => Sys2Proof.Machine.execVrcpe o s
  | .vrsqe o => Sys2Proof.Machine.execVrsqe o s
  | .vexp2 o => Sys2Proof.Machine.execVexp2 o s
  | .vlog2 o => Sys2Proof.Machine.execVlog2 o s
  | .vabs o => Sys2Proof.Machine.execVabs o s
  | .vneg o => Sys2Proof.Machine.execVneg o s
  | .vnot o => Sys2Proof.Machine.execVnot o s
  | .vclz o => Sys2Proof.Machine.execVclz o s
  | .vpopc o => Sys2Proof.Machine.execVpopc o s
  | .vceq o => Sys2Proof.Machine.execVceq o s
  | .vcne o => Sys2Proof.Machine.execVcne o s
  | .vclt o => Sys2Proof.Machine.execVclt o s
  | .vcle o => Sys2Proof.Machine.execVcle o s
  | .vcgt o => Sys2Proof.Machine.execVcgt o s
  | .vcge o => Sys2Proof.Machine.execVcge o s
  | .vcun o => Sys2Proof.Machine.execVcun o s
  | .mand md ma mb => Sys2Proof.Machine.execMand md ma mb s
  | .mor md ma mb => Sys2Proof.Machine.execMor md ma mb s
  | .mxor md ma mb => Sys2Proof.Machine.execMxor md ma mb s
  | .mandn md ma mb => Sys2Proof.Machine.execMandn md ma mb s
  | .mnot md ma => Sys2Proof.Machine.execMnot md ma s
  | .msbf md ma => Sys2Proof.Machine.execMsbf md ma s
  | .msif md ma => Sys2Proof.Machine.execMsif md ma s
  | .vperm o => Sys2Proof.Machine.execVperm o s
  | .vslideup o => Sys2Proof.Machine.execVslideup o s
  | .vslidedn o => Sys2Proof.Machine.execVslidedn o s
  | .vcompress o => Sys2Proof.Machine.execVcompress o s
  | .vexpand o => Sys2Proof.Machine.execVexpand o s
  | .viota vd k => Sys2Proof.Machine.execViota vd k s
  | .vmerge o => Sys2Proof.Machine.execVmerge o s
  | .vins vd sa sb => Sys2Proof.Machine.execVins vd sa sb s
  | .vext sd va sb => Sys2Proof.Machine.execVext sd va sb s
  | .xch o => Sys2Proof.Machine.execXch o s
  | .mpop sd ma => Sys2Proof.Machine.execMpop sd ma s
  | .mff1 sd ma => Sys2Proof.Machine.execMff1 sd ma s
  | .vraddT o => Sys2Proof.Machine.execVraddT o s
  | .vraddO o => Sys2Proof.Machine.execVraddO o s
  | .vrminT o => Sys2Proof.Machine.execVrminT o s
  | .vrminO o => Sys2Proof.Machine.execVrminO o s
  | .vrmaxT o => Sys2Proof.Machine.execVrmaxT o s
  | .vrmaxO o => Sys2Proof.Machine.execVrmaxO o s
  | .vrand o => Sys2Proof.Machine.execVrand o s
  | .vror o => Sys2Proof.Machine.execVror o s
  | .vrxor o => Sys2Proof.Machine.execVrxor o s
  | .vcvt o tag => Sys2Proof.Machine.execVcvt o tag s
  | .vsetl sd sa => Sys2Proof.Machine.execVsetl sd sa s
  | .vmt sa => Sys2Proof.Machine.execVmt sa s
  | .vcfg first last tag gc cb => Sys2Proof.Machine.execVcfg first last tag gc cb s
  | .vld o => Sys2Proof.Machine.execVld o s
  | .vldS o => Sys2Proof.Machine.execVldS o s
  | .vldX o => Sys2Proof.Machine.execVldX o s
  | .vldFf o => Sys2Proof.Machine.execVldFf o s
  | .vldO o => Sys2Proof.Machine.execVldO o s
  | .vldSo o => Sys2Proof.Machine.execVldSo o s
  | .vldXo o => Sys2Proof.Machine.execVldXo o s
  | .vst o => Sys2Proof.Machine.execVst o s
  | .vstS o => Sys2Proof.Machine.execVstS o s
  | .vstX o => Sys2Proof.Machine.execVstX o s
  | .vstO o => Sys2Proof.Machine.execVstO o s
  | .vstSo o => Sys2Proof.Machine.execVstSo o s
  | .vstXo o => Sys2Proof.Machine.execVstXo o s
  | .vamoAdd o => Sys2Proof.Machine.execVamoAdd o s
  | .vamoMin o => Sys2Proof.Machine.execVamoMin o s
  | .vamoMax o => Sys2Proof.Machine.execVamoMax o s
  | .vamoAnd o => Sys2Proof.Machine.execVamoAnd o s
  | .vamoOr o => Sys2Proof.Machine.execVamoOr o s
  | .vamoXor o => Sys2Proof.Machine.execVamoXor o s
  | .vamoSwap o => Sys2Proof.Machine.execVamoSwap o s
  | .vscadd o => Sys2Proof.Machine.execVscadd o s
  | .bxld md sa vb p => Sys2Proof.Machine.execBxld md sa vb p s
  | .capp sa k p => Sys2Proof.Machine.execCapp sa k p s
  | .mma vd x y k => Sys2Proof.Machine.execMma vd x y k s
  | .mmax vd x va vi k => Sys2Proof.Machine.execMmax vd x va vi k s
  | .mmab vd x y sl k => Sys2Proof.Machine.execMmab vd x y sl k s
  | .mclaim sa x => Sys2Proof.Machine.execMclaim sa x s
  | .mrel x => Sys2Proof.Machine.execMrel x s
  | .mldt sa x => Sys2Proof.Machine.execMldt sa x s
  | .cbld sa cb => Sys2Proof.Machine.execCbld sa cb s
  | .barinit a b => Sys2Proof.Machine.execBarinit a b s
  | .bararr a => Sys2Proof.Machine.execBararr a s
  | .barwait a => Sys2Proof.Machine.execBarwait a s
  | .barwaitA a => Sys2Proof.Machine.execBarwaitA a s
  | .launch a b => Sys2Proof.Machine.execLaunch a b s
  | .xcfg a ch => Sys2Proof.Machine.execXcfg a ch s
  | .xtid d ch => Sys2Proof.Machine.execXtid d ch s
  | .xwait a ch => Sys2Proof.Machine.execXwait a ch s
  | .dsend d a => Sys2Proof.Machine.execDsend d a s
  | .dpull a b => Sys2Proof.Machine.execDpull a b s
  | .ddrop a => Sys2Proof.Machine.execDdrop a s
  | .dresend d a b => Sys2Proof.Machine.execDresend d a b s
  | .dlstat d a => Sys2Proof.Machine.execDlstat d a s
  | .trap code => Sys2Proof.Machine.execTrap code s
  | .eret => Sys2Proof.Machine.execEret s
  | .brk code => Sys2Proof.Machine.execBrk code s
  | .wait => Sys2Proof.Machine.execWait s
  | .uiret => Sys2Proof.Machine.execUiret s
  | .jalr d a => Sys2Proof.Machine.execJalr d a s
  | .fence scope ord ty => Sys2Proof.Machine.execFence scope ord ty s
  | .xfence src dst scope => Sys2Proof.Machine.execXfence src dst scope s
  | .rdharm d a b => Sys2Proof.Machine.execRdharm d a b s
  | .rdimb d a => Sys2Proof.Machine.execRdimb d a s
  | .rdsamp d a => Sys2Proof.Machine.execRdsamp d a s
  | .hclr a => Sys2Proof.Machine.execHclr a s
  | .setwash a => Sys2Proof.Machine.execSetwash a s
  | .laneThreadStart key => Sys2Proof.Machine.execLaneThreadStart key s
  | .relocation key => Sys2Proof.Machine.execRelocation key s
  | .waitTimeout key => Sys2Proof.Machine.execWaitTimeout key s
  | .userInterruptEntry key => Sys2Proof.Machine.execUserInterruptEntry key s
  | .vectorSequencerGrant core => Sys2Proof.Machine.execVectorSequencerGrant core s
  | .instructionRelease core => Sys2Proof.Machine.execInstructionRelease core s
  | .washIssue core => Sys2Proof.Machine.execWashIssue core s
  | .instructionComplete key => Sys2Proof.Machine.execInstructionComplete key s
  | .accessUnitComplete key => Sys2Proof.Machine.execAccessUnitComplete key s
  | .pageWalk miss va => Sys2Proof.Machine.execPageWalk miss va s
  | .faultRecordPost die => Sys2Proof.Machine.execFaultRecordPost die s
  | .inval src => Sys2Proof.Machine.execInval src s
  | .pagedone src => Sys2Proof.Machine.execPagedone src s
  | .queueHeadTake q => Sys2Proof.Machine.execQueueHeadTake q s
  | .launchComplete launch => Sys2Proof.Machine.execLaunchComplete launch s
  | .placeGroup part => Sys2Proof.Machine.execPlaceGroup part s
  | .groupLoadComplete group => Sys2Proof.Machine.execGroupLoadComplete group s
  | .saveComplete group => Sys2Proof.Machine.execSaveComplete group s
  | .teardownComplete ctx => Sys2Proof.Machine.execTeardownComplete ctx s
  | .barrierWriteback addr => Sys2Proof.Machine.execBarrierWriteback addr s
  | .barrierBroken addr => Sys2Proof.Machine.execBarrierBroken addr s
  | .stubDelivery from_ ctx stub => Sys2Proof.Machine.execStubDelivery from_ ctx stub s
  | .stripStart key ch => Sys2Proof.Machine.execStripStart key ch s
  | .stripComplete key ch id => Sys2Proof.Machine.execStripComplete key ch id s
  | .bxldComplete key ch id => Sys2Proof.Machine.execBxldComplete key ch id s
  | .scalarAccessPerformed key => Sys2Proof.Machine.execScalarAccessPerformed key s
  | .unallocatedWordFetch detail => Sys2Proof.Machine.execUnallocatedWordFetch detail s
  | .instructionFetchFault cause va long => Sys2Proof.Machine.execInstructionFetchFault cause va long s
  | .commandComplete src => Sys2Proof.Machine.execCommandComplete src s
  | .lentwriteBound key => Sys2Proof.Machine.execLentwriteBound key s
  | .segmentLanding sid seg reply => Sys2Proof.Machine.execSegmentLanding sid seg reply s
  | .returnedLanesTimeout core => Sys2Proof.Machine.execReturnedLanesTimeout core s
  | .spanMemberLost key member => Sys2Proof.Machine.execSpanMemberLost key member s
  | .spanDetachTimeout key => Sys2Proof.Machine.execSpanDetachTimeout key s
  | .freeze func => Sys2Proof.Machine.execFreeze func s
  | .attest func => Sys2Proof.Machine.execAttest func s
  | .query func => Sys2Proof.Machine.execQuery func s
  | .create func => Sys2Proof.Machine.execCreate func s
  | .setslice func => Sys2Proof.Machine.execSetslice func s
  | .teardown func => Sys2Proof.Machine.execTeardown func s
  | .severNotice sid => Sys2Proof.Machine.execSeverNotice sid s
  | .preemptForSpace part => Sys2Proof.Machine.execPreemptForSpace part s
  | .nearCacheEvict line => Sys2Proof.Machine.execNearCacheEvict line s
  | .qtailWrite func q value => Sys2Proof.Machine.execQtailWrite func q value s
  | .queueEnable func q value => Sys2Proof.Machine.execQueueEnable func q value s
  | .queueDrain func q value => Sys2Proof.Machine.execQueueDrain func q value s
  | .queueClear func q value => Sys2Proof.Machine.execQueueClear func q value s
  | .registerWrite target value => Sys2Proof.Machine.execRegisterWrite target value s
  | .xchFrzClear key ch => Sys2Proof.Machine.execXchFrzClear key ch s
  | .pendingAgeLimit part => Sys2Proof.Machine.execPendingAgeLimit part s
  | .spanAttachMark key core => Sys2Proof.Machine.execSpanAttachMark key core s
  | .svtCharge key => Sys2Proof.Machine.execSvtCharge key s
  | .softError ctx key => Sys2Proof.Machine.execSoftError ctx key s
  | .functionReset func => Sys2Proof.Machine.execFunctionReset func s
  | .packageReset => Sys2Proof.Machine.execPackageReset s
  | .firmwareLoad image ed ml => Sys2Proof.Machine.execFirmwareLoad image ed ml s
  | .partitionSetup cfg => Sys2Proof.Machine.execPartitionSetup cfg s
  | .clusterMove cluster toPart => Sys2Proof.Machine.execClusterMove cluster toPart s
  | .domainSetup number members master => Sys2Proof.Machine.execDomainSetup number members master s
  | .deliveryAck sid => Sys2Proof.Machine.execDeliveryAck sid s
  | .deliveryRefusal sid => Sys2Proof.Machine.execDeliveryRefusal sid s
  | .pullRequest from_ sid seg => Sys2Proof.Machine.execPullRequest from_ sid seg s
  | .endMessage sid => Sys2Proof.Machine.execEndMessage sid s
  | .dropMessage sid => Sys2Proof.Machine.execDropMessage sid s
  | .referenceRequest from_ dest sid => Sys2Proof.Machine.execReferenceRequest from_ dest sid s
  | .referenceGrant ask reply => Sys2Proof.Machine.execReferenceGrant ask reply s
  | .peerLossTimeout pkg => Sys2Proof.Machine.execPeerLossTimeout pkg s
  | .hostLentWriteTimeout => Sys2Proof.Machine.execHostLentWriteTimeout s
  | .arbiterGrant arb => Sys2Proof.Machine.execArbiterGrant arb s
  | .quantumPost arb => Sys2Proof.Machine.execQuantumPost arb s
  | .budgetInterval link => Sys2Proof.Machine.execBudgetInterval link s
  | .stringIntervalEnd str => Sys2Proof.Machine.execStringIntervalEnd str s
  | .powerInterval die inp => Sys2Proof.Machine.execPowerInterval die inp s
  | .supplyDroop cluster => Sys2Proof.Machine.execSupplyDroop cluster s
  | .hostMemoryWrite func addr bytes => Sys2Proof.Machine.execHostMemoryWrite func addr bytes s
  | .hostMemoryRead func place n => Sys2Proof.Machine.execHostMemoryRead func place n s
  | .hostAtomicop func addr op => Sys2Proof.Machine.execHostAtomicop func addr op s
  | .flushReadComplete => Sys2Proof.Machine.execFlushReadComplete s
  | .pcieLinkTraining link rate width => Sys2Proof.Machine.execPcieLinkTraining link rate width s
  | .cxlPortTraining port rate => Sys2Proof.Machine.execCxlPortTraining port rate s
  | .cxlPortDown port => Sys2Proof.Machine.execCxlPortDown port s
  | .glasalLinkTraining port peerGen holdsRate => Sys2Proof.Machine.execGlasalLinkTraining port peerGen holdsRate s
  | .glasalFlitRetry port flit => Sys2Proof.Machine.execGlasalFlitRetry port flit s
  | .remoteAccessRequest from_ ctx va user n op => Sys2Proof.Machine.execRemoteAccessRequest from_ ctx va user n op s
  | .remoteReply key pkg va outcome => Sys2Proof.Machine.execRemoteReply key pkg va outcome s
  | .halt => Sys2Proof.Machine.execHalt s
  | .resume => Sys2Proof.Machine.execResume s
  | .srrd => Sys2Proof.Machine.execSrrd s
  | .srwr => Sys2Proof.Machine.execSrwr s
  | .sregrd => Sys2Proof.Machine.execSregrd s
  | .sregwr => Sys2Proof.Machine.execSregwr s
  | .memrd => Sys2Proof.Machine.execMemrd s
  | .memwr => Sys2Proof.Machine.execMemwr s
  | .brkhalt => Sys2Proof.Machine.execBrkhalt s
  | .stoprd => Sys2Proof.Machine.execStoprd s
  | .debugForward from_ dcmd darg ddata => Sys2Proof.Machine.execDebugForward from_ dcmd darg ddata s
  | .hbmRefresh arb on => Sys2Proof.Machine.execHbmRefresh arb on s
  | .stripBufferError key ch => Sys2Proof.Machine.execStripBufferError key ch s
  | .pcieLinkDown link => Sys2Proof.Machine.execPcieLinkDown link s

end Sys2Proof.Machine
end

