-- ==== Sys2Proof/Machine/Control.lean ====
section
/-! DEFINITION. One turn of a control thread: the boundary before it, its fetch unit, the checks of R91 that rest on state, and
what is left to run (R36–R38, R72, R87, R88, R90, R91, R104–R110, R270, R304, R354). -/

namespace Sys2Proof.Machine

/-! ## Instructions of blocks and lane threads (R105, R106) -/

/-- The scalar specifiers of an instruction that a block or lane thread may hold; none for every other. -/
def laneRegs : Instr → Option (List SReg)
  | .add d a b | .sub d a b | .mul d a b | .mulh d a b | .mulhu d a b | .div d a b | .divu d a b | .rem d a b | .remu d a b
  | .and d a b | .or d a b | .xor d a b | .sll d a b | .srl d a b | .sra d a b | .slt d a b | .sltu d a b | .seq d a b
  | .min d a b | .max d a b | .minu d a b | .maxu d a b | .sel d a b => some [d, a, b]
  | .clz d a | .ctz d a | .popc d a => some [d, a]
  | .addi d a _ | .andi d a _ | .ori d a _ | .xori d a _ | .slti d a _ | .slli d a _ | .srli d a _ | .srai d a _ => some [d, a]
  | .lb d a _ | .lbu d a _ | .lh d a _ | .lhu d a _ | .lw d a _ | .lwu d a _ | .ld d a _ | .sb d a _ | .sh d a _ | .sw d a _
  | .sd d a _ => some [d, a]
  | .lih d _ => some [d]
  | .amoadd o | .amomin o | .amomax o | .amominu o | .amomaxu o | .amoand o | .amoor o | .amoxor o | .amoswap o
  | .amocas o => some [o.d, o.a, o.b]
  | .beq a b _ | .bne a b _ | .blt a b _ | .bge a b _ | .bltu a b _ | .bgeu a b _ => some [a, b]
  | .j _ => some []
  | .jal _ => some [1]
  | .jalr d a => some [d, a]
  | .trap c => if c == 0 then some [] else none
  | .brk _ | .fence .. => some []
  | _ => none

/-- vjoin, which a lane thread may hold and a block may not. -/
def isVjoin : Instr → Bool
  | .vjoin => true
  | _ => false

/-- Whether every register an instruction of a lane thread names has an element size of 1, 2, 4 or 8 bytes (R105). -/
def laneSizesOk (t : Thread) (l : List SReg) : Bool :=
  l.all fun n => n == 0 || (let w := (t.laneTag n.toNat).bits; w == 8 || w == 16 || w == 32 || w == 64)

/-! ## Disabled instructions (R104) -/

/-- Instructions that the control front routes to the queues (R29). -/
def isRouted : Instr → Bool
  | .vadd _ | .vsub _ | .vmul _ | .vmulh _ | .vdiv _ | .vrem _ | .vmin _ | .vmax _ | .vand _ | .vor _ | .vxor _
  | .vsll _ | .vsrl _ | .vsra _ | .vsadd _ | .vssub _ | .vfma _ | .vfms _ | .vfnma _ | .vfnms _ => true
  | .vsqrt _ | .vrcpe _ | .vrsqe _ | .vexp2 _ | .vlog2 _ | .vabs _ | .vneg _ | .vnot _ | .vclz _ | .vpopc _ => true
  | .vceq _ | .vcne _ | .vclt _ | .vcle _ | .vcgt _ | .vcge _ | .vcun _ => true
  | .mand .. | .mor .. | .mxor .. | .mandn .. | .mnot .. | .msbf .. | .msif .. => true
  | .vperm _ | .vslideup _ | .vslidedn _ | .vcompress _ | .vexpand _ | .viota .. | .vmerge _ | .vins .. | .vext ..
  | .xch _ | .mpop .. | .mff1 .. => true
  | .vraddT _ | .vraddO _ | .vrminT _ | .vrminO _ | .vrmaxT _ | .vrmaxO _ | .vrand _ | .vror _ | .vrxor _ | .vcvt .. => true
  | .vld _ | .vldFf _ | .vldO _ | .vldS _ | .vldSo _ | .vldX _ | .vldXo _ => true
  | .vst _ | .vstO _ | .vstS _ | .vstSo _ | .vstX _ | .vstXo _ => true
  | .vamoAdd _ | .vamoMin _ | .vamoMax _ | .vamoAnd _ | .vamoOr _ | .vamoXor _ | .vamoSwap _ | .vscadd _ => true
  | .bxld .. | .capp .. | .mma .. | .mmax .. | .mmab .. | .mldt .. | .cbld .. => true
  | .xcfg .. | .dsend .. | .dpull .. | .ddrop _ | .dresend .. => true
  | _ => false

/-- The cause and DETAIL of the trap that an instruction would take now; 0 for none. -/
def trialTrap (i : Instr) (s : State) : Nat × Nat :=
  match exec i (s.mod fun t => { t with trap := { t.trap with info := 0 } }) with
  | .next s' => (bits s'.th.trap.info.toNat 7 0, bits s'.th.trap.info.toNat 23 8)
  | _ => (0, 0)

/-- Whether checks 6 and 7 of R91 fail for an instruction, or check 8 for the tag of a vcfg; vmt's reserved value is no check. -/
def checksFail (i : Instr) (s : State) : Bool :=
  let (c, d) := trialTrap i s
  match i with
  | .vmt _ => c == cILLREG && d != 0x010
  | .vcfg .. => c == cILLTYPE
  | _ => c == cPRIV || c == cILLREG

/-- What is left of a turn: nothing, or an instruction to run. -/
inductive Pick where
  | done (s : State)
  | run (i : Instr) (s : State)

/-- An instruction disabled by its stage: its checks are made; it moves its queues, or does nothing (R104). -/
def State.disabled (s : State) (i : Instr) : Pick :=
  let s := s.mod fun t => { t with off := true }
  if isRouted i then .run i s
  else match i with
    | .srr _ num | .srw num _ =>
      (match regCheck s.th.sup num.toNat with
        | some (c, d) => .done (s.trap c d)
        | none => .done s.advance)
    | .loop _ _ _ len => .done (s.skipTo (s.loopEndAt len))
    | .vfetch _ off =>
      (match s.header off with
        | .out s => .done s
        | .header s _ => .done s.advance)
    | _ => if checksFail i s then .run i s else .done s.advance

/-! ## Fetch units -/

/-- A fetch unit, a wait, or a fault. -/
inductive UnitOut where
  | unit (s : State) (f : FetchForm) (d : Except DecErr FetchUnit)
  | out (s : State)
  | fault (s : State) (f : FetchForm) (cause : Nat) (va : W64)

/-- The fetch unit at an address: one word, or a prefix and the word after it (R72). -/
def State.fetchUnit (s : State) (a : W64) : UnitOut :=
  match s.fetchWord a with
  | .out s => .out s
  | .fault s c _ => .fault s { addr := a } c a
  | .word s w0 =>
    if isPrefix w0 then
      match s.fetchWord (a + 4) with
      | .out s => .out s
      | .fault s c _ => .fault s { addr := a, pre := w0, long := true } c (a + 4)
      | .word s w1 => .unit s { addr := a, word := w1, pre := w0, long := true } (decodeUnit w0 (some w1))
    else .unit s { addr := a, word := w0 } (decodeUnit w0 none)

/-- The address space after the fetch unit's first word: where a body that ends there cuts a pair (R88). -/
def cutsPair (f : FetchForm) (e : W64) : Bool := f.long && e == f.addr + 4

/-- The stage field is out of range (R87). -/
def stageBad (loops : List LoopRec) (stg : Nat) : Bool :=
  stg != 0 && (match loops with
    | [] => true
    | r :: _ => decide (r.s < stg))

/-- Whether a stage is enabled in the innermost loop's iteration (R104). -/
def stageOn (loops : List LoopRec) (stg : Nat) : Bool :=
  stg == 0 || (match loops with
    | [] => true
    | r :: _ => decide (stg - 1 ≤ r.i) && decide (r.i - (stg - 1) < r.t))

/-- The fetch unit being run, noted. -/
def State.noteUnit (s : State) (f : FetchForm) : State := s.mod fun t => { t with fu := f, off := false }

/-! ## The control front's turn -/

/-- The next instruction of the control front. -/
def State.pickFront (s : State) : Pick :=
  match s.fetchUnit s.th.pc with
  | .out s => .done s
  | .fault s' f c va => if s.th.canStop then .run (.instructionFetchFault c va f.long) (s'.noteUnit f) else .done (s.holdOn .none)
  | .unit s f d =>
    let s := s.noteUnit f
    match d with
    | .error (.illop x) => .run (.unallocatedWordFetch x) s
    | .error .short => .run (.unallocatedWordFetch 4) s
    | .ok u =>
      if s.th.loops.any (fun r => cutsPair f r.e) || stageBad s.th.loops u.stg.toNat then .run (.unallocatedWordFetch 4) s
      else if stageOn s.th.loops u.stg.toNat then .run u.instr s
      else s.disabled u.instr

/-! ## A lane thread's turn -/

/-- Enters the block whose header a lane thread has jumped to (R107). -/
def enterBlock (n : Nat) (l : LaneTh) : LaneTh :=
  { l with pc := l.pc + 4, blkEnd := some (l.pc + BitVec.ofNat 64 (4 + 4 * n)), jumped := false }

/-- Runs a lane thread's instruction, or the trap of one it may not hold: checks 5 to 7 come first (R91, R105, R106). -/
def State.laneInstr (s : State) (l : LaneTh) (i : Instr) : Pick :=
  match laneRegs i with
  | some rs => if laneSizesOk s.th rs then .run i s else .done (s.trap cCTLSTATE 5)
  | none =>
    if isVjoin i && l.blkEnd.isNone then .run i s
    else match i with
      | .srr .. | .srw .. => .done (s.trap cCTLSTATE 4)
      | .vfetch _ off =>
        (match s.header off with
          | .out s => .done s
          | .header s _ => .done (s.trap cCTLSTATE 4))
      | _ => if checksFail i s then .run i s else .done (s.trap cCTLSTATE 4)

/-- The next instruction of a lane thread. -/
def State.pickLane (s : State) (vp : Nat) (l : LaneTh) : Pick :=
  let s : State := { s with lane := some vp }
  match s.fetchUnit l.pc with
  | .out s => .done s
  | .fault s f c va => .run (.instructionFetchFault c va f.long) (s.noteUnit f)
  | .unit s f d =>
    let s := s.noteUnit f
    match (if l.jumped && l.blkEnd.isNone && !f.long then headerLen f.word else none) with
    | some n => .done (s.mod fun t => t.modLane vp fun l => some (enterBlock n l))
    | none =>
      match d with
      | .error (.illop x) => .run (.unallocatedWordFetch x) s
      | .error .short => .run (.unallocatedWordFetch 4) s
      | .ok u =>
        if l.blkEnd.any (cutsPair f) || u.stg != 0 then .run (.unallocatedWordFetch 4) s
        else s.laneInstr l u.instr

/-! ## Choosing the party (R38) -/

/-- Whether the control front may be asked again: it does not wait for an event. (An entry that it holds for under R30 lets it fetch
nothing either.) -/
def Hold.asks : Hold → Bool
  | .wait _ | .xwait _ | .barrier .. | .command => false
  | _ => true

/-- The lane threads in flight. -/
def Thread.laneList (t : Thread) : List (Nat × LaneTh) := ((t.fetch.filter (·.started)).map (·.lanes)).getD []

/-- Whether a thread has something to do: its front, its queues, or its lane threads. -/
def Thread.busy (t : Thread) (lockstep : Bool) : Bool := t.hold.asks || (lockstep && !t.pipe.isEmpty) || !t.laneList.isEmpty

/-- Whether a control thread is ready: its group is loaded, its context is not held, and it is not halted (R38, R213, R240, R353). -/
def State.ready (s : State) (k : ThreadKey) : Bool :=
  let t := s.thOf k
  decide (k < 6144) && !t.halted && ((t.group.bind s.grp).any fun g => g.st == .loaded) && !(s.ctx t.ctx).held && t.busy s.lockstep

/-- The next ready thread after the one that ran last, round-robin. -/
def State.nextReady (s : State) : Option ThreadKey :=
  let l := (s.threads.map (·.1)).filter s.ready
  match l.find? fun k => decide (s.cur < k) with
  | some k => some k
  | none => l.head?

/-- The party of a thread's turn: a lane thread, or none for the control front, with the turn after it. -/
def Thread.choose (t : Thread) : Option (Nat × LaneTh) × Nat :=
  match t.turn with
  | 0 => (none, 1)
  | n + 1 =>
    match t.laneList.find? fun p => decide (n ≤ p.1) with
    | some p => (some p, p.1 + 2)
    | none => (none, 1)

/-! ## The turn -/

/-- What a thread does at a boundary before its turn: its queues drain, a pending halt applies, a user-level interrupt is taken; none
when the turn goes on. -/
def State.boundary (s : State) (k : ThreadKey) : Option State × State :=
  let (s, trapped) := if s.lockstep && !(s.thOf k).pipe.isEmpty then s.drain k else (s, false)
  if trapped then (some s, s)
  else if (s.thOf k).haltPend && (s.thOf k).atBoundary then
    let s := s.applyHalt k
    (some s, s)
  else if (s.thOf k).atBoundary && (s.thOf k).uiDue then
    let s := s.modTh k enterUi
    (some s, s)
  else (none, s)

/-- What is left of a turn of thread `k` to run. -/
def State.pick (s : State) (k : ThreadKey) : Pick :=
  let s : State := { s with cur := k, lane := none }
  match s.boundary k with
  | (some s, _) => .done s
  | (none, s) =>
    let (p, n) := s.th.choose
    let s := s.mod fun t => { t with turn := n }
    match p with
    | some (vp, l) => s.pickLane vp l
    | none => if s.th.hold.asks && !s.th.frontHeld then s.pickFront else .done s

/-- Applies a change to the next state of an outcome. -/
def onNext (f : State → State) : Host.Outcome State Fault Refusal → Host.Outcome State Fault Refusal
  | .next s => .next (f s)
  | .fault r => .fault r
  | .refused r => .refused r

/-- A lane thread's branches and jumps, which issue even where they lead back to themselves. -/
def isTransfer : Instr → Bool
  | .beq .. | .bne .. | .blt .. | .bge .. | .bltu .. | .bgeu .. | .j _ | .jal _ | .jalr .. => true
  | _ => false

/-- Charges the gate of a virtual processor's core for the scalar instruction that its lane thread has issued from `s`, giving `s'`; one
that holds has not issued (R323, index 17, E = 1). -/
def State.chargeLane (s : State) (i : Instr) (s' : State) : State :=
  match s.lane with
  | none => s'
  | some vp =>
    if isTransfer i || s'.th.fetch.bind (laneOf · vp) != s.th.fetch.bind (laneOf · vp) then
      s'.passGate s.partyCore s.th.part s.th.owner (s.wtab 17)
    else s'

/-- One turn of thread `k`; one that is not ready has none. -/
def State.runTurn (s : State) (k : ThreadKey) : Host.Outcome State Fault Refusal :=
  if 6144 ≤ k then .fault (.noSuchThread k)
  else if !s.ready k then .next s
  else match s.pick k with
    | .done s => .next { s with lane := none }
    | .run i s => onNext (fun s' => { s.chargeLane i s' with lane := none }) (exec i s)

end Sys2Proof.Machine
end

