-- ==== Sys2Proof/Machine/Step.lean ====
section
/-! DEFINITION. One step of the package: the next turn of the agenda, or else of the next ready control thread; and the placing
of one instruction where the next step fetches it. -/

namespace Sys2Proof.Machine

/-- One step. -/
def step (s : State) : Host.Outcome State Fault Refusal :=
  match s.agenda with
  | .event i :: rest => exec i { s with agenda := rest }
  | .run k :: rest => State.runTurn { s with agenda := rest } k
  | [] => match s.nextReady with
    | some k => s.runTurn k
    | none => .next s

/-! ## Placing an instruction

Programs are loaded from outside: the host fills memory, and a launch places a group (R222–R240). `withFetchWord` stands for what that
leaves: a loaded group's control thread, its context, the translation of its page, and the words. -/

/-- The address, virtual and physical, of a placed instruction. -/
def placeAddr : Nat := 0x10000
/-- The leaf of its page: valid, readable, writable and executable at user level. -/
def placeLeaf : W64 := 0x1001F

/-- The thread of a placed instruction: between two fetch units, with nothing older. -/
def placeThread (id : Nat) (t : Thread) : Thread :=
  { t with
    pc := BitVec.ofNat 64 placeAddr, group := some id, ctx := 0, hold := .none, pipe := [], reloc := [], fetch := none, loops := []
    turn := 0, halted := false, haltPend := false, asked := [], refStub := none, barHidden := none
    ui := { t.ui with pend := 0 } }

/-- The group of a placed instruction. -/
def placeGroupOf (id : Nat) (k : ThreadKey) : Group :=
  { id, launch := id, g := 0, st := .loaded, ctx := 0, part := 0, lgs := [0], mems := [(coreOf k, tidOf k)], scrb := 0, scrOff := 0
    palm := 0, records := [], quad := false, save := none, poisoned := false, stopAfter := false }

/-- The state with an instruction stored where the next step fetches it. -/
def State.withFetchWord (s : State) (nbits w : Nat) : State :=
  let p := tableWords nbits w
  let k := if s.cur < 6144 then s.cur else 0
  let s := s.modCtx 0 fun x => { x with st := .running, held := false }
  let s := s.modTh k (placeThread s.nextId)
  { s with
    agenda := [.run k]
    mem := memPuts s.mem placeAddr (bytesOfWord p.1 ++ bytesOfWord p.2)
    tlb := [{ unit := coreOf k, ctx := 0, page := 1, leaf := placeLeaf, lvl := 16 }] ++ s.tlb
    groups := [placeGroupOf s.nextId k] ++ s.groups
    nextId := s.nextId + 1 }

end Sys2Proof.Machine
end

