-- ==== Sys2Proof/Safety.lean ====
section
/-! DEFINITION. What counts as a safe run, and the terms claims use: invariants that every step keeps, what an instruction
leaves unchanged, and where the party that runs it goes on. -/

namespace Sys2Proof

open Sys2Proof.Machine

/-- The memory is in its canonical form. -/
def MemOk (s : State) : Prop := Memory.wf s.mem = true

/-- Nothing but thread `k` differs: memory, every other thread, core, context, queue and link is as before. -/
def OnlyThread (k : ThreadKey) (s t : State) : Prop :=
  t = { s with threads := t.threads } ∧ ∀ j, j ≠ k → t.thOf j = s.thOf j

/-- A thread whose watched block another party has written: marked, or its wait over and its front at the next fetch unit (R119). -/
def MayWake (a b : Thread) : Prop := b = a ∨ b = { a with watchHit := true } ∨ b = { a.endWait with watchHit := false }

/-- Nothing but the current thread and memory differs; of the other threads, only the end of a wait for a written block. -/
def OnlyThreadAndMemory (s t : State) : Prop :=
  t = { s with threads := t.threads, mem := t.mem } ∧ ∀ j, j ≠ s.cur → MayWake (s.thOf j) (t.thOf j)

/-- Of a thread, only its scalars, pc, active loops and hold may differ, and it holds for nothing. -/
def OnlyScalarsAndPc (a b : Thread) : Prop :=
  b = { a with sregs := b.sregs, shadow := b.shadow, pc := b.pc, loops := b.loops, hold := .none }

/-- The control front goes on at the next fetch unit, iteration ends of its loops included (R103). -/
def GoesOn (a b : Thread) : Prop := (b.loops, b.pc) = loopEnd a.loops a.fu.nextAddr

/-- The control front goes on at a branch target: loops whose body does not hold it end (R103). -/
def GoesTo (pc : W64) (a b : Thread) : Prop := b.pc = pc ∧ b.loops = loopsAt a.loops pc

/-- Every scalar reads as before but `d`, which reads `x`; specifier 0 reads as before (R43, R44). In a user-level handler
specifiers 24 to 31 are the shadow registers, and the other set is untouched. -/
def ScalarsWith (d : SReg) (x : W64) (s t : State) : Prop :=
  (∀ n, t.getS n = if n = d ∧ n ≠ 0 then x else s.getS n)
    ∧ (if s.th.ui.inn ∧ 24 ≤ d.toNat then t.th.sregs = s.th.sregs else t.th.shadow = s.th.shadow)

/-- A front instruction that writes `x` to scalar `d` and nothing else, and goes on. -/
def FrontWrites (d : SReg) (x : W64) (s t : State) : Prop :=
  OnlyThread s.cur s t ∧ OnlyScalarsAndPc s.th t.th ∧ GoesOn s.th t.th ∧ ScalarsWith d x s t

/-- A front instruction that writes no register at all and goes on. -/
def FrontPasses (s t : State) : Prop :=
  OnlyThread s.cur s t ∧ t.th = { s.th with pc := t.th.pc, loops := t.th.loops, hold := .none } ∧ GoesOn s.th t.th

/-- A front instruction that writes no register and goes on at `pc`. -/
def FrontJumps (pc : W64) (s t : State) : Prop :=
  OnlyThread s.cur s t ∧ t.th = { s.th with pc := t.th.pc, loops := t.th.loops, hold := .none } ∧ GoesTo pc s.th t.th

/-- A lane thread's instruction that writes `x` to scalar specifier `d`: element `vp` of vd at its captured tag (R105), whose registers
become dirty, and the lane thread goes on. -/
def laneWrites (s : State) (vp : Nat) (d : SReg) (x : W64) : State :=
  let t := s.th
  let t := if d = 0 then t else { t with
    v := { writeElem t.v t.laneDist d.toNat (t.laneTag d.toNat).bits vp x.toNat with dirty := (laneWrite t vp d.toNat x).dirty } }
  s.setTh s.cur (t.modLane vp fun l => laneSeq l t.fu.nextAddr)

/-- The thread at the entry of a trap by R114 steps 2 to 6: what TRAPINFO, TRAPVA, TRAPPC, EVSTART, EPC, the level, the pc and the
loops become. -/
def TrapEntered (a b : Thread) (info va : W64) (fuAddr resume : W64) : Prop :=
  b.trap.info = info ∧ b.trap.va = va ∧ b.trap.pc = pcField fuAddr ∧ b.trap.evstart = a.v.vstart ∧ b.v.vstart = 0
    ∧ b.trap.epc = pcField resume ||| (if a.sup then 1 else 0) ∧ b.sup = true ∧ b.pc = pcField a.trap.tvec
    ∧ b.trap.loops = a.loops ∧ b.loops = [] ∧ b.trap.inTrap = true ∧ b.sregs = a.sregs ∧ b.shadow = a.shadow
    ∧ b.trap.fetch = a.fetch ∧ b.fetch = none ∧ b.trap.stop = a.pipe ∧ b.pipe = []

/-- TRAPINFO of a trap of the control front (R59). -/
def trapInfo (cause detail : Nat) (long : Bool) : W64 :=
  BitVec.ofNat 64 (cause % 2 ^ 8 + detail % 2 ^ 16 * 2 ^ 8 + if long then 2 ^ 57 else 0)

/-- The front's instruction is refused with a trap at its own fetch unit, and nothing else of the package changes. -/
def FrontTraps (cause detail : Nat) (va : W64) (s t : State) : Prop :=
  OnlyThread s.cur s t ∧ TrapEntered s.th t.th (trapInfo cause detail s.th.fu.long) va s.th.fu.addr s.th.fu.addr

end Sys2Proof
end

