-- ==== Sys2Proof/Certificates/Slice0/Obligations.lean ====
section
/-! DEFINITION. The statements for the provers. Each says in its docstring which rules of the spec it formalises. -/

open Sys2Proof Sys2Proof.Machine

namespace Sys2Proof.Claim

/-! ## Words of the claims -/

/-- A condition as 1 or 0 (R93). -/
def flag (p : Prop) [Decidable p] : W64 := if p then 1 else 0

/-- The results of major 0x01 (R93) as exact arithmetic on the values of the registers: the destination and its new value. -/
def register (v : SReg → W64) : Instr → Option (SReg × W64)
  | .add d a b => some (d, BitVec.ofNat 64 ((v a).toNat + (v b).toNat))
  | .sub d a b => some (d, BitVec.ofInt 64 ((v a).toInt - (v b).toInt))
  | .mul d a b => some (d, BitVec.ofNat 64 ((v a).toNat * (v b).toNat))
  | .mulh d a b => some (d, BitVec.ofInt 64 ((v a).toInt * (v b).toInt / 2 ^ 64))
  | .mulhu d a b => some (d, BitVec.ofNat 64 ((v a).toNat * (v b).toNat / 2 ^ 64))
  | .div d a b => some (d, if v b = 0 then BitVec.allOnes 64 else BitVec.ofInt 64 ((v a).toInt.tdiv (v b).toInt))
  | .divu d a b => some (d, if v b = 0 then BitVec.allOnes 64 else BitVec.ofNat 64 ((v a).toNat / (v b).toNat))
  | .rem d a b => some (d, if v b = 0 then v a else BitVec.ofInt 64 ((v a).toInt.tmod (v b).toInt))
  | .remu d a b => some (d, if v b = 0 then v a else BitVec.ofNat 64 ((v a).toNat % (v b).toNat))
  | .and d a b => some (d, v a &&& v b)
  | .or d a b => some (d, v a ||| v b)
  | .xor d a b => some (d, v a ^^^ v b)
  | .sll d a b => some (d, BitVec.ofNat 64 ((v a).toNat * 2 ^ ((v b).toNat % 64)))
  | .srl d a b => some (d, BitVec.ofNat 64 ((v a).toNat / 2 ^ ((v b).toNat % 64)))
  | .sra d a b => some (d, BitVec.ofInt 64 ((v a).toInt / 2 ^ ((v b).toNat % 64)))
  | .slt d a b => some (d, flag ((v a).toInt < (v b).toInt))
  | .sltu d a b => some (d, flag ((v a).toNat < (v b).toNat))
  | .seq d a b => some (d, flag (v a = v b))
  | .min d a b => some (d, if (v b).toInt < (v a).toInt then v b else v a)
  | .max d a b => some (d, if (v a).toInt < (v b).toInt then v b else v a)
  | .minu d a b => some (d, if (v b).toNat < (v a).toNat then v b else v a)
  | .maxu d a b => some (d, if (v a).toNat < (v b).toNat then v b else v a)
  | .clz d a => some (d, BitVec.ofNat 64 (((List.range 64).find? (v a).getMsbD).getD 64))
  | .ctz d a => some (d, BitVec.ofNat 64 (((List.range 64).find? (v a).getLsbD).getD 64))
  | .popc d a => some (d, BitVec.ofNat 64 (((List.range 64).map fun i => if (v a).getLsbD i then 1 else 0).sum))
  | .sel d a b => some (d, if v d ≠ 0 then v a else v b)
  | _ => none

/-- The results of the immediate majors (R94). The immediate has 38 bits, those above a short form's 16 being its extension
(R77, R89). -/
def immediate (v : SReg → W64) : Instr → Option (SReg × W64)
  | .addi d a imm => some (d, BitVec.ofInt 64 ((v a).toInt + imm.toInt))
  | .slti d a imm => some (d, flag ((v a).toInt < imm.toInt))
  | .andi d a imm => some (d, v a &&& BitVec.ofNat 64 imm.toNat)
  | .ori d a imm => some (d, v a ||| BitVec.ofNat 64 imm.toNat)
  | .xori d a imm => some (d, v a ^^^ BitVec.ofNat 64 imm.toNat)
  | .slli d a sh => some (d, BitVec.ofNat 64 ((v a).toNat * 2 ^ sh.toNat))
  | .srli d a sh => some (d, BitVec.ofNat 64 ((v a).toNat / 2 ^ sh.toNat))
  | .srai d a sh => some (d, BitVec.ofInt 64 ((v a).toInt / 2 ^ sh.toNat))
  | .lih d imm => some (d, BitVec.ofInt 64 (imm.toInt * 65536))
  | _ => none

/-- A result of the party that runs the instruction: the control front's, or a lane thread's. -/
def Writes (i : Instr) (s : State) (d : SReg) (x : W64) : Prop :=
  (s.lane = none → ∃ t, exec i s = .next t ∧ FrontWrites d x s t) ∧ ∀ vp, s.lane = some vp → exec i s = .next (laneWrites s vp d x)

end Sys2Proof.Claim

open Sys2Proof.Claim

/-! ## Scalar instructions -/

/-- R93, R92, R43: each instruction of major 0x01 gives d the value of R93's table, in the control front and in a lane thread, and
changes no other register, flag, special register or byte of memory. -/
def Sys2Proof.Claim.RegisterInstructionsCompute : Prop :=
  ∀ (i : Instr) (s : State) (d : SReg) (x : W64), Claim.register s.getS i = some (d, x) → Claim.Writes i s d x

/-- R94: the same of the immediate majors. -/
def Sys2Proof.Claim.ImmediateInstructionsCompute : Prop :=
  ∀ (i : Instr) (s : State) (d : SReg) (x : W64), Claim.immediate s.getS i = some (d, x) → Claim.Writes i s d x

/-- The integer instructions on registers and on immediates. -/
def Obligations.IntegersCompute : Prop :=
  Claim.RegisterInstructionsCompute ∧ Claim.ImmediateInstructionsCompute

/-! ## Scalar memory -/

namespace Sys2Proof.Claim

/-- The loads of R95: bytes, whether the value is sign-extended, destination, base, immediate. -/
def load : Instr → Option (Nat × Bool × SReg × SReg × Imm)
  | .lb d a m => some (1, true, d, a, m)
  | .lbu d a m => some (1, false, d, a, m)
  | .lh d a m => some (2, true, d, a, m)
  | .lhu d a m => some (2, false, d, a, m)
  | .lw d a m => some (4, true, d, a, m)
  | .lwu d a m => some (4, false, d, a, m)
  | .ld d a m => some (8, false, d, a, m)
  | _ => none

/-- The stores of R95: bytes, the register stored, base, immediate. -/
def store : Instr → Option (Nat × SReg × SReg × Imm)
  | .sb d a m => some (1, d, a, m)
  | .sh d a m => some (2, d, a, m)
  | .sw d a m => some (4, d, a, m)
  | .sd d a m => some (8, d, a, m)
  | _ => none

/-- The scalar atomics of R97. -/
def atomic : Instr → Option (AmoK × Amo)
  | .amoadd o => some (.add, o)
  | .amomin o => some (.min, o)
  | .amomax o => some (.max, o)
  | .amominu o => some (.minu, o)
  | .amomaxu o => some (.maxu, o)
  | .amoand o => some (.and, o)
  | .amoor o => some (.or, o)
  | .amoxor o => some (.xor, o)
  | .amoswap o => some (.swap, o)
  | .amocas o => some (.cas, o)
  | _ => none

/-- ea of R95. -/
def address (s : State) (a : SReg) (imm : Imm) : W64 := BitVec.ofInt 64 ((s.getS a).toInt + imm.toInt)

/-- n bytes read by S: two's complement (R93, R97). -/
def signed (n x : Nat) : Int := if x < 2 ^ (8 * n - 1) then (x : Int) else (x : Int) - 2 ^ (8 * n)

/-- Extend of R95. -/
def extend (sg : Bool) (n x : Nat) : W64 := if sg then BitVec.ofInt 64 (signed n x) else BitVec.ofNat 64 x

/-- `new` of R97, and whether it is written. -/
def amoValue (op : AmoK) (n old x e : Nat) : Option Nat :=
  match op with
  | .add => some ((old + x) % 2 ^ (8 * n))
  | .min => some (if signed n x < signed n old then x else old)
  | .max => some (if signed n old < signed n x then x else old)
  | .minu => some (if x < old then x else old)
  | .maxu => some (if old < x then x else old)
  | .and => some (old &&& x)
  | .or => some (old ||| x)
  | .xor => some (old ^^^ x)
  | .swap => some x
  | .cas => if old = e then some x else none

/-- The scalar access of the party being run passes its checks, and its bytes lie at a flat address of this package. -/
def ReachesAt (s : State) (kind : AKind) (ea : W64) (n : Nat) (rop : RemoteOp) (flat leaf : Nat) : Prop :=
  s.access s.cur s.who (!s.th.sup) kind (scalarTarget s.partyCore ea) n rop = .at flat leaf

/-- What an access may change beside its thread and memory: the arbiters it asks, a host link's budget, a near-cache line. -/
def Access (s t : State) : Prop :=
  t = { s with threads := t.threads, mem := t.mem, arbs := t.arbs, budgets := t.budgets, nearLines := t.nearLines }

/-- Of the accessing thread: scalars, pc, loops, hold, the watch, the stall counts, and the stores not yet performed. -/
def Accessor (a b : Thread) : Prop :=
  b = { a with sregs := b.sregs, shadow := b.shadow, pc := b.pc, loops := b.loops, hold := .none, watch := b.watch
               watchHit := b.watchHit, stall := b.stall, pending := b.pending }

/-- Every other thread is as before, or its watch has been written, or its wait has ended and its front goes on after it (R119). -/
def OthersWatch (s t : State) : Prop :=
  ∀ j, j ≠ s.cur → ∃ w, t.thOf j = { s.thOf j with watchHit := w } ∨ t.thOf j = { (s.thOf j).endWait with watchHit := w }

/-- Every thread is as before, or its watch has been written, or its wait has ended and its front goes on after it (R119). -/
def Watched (s t : State) : Prop := ∀ j, ∃ w, t.thOf j = { s.thOf j with watchHit := w } ∨ t.thOf j = { (s.thOf j).endWait with watchHit := w }

/-- Bytes `bs` stand at `flat`, and every other byte is as before. -/
def Stored (flat : Nat) (bs : List Byte) (s t : State) : Prop :=
  ∀ x, t.byte x = if flat ≤ x ∧ x < flat + bs.length then bs.getD (x - flat) 0 else s.byte x

end Sys2Proof.Claim

/-- R95: a load whose address is aligned and translates puts the extended bytes in d, arms the watch at its block (R119), and leaves
every byte of memory and every other register as it was. In a lane thread the value goes to its element (R105). -/
def Obligations.LoadsRead : Prop :=
  ∀ (i : Instr) (s : State) (n : Nat) (sg : Bool) (d a : SReg) (imm : Imm) (flat leaf : Nat),
    Claim.load i = some (n, sg, d, a, imm) →
    let ea := Claim.address s a imm
    ea.toNat % n = 0 → Claim.ReachesAt s .read ea n (.read none) flat leaf →
      (s.lane = none → s.th.acquiring = false → ∃ t, exec i s = .next t ∧ Claim.Access s t ∧ t.mem = s.mem
        ∧ Claim.Accessor s.th t.th ∧ (∀ j, j ≠ s.cur → t.thOf j = s.thOf j) ∧ t.th.pending = s.th.pending
        ∧ t.th.watch = some (flat / 64) ∧ t.th.watchHit = false ∧ t.th.stall = s.th.stall.del 0
        ∧ GoesOn s.th t.th ∧ ScalarsWith d (Claim.extend sg n (leNat (s.readBytes flat n))) s t)
      ∧ ∀ vp, s.lane = some vp →
        exec i s = .next (laneWrites (s.touched s.cur s.who flat n leaf false) vp d (Claim.extend sg n (s.load flat n)))

/-- R95: a store whose address is aligned and translates puts the low n bytes of d at ea, and changes no other byte and no scalar.
Where scalar accesses are performed by events, the bytes stand pending until SCALAR_ACCESS_PERFORMED (R96). A lane thread's store
is performed as it is made. -/
def Sys2Proof.Claim.StoresWrite : Prop :=
  ∀ (i : Instr) (s : State) (n : Nat) (d a : SReg) (imm : Imm) (flat leaf : Nat),
    Claim.store i = some (n, d, a, imm) →
    let ea := Claim.address s a imm
    let bs := leBytes n (s.getS d).toNat
    ea.toNat % n = 0 → Claim.ReachesAt s .write ea n (.write bs) flat leaf →
      (s.lane = none → s.th.acquiring = false → s.th.descOpen = false → ∃ t, exec i s = .next t ∧ Claim.Accessor s.th t.th ∧ (∀ r, t.getS r = s.getS r)
        ∧ t.th.watch = s.th.watch ∧ t.th.watchHit = s.th.watchHit ∧ GoesOn s.th t.th
        ∧ (s.lockstep = true → Claim.Access s t ∧ Claim.OthersWatch s t ∧ t.th.pending = s.th.pending ∧ Claim.Stored flat bs s t)
        ∧ (s.lockstep = false → t.mem = s.mem ∧ (∀ j, j ≠ s.cur → t.thOf j = s.thOf j) ∧ t.th.pending = s.th.pending ++ [(flat, bs)]
          ∧ t.agenda = s.agenda ++ [.event (.scalarAccessPerformed s.cur)]))
      ∧ ∀ vp, s.lane = some vp →
        let u := (s.touched s.cur s.who flat n leaf true).storeBytes none flat bs
        Claim.Stored flat bs s u ∧ exec i s = .next (u.setTh s.cur (u.th.modLane vp fun l => laneSeq l u.th.fu.nextAddr))

/-- R96: the oldest store of a thread that is not performed is performed: its bytes, and no others, change. -/
def Sys2Proof.Claim.PendingStoresPerform : Prop :=
  ∀ (k : ThreadKey) (s : State) (a : Nat) (bs : List Byte) (rest : List (Nat × List Byte)), (s.thOf k).pending = (a, bs) :: rest →
    ∃ t, exec (.scalarAccessPerformed k) s = .next t ∧ Claim.Stored a bs s t ∧ t = { s with threads := t.threads, mem := t.mem }
      ∧ (t.thOf k).pending = rest ∧ ∀ j, j ≠ k → MayWake (s.thOf j) (t.thOf j)

/-- A store enters, and is performed. -/
def Obligations.StoresWriteAndPerform : Prop :=
  Claim.StoresWrite ∧ Claim.PendingStoresPerform

/-- R97, R98: an atomic of the control front reads n bytes at U(a), writes the new value back in the same step (a cas that fails
writes nothing), and gives d the old value. A release waits until the older vector accesses are performed, and the host space
takes add, swap and cas alone. -/
def Obligations.AtomicsUpdate : Prop :=
  ∀ (i : Instr) (s : State) (op : AmoK) (o : Amo) (flat leaf : Nat), Claim.atomic i = some (op, o) → s.lane = none →
    let n := if o.dbl then 8 else 4
    let ea := s.getS o.a
    let x := (s.getS o.b).toNat % 2 ^ (8 * n)
    let e := (s.getS o.d).toNat % 2 ^ (8 * n)
    let u := s.performAll s.cur
    (o.ord.toNat < 2 ∨ s.th.pipe = []) → s.th.acquiring = false → s.th.descOpen = false → ea.toNat % n = 0
      → (ea.toNat / 2 ^ 60 = 2 → op = .add ∨ op = .swap ∨ op = .cas)
      → Claim.ReachesAt u .atomic ea n (.atomic (amoCode op) x e) flat leaf →
      ∃ t, exec i s = .next t ∧ Claim.Access s t ∧ Claim.Accessor s.th t.th ∧ Claim.OthersWatch s t ∧ GoesOn s.th t.th
        ∧ t.th.pending = [] ∧ t.th.watch = some (flat / 64)
        ∧ Claim.Stored flat (((Claim.amoValue op n (u.load flat n) x e).map (leBytes n)).getD []) u t
        ∧ ScalarsWith o.d (Claim.extend (!o.dbl && op != .minu && op != .maxu) n (u.load flat n)) s t

/-- R95, R97: an access that is not naturally aligned traps MISALIGN with TRAPVA = ea, and reaches no memory. -/
def Sys2Proof.Claim.MisalignedAccessesTrap : Prop :=
  ∀ (i : Instr) (s : State) (n : Nat) (ea : W64), s.lane = none → s.th.acquiring = false → s.th.pending = []
    → s.th.canStop = true → ¬(s.th.sup = true ∧ s.th.trap.inTrap = true)
    → ((∃ sg d a imm, Claim.load i = some (n, sg, d, a, imm) ∧ ea = Claim.address s a imm)
        ∨ (s.th.descOpen = false ∧ ∃ d a imm, Claim.store i = some (n, d, a, imm) ∧ ea = Claim.address s a imm)
        ∨ s.th.descOpen = false ∧ ∃ op o, Claim.atomic i = some (op, o) ∧ ea = s.getS o.a ∧ n = (if o.dbl then 8 else 4) ∧ (o.ord.toNat < 2 ∨ s.th.pipe = []))
    → ea.toNat % n ≠ 0 → ∃ t, exec i s = .next t ∧ FrontTraps cMISALIGN 0 ea s t

/-! ## Branches, loops and lane threads -/

namespace Sys2Proof.Claim

/-- The sequencers have noted what has come to stand at their gates (R229); nothing else differs. -/
def Arrived (s t : State) : Prop :=
  t = { s with threads := t.threads, cores := t.cores } ∧ (∀ j, ∃ n, t.thOf j = { s.thOf j with seqAge := n })
    ∧ ∀ c, ∃ n, t.core c = { s.core c with seqClock := n }

/-- The target of an offset in words from the fetch unit being run (R99). -/
def target (s : State) (off : Int) : W64 := BitVec.ofInt 64 (s.th.fu.addr.toNat + 4 * off)

/-- Whether a compare branch is taken (R99), and its offset. -/
def branch (v : SReg → W64) : Instr → Option (Bool × Int)
  | .beq a b off => some (decide (v a = v b), off.toInt)
  | .bne a b off => some (decide (v a ≠ v b), off.toInt)
  | .blt a b off => some (decide ((v a).toInt < (v b).toInt), off.toInt)
  | .bge a b off => some (decide ((v b).toInt ≤ (v a).toInt), off.toInt)
  | .bltu a b off => some (decide ((v a).toNat < (v b).toNat), off.toInt)
  | .bgeu a b off => some (decide ((v b).toNat ≤ (v a).toNat), off.toInt)
  | .j off => some (true, off.toInt)
  | _ => none

/-- A lane thread goes on at a target (R107), or at its next fetch unit. -/
def laneGoes (s : State) (vp : Nat) (goal_ : Option W64) : State :=
  s.setTh s.cur (s.th.modLane vp fun l => match goal_ with
    | some pc => some (laneJump l pc)
    | none => laneSeq l s.th.fu.nextAddr)

/-- The mask branches: mask, offset, and when it is taken by the tested bits (R101). -/
def maskBranch (v : VecState) : Instr → Option (SReg × Int × Prop)
  | .bany m off => some (m, off.toInt, ∃ i < v.vl, maskBit v v.members m.toNat i = true)
  | .ball m off => some (m, off.toInt, ∀ i < v.vl, maskBit v v.members m.toNat i = true)
  | .bnone m off => some (m, off.toInt, ∀ i < v.vl, maskBit v v.members m.toNat i = false)
  | _ => none

/-- The front's instruction has not run: it is tried again, and nothing but the hold differs. -/
def Holds (h : Hold) (i : Instr) (s : State) : Prop := exec i s = .next (s.mod fun t => { t with hold := h })

/-- Nothing that has started is left to complete (R41), and the front is outside a handler that has not returned, so that a trap enters
the handler (R114). -/
def MayTrap (s : State) : Prop := s.th.canStop = true ∧ ¬(s.th.sup = true ∧ s.th.trap.inTrap = true)

/-- The instruction traps at its own fetch unit, and nothing but its thread differs. -/
def Traps (i : Instr) (cause detail : Nat) (va : W64) (s : State) : Prop := ∃ t, exec i s = .next t ∧ FrontTraps cause detail va s t

/-- The control front goes on, and changes nothing else. -/
def Passes (i : Instr) (s : State) : Prop := ∃ t, exec i s = .next t ∧ FrontPasses s t

/-- The virtual processors that a fetch starts (R107, R108): those below the captured VL whose bit is set in k. -/
def Started (v : VecState) (f : FetchRec) (g : Option FetchRec) : Prop :=
  ∀ vp, g.bind (laneOf · vp) =
    if vp < f.vl ∧ maskBit v f.dist f.k vp = true then
      some (if f.block then { pc := f.target + 4, blkEnd := some f.stop, inVec := true, jumped := false }
        else { pc := f.target, blkEnd := none, inVec := false, jumped := true })
    else none

/-- A fetch is handed over (R107, R108): the front goes on; the lane threads start once the older entries have completed. -/
def HandsOver (f : FetchRec) (s t : State) : Prop :=
  t.th = { s.th with pc := t.th.pc, loops := t.th.loops, hold := .none, fetch := t.th.fetch } ∧ GoesOn s.th t.th
    ∧ (∀ j, j ≠ s.cur → t.thOf j = s.thOf j)
    ∧ (s.lockstep = true → t = { s with threads := t.threads }
        ∧ if s.th.pipe = [] then Claim.Started s.th.v f t.th.fetch else t.th.fetch = some f)
    ∧ (s.lockstep = false → t = { s with threads := t.threads, agenda := s.agenda ++ [.event (.laneThreadStart s.cur)] }
        ∧ t.th.fetch = some f)

/-- What a fetch captures at routing (R107, R50). -/
def fetch (s : State) (target : W64) (len : Option Nat) (k : MReg) : FetchRec :=
  { target, block := len.isSome, stop := BitVec.ofNat 64 (target.toNat + 4 + 4 * len.getD 0), k := k.toNat, vl := s.th.v.vl
    tags := (List.range 32).map (tagOf s.th.v), dist := s.th.v.members, started := false, lanes := [] }

end Sys2Proof.Claim

/-- R99, R100 (j): a compare branch whose condition holds, and every j, goes to the fetch unit's address plus four times the offset;
a branch whose condition does not hold goes on. Nothing else changes. In a lane thread the same of its own pc (R107). -/
def Sys2Proof.Claim.BranchesGo : Prop :=
  ∀ (i : Instr) (s : State) (taken : Bool) (off : Int), Claim.branch s.getS i = some (taken, off) →
    (s.lane = none → ∃ t, exec i s = .next t ∧ if taken then FrontJumps (Claim.target s off) s t else FrontPasses s t)
      ∧ ∀ vp, s.lane = some vp → exec i s = .next (Claim.laneGoes s vp (if taken then some (Claim.target s off) else none))

/-- R100 (jal, jalr): the link register becomes the address of the next fetch unit, jalr's target is read first, and a target that
is no multiple of 4 traps MISALIGN with TRAPVA the target and leaves d unchanged. -/
def Sys2Proof.Claim.JumpsLink : Prop :=
  ∀ (s : State) (off : BitVec 48) (d a : SReg),
    let link (i : Instr) (pc : W64) (d : SReg) := (s.lane = none → ∃ t, exec i s = .next t ∧ OnlyThread s.cur s t
        ∧ OnlyScalarsAndPc s.th t.th ∧ GoesTo pc s.th t.th ∧ ScalarsWith d s.th.fu.nextAddr s t)
      ∧ ∀ vp, s.lane = some vp → ∃ t, exec i s = .next t ∧ OnlyThread s.cur s t
        ∧ t.th.v = (if d = 0 then s.th.v else
            { writeElem s.th.v s.th.laneDist d.toNat (s.th.laneTag d.toNat).bits vp s.th.fu.nextAddr.toNat with
              dirty := (laneWrite s.th vp d.toNat s.th.fu.nextAddr).dirty })
        ∧ t.th.fetch = (s.th.modLane vp fun l => some (laneJump l pc)).fetch
    link (.jal off) (Claim.target s off.toInt) 1
      ∧ ((s.getS a).toNat % 4 = 0 → link (.jalr d a) (s.getS a) d)
      ∧ ((s.getS a).toNat % 4 ≠ 0 → s.lane = none → Claim.MayTrap s → Claim.Traps (.jalr d a) cMISALIGN 0 (s.getS a) s)

/-- R101: a mask branch tests the bits of its mask below VL, once no entry in the queues writes the mask; until then it holds. A
specifier above 7 traps ILLREG with field A and the value (R91). -/
def Sys2Proof.Claim.MaskBranchesTest : Prop :=
  ∀ (i : Instr) (s : State) (m : SReg) (off : Int) (taken : Prop), Claim.maskBranch s.th.v i = some (m, off, taken) → s.lane = none →
    (m.toNat < 8 → (s.th.pipe.any fun e => e.writesMask m.toNat) = false →
      ∃ t, exec i s = .next t ∧ (taken → FrontJumps (Claim.target s off) s t) ∧ (¬taken → FrontPasses s t))
      ∧ (m.toNat < 8 → (s.th.pipe.any fun e => e.writesMask m.toNat) = true → Claim.Holds .none i s)
      ∧ (8 ≤ m.toNat → Claim.MayTrap s → Claim.Traps i cILLREG (0x100 + m.toNat) 0 s)

/-- Branches on scalars, jumps, and branches on masks. -/
def Obligations.BranchesAndJumpsGo : Prop :=
  Claim.BranchesGo ∧ Claim.JumpsLink ∧ Claim.MaskBranchesTest

/-- R102: loop opens a record and goes on at the body, or skips a body of no iteration, or traps CTLSTATE. -/
def Sys2Proof.Claim.LoopsOpen : Prop :=
  ∀ (s : State) (a : SReg) (sm1 : BitVec 3) (lvl : BitVec 2) (len : Imm), s.lane = none →
    let i := Instr.loop a sm1 lvl len
    let b := s.th.fu.nextAddr
    let e := BitVec.ofNat 64 (b.toNat + 4 * len.toNat)
    let n := (s.getS a).toNat
    let deep := ∃ r ∈ s.th.loops, lvl.toNat ≤ r.l
    let wide := ∃ r, s.th.loops.head? = some r ∧ r.e.toNat < e.toNat
    (deep → Claim.MayTrap s → Claim.Traps i cCTLSTATE 1 0 s)
      ∧ (¬deep → wide → Claim.MayTrap s → Claim.Traps i cCTLSTATE 2 0 s)
      ∧ (¬deep → ¬wide → n = 0 → ∃ t, exec i s = .next t ∧ OnlyThread s.cur s t
          ∧ t.th = { s.th with pc := t.th.pc, loops := t.th.loops, hold := .none } ∧ (t.th.loops, t.th.pc) = loopEnd s.th.loops e)
      ∧ (¬deep → ¬wide → n ≠ 0 → ∃ t, exec i s = .next t ∧ OnlyThread s.cur s t
          ∧ t.th = { s.th with
              pc := b, hold := .none
              loops := { b, e, t := n, s := sm1.toNat + 1, n := n + sm1.toNat, l := lvl.toNat, i := 0 } :: s.th.loops })

/-- R103: where sequential flow reaches the end of the innermost body, the loop goes round or its record is popped, and then an
enclosing loop that ends there too ends its iteration. A branch out of a body ends it. Said of add s0, s0, s0 and of j. -/
def Sys2Proof.Claim.IterationsEnd : Prop :=
  ∀ (s : State) (r : LoopRec) (rest : List LoopRec), s.lane = none → s.th.loops = r :: rest →
    (s.th.fu.nextAddr = r.e → r.i + 1 < r.n →
      ∃ t, exec (.add 0 0 0) s = .next t ∧ t.th.pc = r.b ∧ t.th.loops = { r with i := r.i + 1 } :: rest)
      ∧ (s.th.fu.nextAddr = r.e → r.n ≤ r.i + 1 → (∀ q ∈ rest.head?, q.e ≠ r.e) →
        ∃ t, exec (.add 0 0 0) s = .next t ∧ t.th.pc = r.e ∧ t.th.loops = rest)
      ∧ (∀ q more, rest = q :: more → s.th.fu.nextAddr = r.e → r.n ≤ r.i + 1 → q.e = r.e → q.i + 1 < q.n →
        ∃ t, exec (.add 0 0 0) s = .next t ∧ t.th.pc = q.b ∧ t.th.loops = { q with i := q.i + 1 } :: more)
      ∧ (s.th.fu.nextAddr ≠ r.e → ∃ t, exec (.add 0 0 0) s = .next t ∧ t.th.pc = s.th.fu.nextAddr ∧ t.th.loops = r :: rest)
      ∧ ∀ off : BitVec 48,
        let pc := Claim.target s off.toInt
        (r.b.toNat ≤ pc.toNat → pc.toNat < r.e.toNat → ∃ t, exec (.j off) s = .next t ∧ t.th.pc = pc ∧ t.th.loops = r :: rest)
          ∧ (pc.toNat < r.b.toNat ∨ r.e.toNat ≤ pc.toNat →
            ∃ t, exec (.j off) s = .next t ∧ t.th.pc = pc ∧ ∃ gone, r :: rest = gone ++ t.th.loops ∧ gone ≠ [])

/-- A loop opens, and its iterations end. -/
def Obligations.LoopsRun : Prop :=
  Claim.LoopsOpen ∧ Claim.IterationsEnd

/-- R107, R108, R109, R15: vfetch (once its target is read as a header, which asks the arbiters as any fetch does) and vthr hand a fetch
over; with one in flight they hold. A target that is no header traps ILLOP 5. LANE_THREAD_START starts a fetch whose older entries have
completed. vjoin waits for the fetch in the control thread, and ends a lane thread. -/
def Obligations.LaneThreadsStartAndJoin : Prop :=
  ∀ (s : State) (k : MReg) (off : BitVec 38),
    let goal_ := Claim.target s off.toInt
    (∀ flat leaf, s.lane = none → Claim.ReachesAt s .fetch goal_ 4 (.read none) flat leaf →
      let u := s.accessReqs (coreOf s.cur) s.ownKey flat 4 false none
      u = { s with arbs := u.arbs, budgets := u.budgets }
        ∧ (∀ n, headerLen (BitVec.ofNat 32 (s.load flat 4)) = some n →
          (s.th.fetch = none → ∃ t, exec (.vfetch k off) s = .next t ∧ Claim.HandsOver (Claim.fetch s goal_ (some n) k) u t)
            ∧ (s.th.fetch ≠ none → ∃ t, exec (.vfetch k off) s = .next t ∧ OnlyThread s.cur u t
                ∧ t.th = { s.th with hold := .join }))
        ∧ (headerLen (BitVec.ofNat 32 (s.load flat 4)) = none → Claim.MayTrap s →
          ∃ t, exec (.vfetch k off) s = .next t ∧ FrontTraps cILLOP 5 0 u t))
      ∧ (s.lane = none → s.th.fetch = none → ∃ t, exec (.vthr k off) s = .next t ∧ Claim.HandsOver (Claim.fetch s goal_ none k) s t)
      ∧ (s.lane = none → s.th.fetch ≠ none → Claim.Holds .join (.vthr k off) s ∧ Claim.Holds .join .vjoin s)
      ∧ (s.lane = none → s.th.fetch = none → Claim.Passes .vjoin s)
      ∧ (∀ vp f, s.lane = some vp → s.th.fetch = some f → laneOf f vp ≠ none → ∃ t, exec .vjoin s = .next t ∧ OnlyThread s.cur s t
          ∧ t.th = { s.th with fetch := t.th.fetch }
          ∧ ∀ w, t.th.fetch.bind (laneOf · w) = if w = vp then none else laneOf f w)
      ∧ ∀ key f, (s.thOf key).fetch = some f → f.started = false →
        ((s.thOf key).pipe = [] → ∃ t, exec (.laneThreadStart key) s = .next t ∧ OnlyThread key s t
            ∧ t.thOf key = { s.thOf key with fetch := (t.thOf key).fetch } ∧ Claim.Started (s.thOf key).v f (t.thOf key).fetch)
          ∧ ((s.thOf key).pipe ≠ [] → exec (.laneThreadStart key) s = .next s)

/-! ## State registers -/

namespace Sys2Proof.Claim

/-- A register of fields: each value at its lowest bit. -/
def word (fields : List (Nat × Nat)) : W64 := BitVec.ofNat 64 ((fields.map fun f => f.1 * 2 ^ f.2).sum)

/-- A Boolean field. -/
def one (b : Bool) : Nat := if b then 1 else 0

/-- LPART's PEND (R55). -/
def pendBit (s : State) (c k : Nat) : Nat := one ((s.core c).lg.getD k 0 ≠ s.shareOf c k)

/-- XCHn (R297). -/
def channel (c : Chan) : W64 := word [(c.done % 2 ^ 48, 0), (c.err, 56), (one c.frz, 60), (one (c.done < c.next), 61)]

/-- The value of each user and supervisor register that R51 names (R52–R59, R112, R113, R178, R250, R261, R271, R277, R279, R297,
R303, R318, R326, R336, R356); none for every other number. -/
def special (s : State) (num : Nat) : Option W64 :=
  let t := s.th
  let v := t.v
  let c := coreOf s.cur
  if num = 0x000 then some (word [(v.vl, 0)])
  else if num = 0x001 then some (word [(v.vlgrant, 0)])
  else if num = 0x002 then some (word [(v.maxBytes % 2 ^ 32, 0), (v.maxNw, 32)])
  else if num = 0x003 then some (word [(v.vstart, 0)])
  else if num = 0x004 then some (word [(v.gc, 0), (v.cb, 4), (v.ltag.code, 8)])
  else if 0x008 ≤ num ∧ num ≤ 0x00B then
    some (word ((List.range 8).map fun k => ((tagOf v (8 * (num - 8) + k)).code, 8 * k)))
  else if num = 0x010 then some (word [(v.mtr.space, 0), (v.mtr.core, 8), (v.mtr.pkg, 24)])
  else if num = 0x011 then
    let lg := (s.core c).lg
    some (word ((List.range 4).map (fun k => (lg.getD k 0, 4 * k)) ++ [((s.core c).work, 16)]
      ++ (List.range 4).map fun k => (pendBit s c k, 20 + k)))
  else if num = 0x020 then some v.fstat
  else if 0x021 ≤ num ∧ num ≤ 0x027 then some (v.eix.get 0 (num - 0x021))
  else if num = 0x030 then some (word [(v.mdest, 0), (v.missCount % 2 ^ 32, 16)])
  else if num = 0x038 then some t.trap.info
  else if num = 0x039 then some t.trap.va
  else if num = 0x040 then some t.ui.vec
  else if num = 0x041 then some t.ui.epc
  else if num = 0x042 then some (word [(t.ui.pend, 0), (t.ui.taken, 8), (one t.ui.inn, 16)])
  else if num = 0x044 then some (channel t.ch0)
  else if num = 0x045 then some (channel t.ch1)
  else if 0x050 ≤ num ∧ num ≤ 0x05F then
    let b := (s.core c).cbs.get {} (num - 0x050)
    some (word [(one b.v, 0), (b.gen, 8), (b.thr, 16)])
  else if num = 0x060 then some t.hsel
  else if num = 0x061 then some (s.imb t.part)
  else if 0x070 ≤ num ∧ num ≤ 0x073 then some (t.barpend.get 0 (num - 0x070))
  else if num = 0x400 then some t.trap.epc
  else if num = 0x401 then some t.trap.tvec
  else if num = 0x402 then some t.trap.pc
  else if num = 0x403 then some (word [(t.trap.evstart, 0)])
  else if num = 0x410 then some (word [(t.ctx % 2 ^ 12, 0), (t.owner % 2 ^ 6, 12), (t.part % 2 ^ 4, 18)])
  else if num = 0x411 then
    some (word [(t.gnum % 2 ^ 24, 0), (t.nmem - 1, 26), (attBits v.members 0, 28), (if t.nmem = 0 then 0 else c % 4, 32),
      (one t.quad, 34)])
  else if num = 0x420 then some (word [(t.pgcmd.cmd.toNat, 0), (t.pgcmd.status, 60), (one t.pgcmd.busy, 63)])
  else if num = 0x430 then some (s.ctx t.ctx).lnkin
  else if num = 0x431 then some (word [((s.ctx t.ctx).lnkbnd, 0)])
  else if num = 0x440 then
    let u := s.clu (cluOf c)
    some (word [(u.req, 0), (u.cur, 2)])
  else if num = 0x450 then some t.sampctl
  else none

/-- Bits of `w` under a mask. -/
def masked (w : W64) (m : Nat) : W64 := w &&& BitVec.ofNat 64 m

/-- The write of a field whose values from `lim` upward are reserved. -/
def below (x lim : Nat) (w : W64) : Option W64 := if x < lim then some w else none

/-- What a register reads as after a write of `w`, `old` before it (R49, R52–R58, R112, R113, R271, R277, R279, R297, R303, R318,
R336, R356): RO fields keep their values; none for a reserved value. -/
def written (s : State) (num : Nat) (old w : W64) : Option W64 :=
  let x := w.toNat
  let c := coreOf s.cur
  if num = 0x003 ∨ num = 0x403 then some (masked w 0xFFFFFFFF)
  else if num = 0x010 then if x % 8 < 6 ∧ x / 2 ^ 8 % 2 ^ 9 < 384 then some (masked w 0x3F01FF07) else none
  else if num = 0x011 then
    let f (k : Nat) := x / 2 ^ (4 * k) % 16
    if s.th.sup = false then some old
    else if f 0 ≤ 8 ∧ f 1 ≤ 8 ∧ f 2 ≤ 8 ∧ f 3 ≤ 8 ∧ f 0 + f 1 + f 2 + f 3 ≤ (s.core c).work then
      some (word ([(x % 2 ^ 16, 0), ((s.core c).work, 16)] ++ (List.range 4).map fun k => (one (f k ≠ s.shareOf c k), 20 + k)))
    else none
  else if num = 0x020 then some (masked w 0x7F7F3F)
  else if 0x021 ≤ num ∧ num ≤ 0x027 then some (if 2 ^ 63 ≤ x then 0 else old)
  else if num = 0x030 then if x % 8 = 0 then none else some (word [(x % 8, 0), (s.th.v.missCount % 2 ^ 32, 16)])
  else if num = 0x040 then some (w &&& ~~~2)
  else if num = 0x041 ∨ num = 0x401 then some (w &&& ~~~3)
  else if num = 0x044 then
    some (if s.th.sup = true ∧ x / 2 ^ 60 % 2 = 1 then word [(s.th.ch0.next % 2 ^ 48, 0)] else old)
  else if num = 0x045 then
    some (if s.th.sup = true ∧ x / 2 ^ 60 % 2 = 1 then word [(s.th.ch1.next % 2 ^ 48, 0)] else old)
  else if num = 0x060 then below (x % 16) 10 (masked w 0x1F)
  else if num = 0x400 then below (x % 4) 2 w
  else if num = 0x420 then
    if x % 4 < 3 ∧ x / 8 % 8 < 4 then
      some (word [(x % 64, 0), (x / 2 ^ 16 % 2 ^ 41, 16), (s.th.pgcmd.status, 60), (one (x % 4 ≠ 0), 63)])
    else none
  else if num = 0x430 then some (masked w (1 + (2 ^ 57 - 2 ^ 6)))
  else if num = 0x431 then some (masked w 0xFFFFFF)
  else if num = 0x440 then below (x % 4) 3 (word [(x % 4, 0), ((s.clu (cluOf c)).cur, 2)])
  else if num = 0x450 then if x / 2 ^ 8 % 2 ^ 24 = 0 then none else some (masked w 0xFFFFFF03)
  else some old

/-- The level of a number (R49). -/
def level (num : Nat) : Nat := if num < 0x400 then 0 else if num < 0x800 then 1 else 2

/-- The number lies at or below the thread's level. -/
def Reaches (s : State) (num : Nat) : Prop := level num ≤ one s.th.sup

/-- What a write starts: PGCMD's command by OP (R271), and the dispatcher where a supervisor's LPART frees lanes (R241). -/
def startedBy (s : State) (num : Nat) (w : W64) : List Turn :=
  if num = 0x420 ∧ w.toNat % 4 = 1 then [.event (.inval (.pgcmd s.cur))]
  else if num = 0x420 ∧ w.toNat % 4 = 2 then [.event (.pagedone (.pgcmd s.cur))]
  else if num = 0x011 ∧ s.th.sup = true then [.event (.placeGroup s.th.part)]
  else []

/-- The thread's execute queue is empty (R30, R56, R57). -/
def QueueIdle (s : State) : Prop := ∀ e ∈ s.th.pipe, e.inExe = false

end Sys2Proof.Claim

/-- R120, R51: srr of a register that the thread reaches puts its value in d, and changes nothing else; VSTART, FSTAT and EIX wait
until the execute queue is empty (R30, R56, R57). -/
def Sys2Proof.Claim.RegistersRead : Prop :=
  ∀ (s : State) (d : SReg) (num : BitVec 12) (x : W64), s.lane = none → Claim.Reaches s num.toNat → Claim.special s num.toNat = some x →
    let ordered := num.toNat = 0x003 ∨ (0x020 ≤ num.toNat ∧ num.toNat ≤ 0x027)
    ((ordered → Claim.QueueIdle s) → ∃ t, exec (.srr d num) s = .next t ∧ FrontWrites d x s t)
      ∧ (ordered → ¬Claim.QueueIdle s → Claim.Holds .none (.srr d num) s)

/-- R121, R49: srw of a register that the thread reaches leaves in it what R49 and its field map say, and changes no other state
register, no scalar and no byte of memory; a reserved value traps ILLREG with the number in DETAIL. FSTAT, EIX and PGCMD are ordered as
R56, R57 and R271 say; PGCMD starts its command, and a supervisor's LPART has the dispatcher look at the pending list (R241). -/
def Sys2Proof.Claim.RegistersWrite : Prop :=
  ∀ (s : State) (a : SReg) (num : BitVec 12) (old : W64), s.lane = none → Claim.Reaches s num.toNat → Claim.special s num.toNat = some old →
    let i := Instr.srw num a
    let w := s.getS a
    let ordered := 0x020 ≤ num.toNat ∧ num.toNat ≤ 0x027
    let page := num.toNat = 0x420
    let may := (ordered → Claim.QueueIdle s) ∧ (page → s.th.pgcmd.busy = false ∧ s.th.pipe = [] ∧ s.th.pending = [])
    (∀ new, Claim.written s num.toNat old w = some new → may → ∃ t, exec i s = .next t
        ∧ (∀ m, Claim.special t m = if m = num.toNat then some new else Claim.special s m)
        ∧ (∀ r, t.getS r = s.getS r) ∧ t.mem = s.mem ∧ (∀ j, j ≠ s.cur → t.thOf j = s.thOf j) ∧ GoesOn s.th t.th
        ∧ t.th.pipe = s.th.pipe ∧ t.agenda = s.agenda ++ Claim.startedBy s num.toNat w
        ∧ t = { s with threads := t.threads, cores := t.cores, cls := t.cls, ctxs := t.ctxs, agenda := t.agenda })
      ∧ (Claim.written s num.toNat old w = none → may → Claim.MayTrap s → Claim.Traps i cILLREG num.toNat 0 s)
      ∧ (page → s.th.pgcmd.busy = true → Claim.Holds .command i s)
      ∧ (ordered → ¬Claim.QueueIdle s → Claim.Holds .none i s)

/-- R49: a number above the thread's level traps PRIV; below it, an unallocated number traps ILLREG with the number in DETAIL. -/
def Sys2Proof.Claim.RegisterNumbersChecked : Prop :=
  ∀ (s : State) (d a : SReg) (num : BitVec 12), s.lane = none → Claim.MayTrap s →
    (¬Claim.Reaches s num.toNat → Claim.Traps (.srr d num) cPRIV 0 0 s ∧ Claim.Traps (.srw num a) cPRIV 0 0 s)
      ∧ (Claim.Reaches s num.toNat → Claim.special s num.toNat = none →
        Claim.Traps (.srr d num) cILLREG num.toNat 0 s ∧ Claim.Traps (.srw num a) cILLREG num.toNat 0 s)

/-- Srr and srw, and the checks of their number. -/
def Obligations.SpecialRegistersReadAndWritten : Prop :=
  Claim.RegistersRead ∧ Claim.RegistersWrite ∧ Claim.RegisterNumbersChecked

namespace Sys2Proof.Claim

/-- The value rdharm returns (R319): a cell of a partition matrix, or of a package matrix that touches the thread's partition. -/
def harm (s : State) (r c : Nat) : Nat :=
  let cls := s.th.hsel.toNat % 16
  if s.th.hsel.toNat / 16 % 2 = 1 then
    if r ≤ 15 ∧ c ≤ 16 ∧ (r = s.th.part ∨ c = s.th.part) then s.pkgCell cls r c else 0
  else if r ≤ 63 ∧ c ≤ 64 then s.delayCell s.th.part cls r c else 0

/-- The value rdimb returns (R332): IDX in bits 3:0, KEY in bits 10:4; 0 where a reserved bit is set, KEY is above 64 or IDX is above 9. -/
def imbalance (s : State) (x : Nat) : Nat :=
  let r := s.str (strOf (coreOf s.cur))
  let p := s.part s.th.part
  let key := x / 16 % 128
  if 64 < key ∨ 2 ^ 11 ≤ x then 0
  else [r.lastC.getD 0 0, r.lastC.getD 1 0, r.lastC.getD 2 0, r.lastC.getD 3 0, r.lastSpread, r.lastWash, r.thrcnt,
    r.lastL % 256 + one r.off * 2 ^ 8 + one r.lastHalf * 2 ^ 9 + r.icount % 2 ^ 32 * 2 ^ 32, p.gateu.get 0 key,
    p.washu.get 0 key].getD (x % 16) 0

/-- The value rdsamp returns (R357): IDX in bits 3:0, the lane group in bits 6:4; 0 where a reserved bit is set or there is no sample. -/
def sample (s : State) (x : Nat) : Nat :=
  match s.th.sample with
  | none => 0
  | some m =>
    if 2 ^ 7 ≤ x then 0
    else
      let lane (i : Nat) := min ((m.lgs.getD (x / 16 % 8) []).getD i 0) (2 ^ 32 - 1)
      [m.addr.toNat, m.seq % 2 ^ 32 + m.vl % 2 ^ 32 * 2 ^ 32, m.lvl % 8 + m.it % 2 ^ 32 * 2 ^ 32, lane 0, lane 1, lane 2, lane 3].getD
        (x % 16) 0

end Sys2Proof.Claim

/-- R319, R332, R357: the three instructions that read a measure put it in d and change nothing else. -/
def Sys2Proof.Claim.MeasuresRead : Prop :=
  ∀ (s : State) (d a b : SReg), s.lane = none →
    (∃ t, exec (.rdharm d a b) s = .next t ∧ FrontWrites d (BitVec.ofNat 64 (Claim.harm s (s.getS a).toNat (s.getS b).toNat)) s t)
      ∧ (∃ t, exec (.rdimb d a) s = .next t ∧ FrontWrites d (BitVec.ofNat 64 (Claim.imbalance s (s.getS a).toNat)) s t)
      ∧ ∃ t, exec (.rdsamp d a) s = .next t ∧ FrontWrites d (BitVec.ofNat 64 (Claim.sample s (s.getS a).toNat)) s t

/-- R333, R320: setwash asks for the string's OFF at the next interval boundary; hclr clears what its bits name for an owner or for all.
Both run at supervisor level only, and trap PRIV at user level and PWRFAULT 1 or HARMFAULT 1 on a reserved value. -/
def Sys2Proof.Claim.MeasuresCleared : Prop :=
  ∀ (s : State) (a : SReg), s.lane = none →
    let x := (s.getS a).toNat
    let passes (t : State) := t.th = { s.th with pc := t.th.pc, loops := t.th.loops, hold := .none } ∧ GoesOn s.th t.th
      ∧ ∀ j, j ≠ s.cur → t.thOf j = s.thOf j
    let n := strOf (coreOf s.cur)
    let named (o : Nat) := x / 64 % 2 = 1 ∨ o = x % 64
    (s.th.sup = false → Claim.MayTrap s → Claim.Traps (.setwash a) cPRIV 0 0 s ∧ Claim.Traps (.hclr a) cPRIV 0 0 s)
      ∧ (s.th.sup = true → 2 ≤ x → Claim.MayTrap s → Claim.Traps (.setwash a) cPWRFAULT 1 0 s)
      ∧ (s.th.sup = true → x < 2 → ∃ t, exec (.setwash a) s = .next t ∧ passes t
          ∧ t = { s with threads := t.threads, strs := t.strs }
          ∧ ∀ m, t.str m = if m = n then { s.str n with offPend := some (decide (x = 1)) } else s.str m)
      ∧ (s.th.sup = true → 2 ^ 10 ≤ x ∨ x / 2 ^ 7 % 8 = 0 → Claim.MayTrap s → Claim.Traps (.hclr a) cHARMFAULT 1 0 s)
      ∧ (s.th.sup = true → x < 2 ^ 10 → x / 2 ^ 7 % 8 ≠ 0 → ∃ t, exec (.hclr a) s = .next t ∧ passes t
          ∧ t = { s with threads := t.threads, parts := t.parts, arbs := t.arbs }
          ∧ (∀ p, p ≠ s.th.part → t.part p = s.part p)
          ∧ (∀ cls r c, r ≤ 63 → c ≤ 64 → (t.part s.th.part).delay.get 0 (cellIdx cls r c) =
              if x / 2 ^ 7 % 2 = 1 ∧ (named r ∨ (c ≤ 63 ∧ named c)) then 0 else (s.part s.th.part).delay.get 0 (cellIdx cls r c))
          ∧ (∀ o, o ≤ 63 → (t.part s.th.part).gateu.get 0 o = (if x / 2 ^ 9 % 2 = 1 ∧ named o then 0 else (s.part s.th.part).gateu.get 0 o)
              ∧ (t.part s.th.part).washu.get 0 o = if x / 2 ^ 9 % 2 = 1 ∧ named o then 0 else (s.part s.th.part).washu.get 0 o)
          ∧ (x / 2 ^ 8 % 2 = 0 → t.arbs = s.arbs)
          ∧ (x / 2 ^ 8 % 2 = 1 → ∀ n o, o ≤ 63 → named o → ¬(n / 2 ^ 20 = 3 ∧ 2 ^ 19 ≤ n % 2 ^ 20) →
              let b := t.arb n
              let k := keyOf s.th.part o
              (x / 64 % 2 = 0 → b.vtOf k = ((s.arb n).minVt (s.arb n).backlog).getD ((s.arb n).vtOf k)) ∧
              b.remV.get 0 k = 0 ∧ b.remU.get 0 k = 0 ∧ b.remD.get 0 k = 0 ∧ b.hsUp.get 0 k = 0 ∧ b.hxUp.get 0 k = 0
                ∧ b.hsDn.get 0 k = 0 ∧ b.hxDn.get 0 k = 0))

/-- Measures are read and cleared. -/
def Obligations.MeasuresReadAndCleared : Prop :=
  Claim.MeasuresRead ∧ Claim.MeasuresCleared

/-! ## Traps, returns and waits -/

namespace Sys2Proof.Claim

/-- The thread without what a trap of one of its lane threads names (R110): INDEX, LT, and the stop pair's pc. -/
def laneInfo (cause detail vp : Nat) (long : Bool) : W64 :=
  BitVec.ofNat 64 (cause % 2 ^ 8 + detail % 2 ^ 16 * 2 ^ 8 + vp % 2 ^ 32 * 2 ^ 24 + 2 ^ 56 + if long then 2 ^ 57 else 0)

/-- The page of an address, as a record and a wait name it (R272). -/
def page (va : W64) : Nat := va.toNat % 2 ^ 57 / 2 ^ 16

/-- What the stop of a context does to a group (R240): loaded groups are stopping; one in Loading stops once loaded, or at a freeze at
once. -/
def stopped (freeze : Bool) (c : Nat) (g : Group) : Group :=
  if g.ctx ≠ c then g
  else if g.st = .loaded then { g with st := .stopping }
  else if g.st = .loading then { g with stopAfter := true, st := if freeze then .stopping else .loading }
  else g

/-- A context that may freeze (R219). -/
def MayFreeze (st : CtxState) : Prop := st = .running ∨ st = .resident ∨ st = .preempting ∨ st = .saved ∨ st = .faulted

/-- Log rings: a record was written or counted as lost (R345). -/
def Logged (func code : Nat) (s t : State) : Prop :=
  let a := s.fn func
  let b := t.fn func
  let room := bit a.evctl.toNat 5 = true ∧ a.evwr - a.evrd < 2 ^ (a.evctl.toNat % 32)
  (room → b.evwr = a.evwr + 1 ∧ b.evlost = a.evlost
      ∧ t.byte (hostFlat (a.evbase.toNat + 32 * (a.evwr % 2 ^ (a.evctl.toNat % 32)))) = BitVec.ofNat 8 code)
    ∧ (¬room → b.evwr = a.evwr ∧ b.evlost = a.evlost + 1 ∧ t.mem = s.mem)

end Sys2Proof.Claim

/-- R114, R59, R113, R115, R116, R91, R270: the entry of a trap. A fetch unit that is no instruction traps ILLOP; a fetch fault other
than PAGEFAULT traps with TRAPVA the address; brk traps BRK and resumes at itself; trap with a code traps SVC and resumes at the
next fetch unit. In a lane thread TRAPINFO carries LT and INDEX, and EPC the control thread's pc (R110). -/
def Sys2Proof.Claim.TrapsEnter : Prop :=
  ∀ (s : State) (code : BitVec 10) (detail : Nat) (va : W64) (long : Bool), Claim.MayTrap s →
    (s.lane = none → Claim.Traps (.unallocatedWordFetch detail) cILLOP detail 0 s)
      ∧ (s.lane = none → s.th.haltBrk = false → Claim.Traps (.brk code) cBRK code.toNat 0 s)
      ∧ (∀ cause, cause ≠ cPAGEFAULT → s.lane = none → ∃ t, exec (.instructionFetchFault cause va long) s = .next t ∧ OnlyThread s.cur s t
          ∧ TrapEntered s.th t.th (trapInfo cause 0 long) va s.th.fu.addr s.th.fu.addr)
      ∧ (s.lane = none → code ≠ 0 → ∃ t, exec (.trap code) s = .next t ∧ OnlyThread s.cur s t
          ∧ let go := loopEnd s.th.loops s.th.fu.nextAddr
            TrapEntered { s.th with loops := go.1 } t.th (trapInfo cSVC code.toNat s.th.fu.long) 0 s.th.fu.addr go.2)
      ∧ ∀ vp, s.lane = some vp → s.th.haltBrk = false → ∃ t, exec (.brk code) s = .next t ∧ OnlyThread s.cur s t
          ∧ TrapEntered s.th t.th (Claim.laneInfo cBRK code.toNat vp s.th.fu.long) 0 s.th.fu.addr s.th.pc

/-- R116, R353: under halt-on-break brk halts the thread where it stands, with TRAPINFO and TRAPVA written, and enters no handler. -/
def Sys2Proof.Claim.BreakHalts : Prop :=
  ∀ (s : State) (code : BitVec 10), s.lane = none → s.th.haltBrk = true → s.th.canStop = true →
    ∃ t, exec (.brk code) s = .next t ∧ t.th.halted = true ∧ t.th.brkStop = true
      ∧ t.th.trap = { s.th.trap with info := trapInfo cBRK code.toNat s.th.fu.long, va := 0 }
      ∧ t.th.pc = s.th.pc ∧ t.th.sup = s.th.sup ∧ t.th.loops = s.th.loops ∧ t.th.pipe = s.th.pipe ∧ t.th.v = s.th.v
      ∧ (∀ r, t.getS r = s.getS r) ∧ t.groups = s.groups ∧ t.ctxs = s.ctxs

/-- R114, R219: a trap at supervisor level before the ERET of an earlier one enters no handler: TRAPINFO, TRAPVA and TRAPPC describe it,
everything else of the thread stands, and the context freezes: its groups stop, its queues block, a CODE 11 record is logged. -/
def Sys2Proof.Claim.NestedTrapsFreeze : Prop :=
  ∀ (s : State) (code : BitVec 10), s.lane = none → s.th.haltBrk = false → s.th.canStop = true → s.th.sup = true
      → s.th.trap.inTrap = true →
    let c := s.th.ctx
    Claim.MayFreeze (s.ctx c).st → ∃ t, exec (.brk code) s = .next t
      ∧ t.th.trap = { s.th.trap with info := trapInfo cBRK code.toNat s.th.fu.long, va := 0, pc := pcField s.th.fu.addr }
      ∧ t.th.pc = s.th.pc ∧ t.th.sup = true ∧ t.th.loops = s.th.loops ∧ t.th.pipe = s.th.pipe ∧ t.th.v = s.th.v
      ∧ (t.ctx c).st = .frozen ∧ (∀ d, d ≠ c → t.ctx d = s.ctx d) ∧ t.groups = s.groups.map (Claim.stopped true c)
      ∧ (∀ q, (t.q q).st = if (s.q q).ctx = c ∧ ((s.q q).st = .empty ∨ (s.q q).st = .ready ∨ (s.q q).st = .blocked)
          then .blocked else (s.q q).st)
      ∧ Claim.Logged (s.part (s.ctx c).part).func 11 s t

/-- R41, R114: while a routed instruction that has started is not complete, an instruction that would trap holds: nothing but its hold
differs. -/
def Sys2Proof.Claim.TrapsWait : Prop :=
  ∀ (s : State) (code : BitVec 10) (detail : Nat), s.lane = none → s.th.canStop = false →
    Claim.Holds .none (.unallocatedWordFetch detail) s ∧ Claim.Holds .none (.brk code) s
      ∧ (code ≠ 0 → Claim.Holds .none (.trap code) s) ∧ (s.th.sup = false → Claim.Holds .none .eret s)

/-- A trap enters its handler, halts, or freezes its context, once what has started has completed. -/
def Obligations.TrapsEnterHandlers : Prop :=
  Claim.TrapsEnter ∧ Claim.BreakHalts ∧ Claim.NestedTrapsFreeze ∧ Claim.TrapsWait

/-- R272, R268: a fetch that page-faults traps, and its context is swapped out: it waits for the page, its groups stop, and a fault
record waits to be posted unless the page is fault-pending. -/
def Sys2Proof.Claim.FetchPageFaultsSwapOut : Prop :=
  ∀ (s : State) (va : W64) (long : Bool), s.lane = none → Claim.MayTrap s →
    let c := s.th.ctx
    (s.ctx c).st = .running → ∃ t, exec (.instructionFetchFault cPAGEFAULT va long) s = .next t
      ∧ TrapEntered s.th t.th (trapInfo cPAGEFAULT 0 long) va s.th.fu.addr s.th.fu.addr
      ∧ (t.ctx c).st = .preempting ∧ (t.ctx c).waits = (s.ctx c).waits ++ [⟨Claim.page va, s.th.group.getD 0, none⟩]
      ∧ t.groups = s.groups.map (Claim.stopped false c) ∧ t.mem = s.mem
      ∧ ((∃ f ∈ s.faults, f.ctx = c ∧ Claim.page f.va = Claim.page va) → t.faults = s.faults)
      ∧ ((∀ f ∈ s.faults, f.ctx = c → Claim.page f.va ≠ Claim.page va) → ∃ r, t.faults = s.faults ++ [r] ∧ r.ctx = c ∧ r.va = va
          ∧ r.owner = s.th.owner ∧ r.part = s.th.part ∧ r.core = coreOf s.cur ∧ r.thr = tidOf s.cur ∧ r.posted = false
          ∧ .event (.faultRecordPost (dieOf (coreOf s.cur))) ∈ t.agenda)

/-- R117, R53, R103, R107: eret restores the level, the pc, VSTART and the suspended loops, and puts the stop record back behind what
stands in the queues, its part-way entry capturing EVSTART; a fetch whose older entries have all completed starts its lane threads. With
a fetch of the handler in flight it holds, and at user level it traps PRIV. After the trap of a brk, it leaves the thread as it was. -/
def Sys2Proof.Claim.TrapsReturn : Prop :=
  (∀ s : State, s.lane = none →
    let e := s.th.trap
    (s.th.sup = true → s.th.fetch = none → ∃ u t, exec .eret s = .next t ∧ OnlyThread s.cur s u ∧ Claim.Arrived u t
        ∧ u.th = { s.th with
            sup := e.epc.getLsbD 0, pc := pcField e.epc, loops := e.loops, fetch := u.th.fetch, hold := .none
            v := { s.th.v with vstart := if e.stop.any (·.partWay) then 0 else e.evstart }
            pipe := s.th.pipe ++ e.stop.map fun x => if x.partWay then { x with start := e.evstart, partWay := false } else x
            trap := { e with inTrap := false, stop := [], loops := [], fetch := none } }
        ∧ (e.fetch = none → u.th.fetch = none)
        ∧ ∀ f, e.fetch = some f →
          (f.started = true ∨ u.th.pipe ≠ [] → u.th.fetch = some f) ∧ (f.started = false → u.th.pipe = [] → Claim.Started s.th.v f u.th.fetch))
      ∧ (s.th.sup = true → s.th.fetch ≠ none → Claim.Holds .join .eret s)
      ∧ (s.th.sup = false → s.th.canStop = true → Claim.Traps .eret cPRIV 0 0 s))
    ∧ ∀ (s t : State) (code : BitVec 10), s.lane = none → s.th.haltBrk = false → Claim.MayTrap s →
        (∀ e ∈ s.th.pipe, e.partWay = false) → (∀ f, s.th.fetch = some f → f.started = true ∨ s.th.pipe ≠ []) → exec (.brk code) s = .next t →
        ∃ w u, exec .eret t = .next u ∧ OnlyThread s.cur s w ∧ Claim.Arrived w u
          ∧ w.th = { s.th with hold := .none, pc := pcField s.th.fu.addr, trap := w.th.trap }

/-- R118, R304, R303: uiret leaves a user-level handler, and traps CTLSTATE 3 outside one. USER_INTERRUPT_ENTRY enters it at a boundary of
a running thread at user level that has UIVEC enabled and a cause pending; otherwise nothing happens. -/
def Sys2Proof.Claim.UserHandlersEnterAndReturn : Prop :=
  ∀ s : State,
    (s.th.ui.inn = true → ∃ t, exec .uiret s = .next t ∧ OnlyThread s.cur s t
        ∧ t.th = { s.th with pc := pcField s.th.ui.epc, loops := s.th.ui.loops, hold := .none
                             ui := { s.th.ui with inn := false, loops := [] } })
      ∧ (s.lane = none → s.th.ui.inn = false → Claim.MayTrap s → Claim.Traps .uiret cCTLSTATE 3 0 s)
      ∧ ∀ k : ThreadKey,
        let a := s.thOf k
        let due := a.group ≠ none ∧ a.halted = false ∧ a.hold = .none ∧ a.barHidden = none ∧ a.frontHeld = false ∧ (∀ x ∈ a.asked, x.1 ≠ 0)
          ∧ a.sup = false ∧ a.ui.vec.getLsbD 0 = true ∧ a.ui.pend ≠ 0 ∧ a.ui.inn = false
        (due → ∃ t, exec (.userInterruptEntry k) s = .next t ∧ OnlyThread k s t
          ∧ t.thOf k = { a with
              pc := pcField a.ui.vec, loops := []
              ui := { a.ui with epc := pcField a.pc, taken := a.ui.pend, pend := 0, inn := true, loops := a.loops } })
          ∧ (¬due → exec (.userInterruptEntry k) s = .next s)

/-- The returns of supervisor and user handlers. -/
def Obligations.HandlersReturn : Prop :=
  Claim.TrapsReturn ∧ Claim.UserHandlersEnterAndReturn

/-- A wait has ended: the front stands at the fetch unit after it (R119, R103). -/
def Sys2Proof.Claim.WaitOver (next : W64) (a b : Thread) : Prop :=
  b = { a with pc := b.pc, loops := b.loops, hold := .none, watchHit := b.watchHit } ∧ (b.loops, b.pc) = loopEnd a.loops next

/-- R119: wait ends at once when its watch block has been written or a cause is pending; otherwise the thread stands in the wait until
WAIT_TIMEOUT, or another party's store to the watch block, ends it. -/
def Sys2Proof.Claim.WaitsEnd : Prop :=
  ∀ (s : State) (k : ThreadKey), s.lane = none →
    (s.th.watchHit = true ∨ s.th.ui.pend ≠ 0 → ∃ t, exec .wait s = .next t ∧ OnlyThread s.cur s t ∧ GoesOn s.th t.th
        ∧ t.th = { s.th with pc := t.th.pc, loops := t.th.loops, hold := .none, watchHit := false })
      ∧ (s.th.watchHit = false → s.th.ui.pend = 0 → Claim.Holds (.wait s.th.fu.nextAddr) .wait s)
      ∧ (∃ t, exec (.waitTimeout k) s = .next t ∧ OnlyThread k s t
        ∧ (∀ next, (s.thOf k).hold = .wait next → Claim.WaitOver next (s.thOf k) (t.thOf k) ∧ (t.thOf k).watchHit = (s.thOf k).watchHit)
        ∧ ((∀ next, (s.thOf k).hold ≠ .wait next) → t.thOf k = s.thOf k))
      ∧ ∀ (w : Option ThreadKey) (a : Nat) (bs : List Byte) (b : Nat) (next : W64), (s.thOf k).hold = .wait next →
        (s.thOf k).watch = some b → w ≠ some k → bs ≠ [] → a / 64 ≤ b → b ≤ (a + bs.length - 1) / 64 →
        Claim.WaitOver next (s.thOf k) ((s.storeBytes w a bs).thOf k) ∧ ((s.storeBytes w a bs).thOf k).watchHit = false

/-- R169, R170: a fence is done once the accesses it names are performed, and until then it holds: scalar stores (release and
full fences of the types that name them), vector accesses (an acquire fence names loads alone). An xfence is done likewise by its
FROM set; for the link it waits for the context's pulls and the older accesses that may start one. -/
def Sys2Proof.Claim.FencesWait : Prop :=
  ∀ (s : State) (scope src dst : BitVec 3) (ord ty : BitVec 2), s.lane = none →
    let open_ := fun (e : Entry) => (e.isMem || e.op == .capp) && e.inAcc && !e.accDone
    let scalar := ord = 1 ∨ s.th.pending = []
    let vec := ∀ e ∈ s.th.pipe, open_ e = true → ord = 1 ∧ e.isStore = true
    let done := (ty = 0 ∨ ty = 1 → scalar) ∧ (ty ≠ 1 → vec)
    let from_ := (src = 1 → s.th.pending = [] ∧ ∀ e ∈ s.th.pipe, open_ e = false)
      ∧ (src = 2 → ∀ e ∈ s.th.pipe, e.op = .mldt ∨ e.op = .cbld → e.accDone = true)
      ∧ (src = 4 → (∀ c, c = s.th.ch0 ∨ c = s.th.ch1 → ∀ x ∈ c.xfers, x.isBx = true → c.frz = true ∧ x.first ∉ c.active)
          ∧ ∀ e ∈ s.th.pipe, e.op = .bxld → e.accDone = true)
      ∧ (src = 5 → (∀ h ∈ s.holders, h.ctx = s.th.ctx → h.flight = []) ∧ ∀ e ∈ s.th.pipe, e.inAcc = true → e.accDone = true)
    (done → Claim.Passes (.fence scope ord ty) s) ∧ (¬done → Claim.Holds .none (.fence scope ord ty) s)
      ∧ (from_ → Claim.Passes (.xfence src dst scope) s)
      ∧ (¬from_ → Claim.Holds (if src = 5 then .pull else .none) (.xfence src dst scope) s)

/-- R115, R27, R175, R239: trap 0 of a loaded group's thread with empty queues retires it: the group is gone, its lane groups and claimed
slots are given back, its launch counts it, and the last group's exit completes the launch. In a lane thread it ends that lane
thread; with entries in the queues, or a relocation to come, it holds. -/
def Sys2Proof.Claim.ExitsRetire : Prop :=
  ∀ s : State,
    (∀ id g l, s.lane = none → s.th.fetch = none → s.th.pipe = [] → s.th.reloc = [] → s.th.group = some id → s.grp id = some g →
        g.st = .loaded →
        s.lau g.launch = some l → ∃ t, exec (.trap 0) s = .next t ∧ t.grp id = none ∧ t.th.group = none
          ∧ (∀ c tid, (c, tid) ∈ g.mems → (t.core c).lg.getD tid 0 = 0)
          ∧ (∀ x, ((t.core (coreOf s.cur)).slot x).st ≠ .claimed s.cur)
          ∧ t.lau g.launch = some { l with retired := l.retired + 1 }
          ∧ (l.retired + 1 = l.n → .event (.launchComplete g.launch) ∈ t.agenda)
          ∧ .event (.placeGroup g.part) ∈ t.agenda)
      ∧ (s.lane = none → s.th.fetch = none → s.th.pipe ≠ [] ∨ s.th.reloc ≠ [] → Claim.Holds .none (.trap 0) s)
      ∧ (s.lane = none → s.th.fetch ≠ none → Claim.Holds .join (.trap 0) s)
      ∧ ∀ vp f, s.lane = some vp → s.th.fetch = some f → laneOf f vp ≠ none → ∃ t, exec (.trap 0) s = .next t ∧ OnlyThread s.cur s t
          ∧ t.th = { s.th with fetch := t.th.fetch }
          ∧ ∀ w, t.th.fetch.bind (laneOf · w) = if w = vp then none else laneOf f w

/-- Wait, the fences and the exit of a thread. -/
def Obligations.WaitsFencesAndExits : Prop :=
  Claim.WaitsEnd ∧ Claim.FencesWait ∧ Claim.ExitsRetire

/-! ## Routing -/

namespace Sys2Proof.Claim

/-- What routing needs to know of each instruction that goes to the queues (R29). -/
def routing (s : State) : Instr → Option Routing
  | .vadd w => some (binRouting .add w s.th)
  | .vsub w => some (binRouting .sub w s.th)
  | .vmul w => some (binRouting .mul w s.th)
  | .vmulh w => some (binRouting .mulh w s.th)
  | .vdiv w => some (binRouting .div w s.th)
  | .vrem w => some (binRouting .rem w s.th)
  | .vmin w => some (binRouting .min w s.th)
  | .vmax w => some (binRouting .max w s.th)
  | .vand w => some (binRouting .and w s.th)
  | .vor w => some (binRouting .or w s.th)
  | .vxor w => some (binRouting .xor w s.th)
  | .vsll w => some (binRouting .sll w s.th)
  | .vsrl w => some (binRouting .srl w s.th)
  | .vsra w => some (binRouting .sra w s.th)
  | .vsadd w => some (binRouting .sadd w s.th)
  | .vssub w => some (binRouting .ssub w s.th)
  | .vfma w => some (fmaRouting false false w s.th)
  | .vfms w => some (fmaRouting false true w s.th)
  | .vfnma w => some (fmaRouting true true w s.th)
  | .vfnms w => some (fmaRouting true false w s.th)
  | .vsqrt w => some (unRouting .sqrt w s.th)
  | .vrcpe w => some (unRouting .rcpe w s.th)
  | .vrsqe w => some (unRouting .rsqe w s.th)
  | .vexp2 w => some (unRouting .exp2 w s.th)
  | .vlog2 w => some (unRouting .log2 w s.th)
  | .vabs w => some (unRouting .abs w s.th)
  | .vneg w => some (unRouting .neg w s.th)
  | .vnot w => some (unRouting .not w s.th)
  | .vclz w => some (unRouting .clz w s.th)
  | .vpopc w => some (unRouting .popc w s.th)
  | .vceq w => some (cmpRouting .eq w s.th)
  | .vcne w => some (cmpRouting .ne w s.th)
  | .vclt w => some (cmpRouting .lt w s.th)
  | .vcle w => some (cmpRouting .le w s.th)
  | .vcgt w => some (cmpRouting .gt w s.th)
  | .vcge w => some (cmpRouting .ge w s.th)
  | .vcun w => some (cmpRouting .un w s.th)
  | .mand d a b => some (mlogRouting .and d a b s.th)
  | .mor d a b => some (mlogRouting .or d a b s.th)
  | .mxor d a b => some (mlogRouting .xor d a b s.th)
  | .mandn d a b => some (mlogRouting .andn d a b s.th)
  | .mnot d a => some (mlogRouting .not d a 0 s.th)
  | .msbf d a => some (mlogRouting .sbf d a 0 s.th)
  | .msif d a => some (mlogRouting .sif d a 0 s.th)
  | .vperm w => some (permRouting w s.th)
  | .vslideup w => some (slideRouting .slideup w s.th)
  | .vslidedn w => some (slideRouting .slidedn w s.th)
  | .vcompress w => some (packRouting .compress w s.th)
  | .vexpand w => some (packRouting .expand w s.th)
  | .viota d k => some (iotaRouting d k s.th)
  | .vmerge w => some (mergeRouting w s.th)
  | .vins d a b => some (insRouting d a b s.th)
  | .vext d a b => some (extRouting d a b s.th)
  | .xch w => some (slideRouting .xch w s.th)
  | .mpop d a => some (mscalRouting .mpop d a s.th)
  | .mff1 d a => some (mscalRouting .mff1 d a s.th)
  | .vraddT w => some (redRouting .add true w s.th)
  | .vraddO w => some (redRouting .add false w s.th)
  | .vrminT w => some (redRouting .min true w s.th)
  | .vrminO w => some (redRouting .min false w s.th)
  | .vrmaxT w => some (redRouting .max true w s.th)
  | .vrmaxO w => some (redRouting .max false w s.th)
  | .vrand w => some (redRouting .and true w s.th)
  | .vror w => some (redRouting .or true w s.th)
  | .vrxor w => some (redRouting .xor true w s.th)
  | .vcvt w g => some (cvtRouting w g s.th)
  | .vld w => some (loadRouting false false w.vd w.sa ⟨.unit, 0⟩ w.k w.p s.th)
  | .vldS w => some (loadRouting false false w.vd w.sa ⟨.strided, w.sb⟩ w.k w.p s.th)
  | .vldX w => some (loadRouting false false w.vd w.sa ⟨.indexed, w.vb⟩ w.k w.p s.th)
  | .vldFf w => some (loadRouting true false w.vd w.sa ⟨.unit, 0⟩ w.k w.p s.th)
  | .vldO w => some (loadRouting false true w.vd w.sa ⟨.unit, 0⟩ w.k w.p s.th)
  | .vldSo w => some (loadRouting false true w.vd w.sa ⟨.strided, w.sb⟩ w.k w.p s.th)
  | .vldXo w => some (loadRouting false true w.vd w.sa ⟨.indexed, w.vb⟩ w.k w.p s.th)
  | .vst w => some (storeRouting false w.vd w.sa ⟨.unit, 0⟩ w.k w.p s.th)
  | .vstS w => some (storeRouting false w.vd w.sa ⟨.strided, w.sb⟩ w.k w.p s.th)
  | .vstX w => some (storeRouting false w.vd w.sa ⟨.indexed, w.vb⟩ w.k w.p s.th)
  | .vstO w => some (storeRouting true w.vd w.sa ⟨.unit, 0⟩ w.k w.p s.th)
  | .vstSo w => some (storeRouting true w.vd w.sa ⟨.strided, w.sb⟩ w.k w.p s.th)
  | .vstXo w => some (storeRouting true w.vd w.sa ⟨.indexed, w.vb⟩ w.k w.p s.th)
  | .vamoAdd w => some (atomRouting (.vamo .add) .add w s.th)
  | .vamoMin w => some (atomRouting (.vamo .min) .min w s.th)
  | .vamoMax w => some (atomRouting (.vamo .max) .max w s.th)
  | .vamoAnd w => some (atomRouting (.vamo .and) .and w s.th)
  | .vamoOr w => some (atomRouting (.vamo .or) .or w s.th)
  | .vamoXor w => some (atomRouting (.vamo .xor) .xor w s.th)
  | .vamoSwap w => some (atomRouting (.vamo .swap) .swap w s.th)
  | .vscadd w => some (atomRouting .scadd .add w s.th)
  | .bxld d a b p => some (bxldRouting d a b p s.th)
  | .capp a k p => some (cappRouting a k p s.th)
  | .mma d x y k => some (mmaRouting d x y k s)
  | .mmax d x a b k => some (mmaxRouting d x a b k s)
  | .mmab d x y l k => some (mmabRouting d x y l k s)
  | .mldt a x => some (mldtRouting a x s)
  | .cbld a b => some (cbldRouting a b s)
  | .xcfg a c => some (xcfgRouting a c s.th)
  | .dsend d a => some (linkRouting .dsend d a 0 s.th)
  | .dpull a b => some (linkRouting .dpull 0 a b s.th)
  | .ddrop a => some (linkRouting .ddrop 0 a 0 s.th)
  | .dresend d a b => some (linkRouting .dresend d a b s.th)
  | _ => none

/-- A queue the entry needs holds 32 entries (R29). -/
def Full (s : State) (e : Entry) : Prop :=
  (e.inAcc = true ∧ 32 ≤ (s.th.pipe.filter fun x => x.inAcc && !x.accDone).length)
    ∨ (e.inExe = true ∧ 32 ≤ (s.th.pipe.filter (·.inExe)).length)

/-- The queue whose count the instruction would take below 0 or above 4: the pops in operand order, then the push (R32). -/
def Unbalanced (s : State) (r : Routing) (n : Nat) : Prop :=
  r.pops.find? (fun q => (s.th.v.counts.get [] q).length == 0) = some n
    ∨ (r.pops.find? (fun q => (s.th.v.counts.get [] q).length == 0) = none ∧ r.push = some n ∧ 4 ≤ (s.th.v.counts.get [] n).length)

/-- The instructions of the copy engine and the links, which touch no vector state (R29, R53). -/
def noVector : VOp → Prop
  | .xcfg | .dsend | .dpull | .ddrop | .dresend => True
  | _ => False

/-- The thread of an instruction that has been routed (R29, R32, R53): the entry stands last in its queues, the counts have moved, and
VSTART is 0, unless the instruction touches no vector state; an instruction disabled by its stage moves the counts alone (R104). -/
def Routed (r : Routing) (s u : State) : Prop :=
  OnlyThread s.cur s u ∧ GoesOn s.th u.th
    ∧ u.th = { s.th with pc := u.th.pc, loops := u.th.loops, hold := .none, pipe := s.th.pipe ++ [r.ent], v := u.th.v }
    ∧ u.th.v = { s.th.v with
        counts := u.th.v.counts
        tags := if s.th.off then s.th.v.tags else u.th.v.tags
        vstart := u.th.v.vstart }
    ∧ (s.th.off = true ∨ noVector r.ent.op → u.th.v.vstart = s.th.v.vstart)
    ∧ (s.th.off = false → ¬noVector r.ent.op → u.th.v.vstart = 0)
    ∧ (∀ n, u.th.v.counts.get [] n =
        (if n ∈ r.pops then (s.th.v.counts.get [] n).drop 1 else s.th.v.counts.get [] n) ++ if r.push = some n then [r.pushTag] else [])
    ∧ (s.th.off = false → ∀ n, tagOf u.th.v n = match r.setTag with
        | some (d, g) => if n = d then g else tagOf s.th.v n
        | none => tagOf s.th.v n)

end Sys2Proof.Claim

/-- R29, R30, R32, R50, R53, R91: an instruction of the queues traps on check 7 (ILLREG: field and value), then on its queue counts (QBAL),
then on its operands (ILLTYPE or PALSTATE); it holds while a fetch is in flight (R109) or its queue is full; otherwise it enters its
queues with VL, G, the tags, MTR, the roundings, MDEST and VSTART as they stand. Where the queues drain within the step, its
execution follows at once. -/
def Obligations.RoutedInstructionsEnterTheQueues : Prop :=
  ∀ (i : Instr) (s : State) (r : Routing), Claim.routing s i = some r → s.lane = none →
    let balanced := ∀ n, ¬Claim.Unbalanced s r n
    let passes := r.bad = none ∧ balanced ∧ r.typ = none
    (∀ f x, r.bad = some (f, x) → Claim.MayTrap s → Claim.Traps i cILLREG (f * 2 ^ 8 + x % 2 ^ 8) 0 s)
      ∧ (∀ n, r.bad = none → Claim.Unbalanced s r n → Claim.MayTrap s → Claim.Traps i cQBAL n 0 s)
      ∧ (∀ c d, r.bad = none → balanced → r.typ = some (c, d) → Claim.MayTrap s → Claim.Traps i c d 0 s)
      ∧ (passes → s.th.fetch ≠ none → Claim.Holds .join i s)
      ∧ (passes → s.th.fetch = none → Claim.Full s r.ent → Claim.Holds .none i s)
      ∧ (passes → s.th.fetch = none → ¬Claim.Full s r.ent → ∃ u, Claim.Routed r s u
          ∧ exec i s = .next (if s.lockstep then (u.drain s.cur).1 else u.gateArrivals s.cur))
      ∧ (r.ent.fu = s.th.fu ∧ r.ent.vl = s.th.v.vl ∧ r.ent.gc = s.th.v.gc ∧ r.ent.cb = s.th.v.cb ∧ r.ent.mtr = s.th.v.mtr
          ∧ r.ent.rm = rmOfCode (s.th.v.fstat.toNat % 4) ∧ r.ent.arm = rmOfCode (s.th.v.fstat.toNat / 4 % 4)
          ∧ r.ent.ftz = s.th.v.fstat.getLsbD 4 ∧ r.ent.daz = s.th.v.fstat.getLsbD 5 ∧ r.ent.mdest = s.th.v.mdest
          ∧ r.ent.dist = s.th.v.members ∧ r.ent.user = !s.th.sup ∧ r.ent.dropped = s.th.off
          ∧ (r.ent.start = (if s.th.off then 0 else s.th.v.vstart) ∨ r.ent.op = .mldt ∨ r.ent.op = .cbld
            ∨ Claim.noVector r.ent.op))

/-! ## What the queues' instructions do, on one core with an idle queue -/

namespace Sys2Proof.Claim

/-- The instruction runs to its end within the step: it passes routing, nothing stands before it, its group is one core, its mask's
all-false flag is clear, no lq or sq is named, no class traps, and no sample is taken. -/
structure AtOnce (i : Instr) (s : State) (r : Routing) (m : Member) : Prop where
  routing : routing s i = some r
  front : s.lane = none
  lockstep : s.lockstep = true
  empty : s.th.pipe = []
  idle : s.th.fetch = none
  enabled : s.th.off = false
  passes : s.th.routeFault r = none
  queues : r.pops = [] ∧ r.push = none
  core : s.th.v.members = [m]
  member : m.attached = true ∧ m.lost = false ∧ m.nw ≤ 64
  home : 4 * m.core + m.tid = s.cur
  mask : isDropped s.th.v r.ent = false
  traps : trapEnables s.th.v = 0
  samples : s.th.sampctl.getLsbD 0 = false

/-- Element `j` of vn under its tag. -/
def elem (s : State) (n : VReg) (j : Nat) : Nat := readElem s.th.v s.th.v.members n.toNat (tagOf s.th.v n.toNat).bits j

/-- Element `j` of va's second operand: of vb, or the scalar it names under the tag of va (R128). -/
def operandB (s : State) (w : VBin) (j : Nat) : Nat :=
  if w.c then (getScalar s.th none (w.vb.toNat % 32)).toNat % 2 ^ (tagOf s.th.v w.va.toNat).bits else elem s w.vb j

/-- The exact value of an integer operation on n-bit patterns, before it is taken modulo 2^n (R133, R61). -/
def exactInt (o : BinK) (sg : Bool) (n a b : Nat) : Int :=
  let x := readInt sg n a
  let y := readInt sg n b
  let u : Nat := a % 2 ^ n
  let w : Nat := b % 2 ^ n
  let lo : Int := if sg then -2 ^ (n - 1) else 0
  let hi : Int := if sg then 2 ^ (n - 1) - 1 else 2 ^ n - 1
  match o with
  | .add => x + y
  | .sub => x - y
  | .mul => x * y
  | .mulh => x * y / 2 ^ n
  | .div => if y = 0 then -1 else x.tdiv y
  | .rem => if y = 0 then x else x.tmod y
  | .min => min x y
  | .max => max x y
  | .and => (u &&& w : Nat)
  | .or => (u ||| w : Nat)
  | .xor => (u ^^^ w : Nat)
  | .sll => (u * 2 ^ (w % n) : Nat)
  | .srl => (u / 2 ^ (w % n) : Nat)
  | .sra => readInt true n a / 2 ^ (w % n)
  | .sadd => max lo (min hi (x + y))
  | .ssub => max lo (min hi (x - y))

/-- An integer modulo 2^n. -/
def modulo (n : Nat) (x : Int) : Nat := (x % 2 ^ n).toNat

/-- One element of major 0x28: R133 for integer tags, R134 for float tags under the roundings of FSTAT. -/
def binary (s : State) (o : BinK) (t : ETag) (a b : Nat) : Nat :=
  let f := s.th.v.fstat
  if t.isInt then modulo t.bits (exactInt o t.isI t.bits a b)
  else (fpBin o t (rmOfCode (f.toNat % 4)) (f.getLsbD 4) (f.getLsbD 5) a b).1

/-- One element of the fused forms (R133, R135): −1 or 1 times the product, plus −1 or 1 times d. -/
def fused (s : State) (np nd : Bool) (t : ETag) (a b d : Nat) : Nat :=
  let f := s.th.v.fstat
  let r := readInt t.isI t.bits
  if t.isInt then modulo t.bits ((if np then -(r a * r b) else r a * r b) + if nd then -r d else r d)
  else (fFma np nd t (rmOfCode (f.toNat % 4)) (f.getLsbD 4) (f.getLsbD 5) a b d).1

/-- One element of the unary forms (R133, R134, R136, R137). -/
def unary (s : State) (o : UnK) (t : ETag) (a : Nat) : Nat :=
  let f := s.th.v.fstat
  let rm := rmOfCode (f.toNat % 4)
  let ftz := f.getLsbD 4
  let daz := f.getLsbD 5
  let x := readInt t.isI t.bits a
  let ones := (List.range t.bits).filter fun i => a / 2 ^ i % 2 == 1
  if t.isInt then
    match o with
    | .abs => modulo t.bits x.natAbs
    | .neg => modulo t.bits (-x)
    | .not => modulo t.bits (-x - 1)
    | .clz => t.bits - ((ones.getLast?.map (· + 1)).getD 0)
    | .popc => ones.length
    | _ => 0
  else
    match o with
    | .sqrt => (fSqrt t rm ftz daz a).1
    | .rcpe => (fRcpe t ftz daz a).1
    | .rsqe => (fRsqe t ftz daz a).1
    | .exp2 => (fExp2 t rm ftz daz a).1
    | .log2 => (fLog2 t rm ftz daz a).1
    | .abs => (fAbs t daz a).1
    | .neg => (fNeg t daz a).1
    | _ => 0

/-- A vector result: destination, element width, which elements below VL are written, and with what. -/
structure Written where
  d   : VReg
  w   : Nat
  act : Nat → Bool
  x   : Nat → Nat

/-- The active elements of a mask. -/
def active (s : State) (k : MReg) (j : Nat) : Bool := maskBit s.th.v s.th.v.members k.toNat j

/-- The active elements below `n`, in order. -/
def ranks (s : State) (k : MReg) (n : Nat) : List Nat := (List.range n).filter (active s k)

/-- A result of every active element under the destination's tag. -/
def each (s : State) (d : VReg) (k : MReg) (x : Nat → Nat) : Option Written := some ⟨d, (tagOf s.th.v d.toNat).bits, active s k, x⟩

/-- Arithmetic (R133–R137): the result of each instruction, from the registers as they stand. -/
def arithmetic (s : State) (i : Instr) : Option Written :=
  let bin (o : BinK) (w : VBin) := each s w.vd w.k fun j => binary s o (tagOf s.th.v w.va.toNat) (elem s w.va j) (operandB s w j)
  let fma (np nd : Bool) (w : VBin) :=
    each s w.vd w.k fun j => fused s np nd (tagOf s.th.v w.va.toNat) (elem s w.va j) (operandB s w j) (elem s w.vd j)
  let un (o : UnK) (w : VUn) := each s w.vd w.k fun j => unary s o (tagOf s.th.v w.va.toNat) (elem s w.va j)
  match i with
  | .vadd w => bin .add w
  | .vsub w => bin .sub w
  | .vmul w => bin .mul w
  | .vmulh w => bin .mulh w
  | .vdiv w => bin .div w
  | .vrem w => bin .rem w
  | .vmin w => bin .min w
  | .vmax w => bin .max w
  | .vand w => bin .and w
  | .vor w => bin .or w
  | .vxor w => bin .xor w
  | .vsll w => bin .sll w
  | .vsrl w => bin .srl w
  | .vsra w => bin .sra w
  | .vsadd w => bin .sadd w
  | .vssub w => bin .ssub w
  | .vfma w => fma false false w
  | .vfms w => fma false true w
  | .vfnma w => fma true true w
  | .vfnms w => fma true false w
  | .vsqrt w => un .sqrt w
  | .vrcpe w => un .rcpe w
  | .vrsqe w => un .rsqe w
  | .vexp2 w => un .exp2 w
  | .vlog2 w => un .log2 w
  | .vabs w => un .abs w
  | .vneg w => un .neg w
  | .vnot w => un .not w
  | .vclz w => un .clz w
  | .vpopc w => un .popc w
  | _ => none

/-- Permutes and the conversion (R142–R147, R149, R68) on one core: its block is the whole vector. -/
def permuted (s : State) (i : Instr) : Option Written :=
  let vl := s.th.v.vl
  let scalar (v : VReg) := (getScalar s.th none (v.toNat % 32)).toNat
  let bitsOf (v : VReg) := (tagOf s.th.v v.toNat).bits
  match i with
  | .vperm w => each s w.vd w.k fun j =>
      let t := tagOf s.th.v w.vb.toNat
      let x : Int := if w.c then scalar w.vb else readInt t.isI t.bits (elem s w.vb j)
      if 0 ≤ x ∧ x < vl then elem s w.va x.toNat else 0
  | .vslideup w => some ⟨w.vd, bitsOf w.vd, fun j => active s w.k j && decide (scalar w.sb ≤ j), fun j => elem s w.va (j - scalar w.sb)⟩
  | .vslidedn w => each s w.vd w.k fun j => if j + scalar w.sb < vl then elem s w.va (j + scalar w.sb) else 0
  | .vcompress w => some ⟨w.vd, bitsOf w.vd, fun j => decide (j < (ranks s w.k vl).length), fun j => elem s w.va ((ranks s w.k vl).getD j 0)⟩
  | .vexpand w => each s w.vd w.k fun j => elem s w.va (ranks s w.k j).length
  | .viota d k => some ⟨d, bitsOf d, fun _ => true, fun j => (ranks s k j).length⟩
  | .vmerge w => some ⟨w.vd, bitsOf w.vd, fun _ => true, fun j => if active s w.k j then elem s w.va j else operandB s w j⟩
  | .vins d a b => some ⟨d, bitsOf d, fun j => decide (j = scalar b), fun _ => scalar a⟩
  | .xch w => each s w.vd w.k fun j => elem s w.va j
  | .vcvt w g =>
      let src := tagOf s.th.v w.va.toNat
      let f := s.th.v.fstat
      match tagOfCode g.toNat with
      | some dst =>
        if src.isScaled ∨ src = .k4 then none
        else some ⟨w.vd, dst.bits, active s w.k, fun j =>
          (cvtElem src dst (rmOfCode (f.toNat % 4)) (f.getLsbD 4) (f.getLsbD 5) (elem s w.va j)).1⟩
      | none => none
  | _ => none

/-- What an instruction of the queues leaves of everything but vector state: the front goes on, the gate and the sequencer have
charged the thread, the arbiters have been asked, and the dispatcher where a slot became free. -/
def Passed (s t : State) : Prop :=
  t = { s with threads := t.threads, cores := t.cores, parts := t.parts, arbs := t.arbs, budgets := t.budgets
               nearLines := t.nearLines, mem := t.mem, agenda := t.agenda }
    ∧ (t.agenda = s.agenda ∨ t.agenda = s.agenda ++ [.event (.placeGroup s.th.part)])
    ∧ GoesOn s.th t.th
    ∧ t.th = { s.th with pc := t.th.pc, loops := t.th.loops, hold := .none, v := t.th.v, sregs := t.th.sregs, shadow := t.th.shadow
                         seqVt := t.th.seqVt, seqRem := t.th.seqRem, seqAge := t.th.seqAge, stall := t.th.stall }
    ∧ ∀ j, j ≠ s.cur → ∃ vt w, t.thOf j = { s.thOf j with seqVt := vt, watchHit := w }
        ∨ t.thOf j = { (s.thOf j).endWait with seqVt := vt, watchHit := w }

/-- The scalars read as before. -/
def ScalarsKept (s t : State) : Prop := t.th.sregs = s.th.sregs ∧ t.th.shadow = s.th.shadow

/-- R46: elements of the destination from `lo` to VL − 1 that are active are written, every other element of the group as it was, and no
other register, mask or scalar changes; VSTART is 0 (R53). -/
def RegisterWritten (r : Written) (lo : Nat) (m : Member) (s t : State) : Prop :=
  let v := s.th.v
  let u := t.th.v
  Passed s t ∧ ScalarsKept s t
    ∧ (∀ j, (j + 1) * r.w ≤ memberBits v.gc m → readElem u u.members r.d.toNat r.w j =
        if lo ≤ j ∧ j < v.vl ∧ r.act j then r.x j % 2 ^ r.w else readElem v v.members r.d.toNat r.w j)
    ∧ (∀ n, n < 32 → n < r.d.toNat ∨ r.d.toNat + 2 ^ v.gc ≤ n → u.vregs.get 0 n = v.vregs.get 0 n)
    ∧ u = { v with vregs := u.vregs, tags := u.tags, fstat := u.fstat, eix := u.eix, dirty := u.dirty, vstart := 0 }

/-- The same, and no byte of memory changes. -/
def VectorWrites (r : Written) (lo : Nat) (m : Member) (s t : State) : Prop := RegisterWritten r lo m s t ∧ t.mem = s.mem

/-- R47: bits below VL of a mask are written, zeros at and above it; at VL 0 nothing changes. Nothing else does. -/
def MaskWrites (d : VReg) (b : Nat → Bool) (s t : State) : Prop :=
  let v := s.th.v
  let u := t.th.v
  Passed s t ∧ ScalarsKept s t ∧ t.mem = s.mem
    ∧ (∀ k j, k < 8 → maskBit u u.members k j = if k = d.toNat ∧ v.vl ≠ 0 then decide (j < v.vl) && b j else maskBit v v.members k j)
    ∧ u = { v with masks := u.masks, fstat := u.fstat, eix := u.eix, vstart := 0 }

/-- A scalar destination (R30): that scalar, and no vector state but FSTAT and EIX. -/
def ScalarResult (d : VReg) (x : W64) (s t : State) : Prop :=
  let u := t.th.v
  Passed s t ∧ t.mem = s.mem ∧ ScalarsWith (BitVec.ofNat 5 d.toNat) x s t
    ∧ u = { s.th.v with fstat := u.fstat, eix := u.eix, vstart := 0 }

/-- A compare of R138: on integer tags the relation of the values read; on float tags R63's comparison. -/
def compared (s : State) (r : Rel) (t : ETag) (a b : Nat) : Bool :=
  let x := readInt t.isI t.bits a
  let y := readInt t.isI t.bits b
  if t.isInt then
    match r with
    | .eq => decide (x = y)
    | .ne => decide (x ≠ y)
    | .lt => decide (x < y)
    | .le => decide (x ≤ y)
    | .gt => decide (y < x)
    | .ge => decide (y ≤ x)
    | .un => false
  else (fCmp r t (s.th.v.fstat.getLsbD 5) a b).1

/-- The mask results of R138 and R139: the mask and its bits below VL; a compare keeps its inactive bits. -/
def maskResult (s : State) (i : Instr) : Option (VReg × (Nat → Bool)) :=
  let v := s.th.v
  let m (a : VReg) (j : Nat) := maskBit v v.members a.toNat j
  let before (a : VReg) (j : Nat) := (List.range j).any (m a)
  let cmp (r : Rel) (w : VBin) := some (w.vd, fun j =>
    if active s w.k j then compared s r (tagOf v w.va.toNat) (elem s w.va j) (operandB s w j) else m w.vd j)
  match i with
  | .vceq w => cmp .eq w
  | .vcne w => cmp .ne w
  | .vclt w => cmp .lt w
  | .vcle w => cmp .le w
  | .vcgt w => cmp .gt w
  | .vcge w => cmp .ge w
  | .vcun w => cmp .un w
  | .mand d a b => some (d, fun j => m a j && m b j)
  | .mor d a b => some (d, fun j => m a j || m b j)
  | .mxor d a b => some (d, fun j => m a j != m b j)
  | .mandn d a b => some (d, fun j => m a j && !m b j)
  | .mnot d a => some (d, fun j => !m a j)
  | .msbf d a => some (d, fun j => !before a (j + 1))
  | .msif d a => some (d, fun j => !before a j)
  | _ => none

/-- The tree of R69 over 2^n leaves from `lo`. -/
def tree (f : Nat → Nat → Nat) (leaf : Nat → Nat) : Nat → Nat → Nat
  | 0, lo => leaf lo
  | n + 1, lo => f (tree f leaf n lo) (tree f leaf n (lo + 2 ^ n))

/-- A tag's value in a scalar: sign-extended for I tags (R146, R148). -/
def toScalar (t : ETag) (x : Nat) : W64 := if t.isI then BitVec.ofInt 64 (readInt true t.bits x) else BitVec.ofNat 64 (x % 2 ^ t.bits)

/-- The scalar results of R140, R146 and R148. -/
def scalarResult (s : State) (i : Instr) : Option (VReg × W64) :=
  let v := s.th.v
  let vl := v.vl
  let m (a : VReg) (j : Nat) := maskBit v v.members a.toNat j
  let red (o : BinK) (treewise : Bool) (ident : ETag → Nat) (w : VSc) :=
    let t := tagOf v w.va.toNat
    let f := binary s o t
    let seed := (getScalar s.th none (w.sb.toNat % 32)).toNat % 2 ^ t.bits
    let leaf (j : Nat) := if j < vl ∧ active s w.k j then elem s w.va j else ident t
    some (w.vd, toScalar t (if vl = 0 then seed
      else if treewise then f seed (tree f leaf (log2Up vl) 0)
      else (ranks s w.k vl).foldl (fun a j => f a (elem s w.va j)) seed))
  match i with
  | .mpop d a => some (d, BitVec.ofNat 64 ((List.range vl).filter (m a)).length)
  | .mff1 d a => some (d, match (List.range vl).find? (m a) with
      | some j => BitVec.ofNat 64 j
      | none => BitVec.allOnes 64)
  | .vext d a b =>
      let x := (getScalar s.th none (b.toNat % 32)).toNat
      some (d, if x < vl then toScalar (tagOf v a.toNat) (elem s a x) else 0)
  | .vraddT w => red .add true (redIdent .add) w
  | .vraddO w => red .add false (redIdent .add) w
  | .vrminT w => red .min true (redIdent .min) w
  | .vrminO w => red .min false (redIdent .min) w
  | .vrmaxT w => red .max true (redIdent .max) w
  | .vrmaxO w => red .max false (redIdent .max) w
  | .vrand w => red .and true (redIdent .and) w
  | .vror w => red .or true (redIdent .or) w
  | .vrxor w => red .xor true (redIdent .xor) w
  | _ => none

/-- The class that an integer operation raises, in FLAGS order: 1 divide-by-zero, 5 integer overflow, 6 saturation (R61, R133). -/
def raises (o : BinK) (sg : Bool) (n a b c : Nat) : Prop :=
  let x := readInt sg n a
  let y := readInt sg n b
  let out (z : Int) := z < (if sg then -2 ^ (n - 1) else 0) ∨ (if sg then 2 ^ (n - 1) - 1 else 2 ^ n - 1) < z
  match o with
  | .add => c = 5 ∧ out (x + y)
  | .sub => c = 5 ∧ out (x - y)
  | .mul => c = 5 ∧ out (x * y)
  | .div | .rem => (c = 1 ∧ y = 0) ∨ (c = 5 ∧ y ≠ 0 ∧ out (x.tdiv y))
  | .sadd => c = 6 ∧ out (x + y)
  | .ssub => c = 6 ∧ out (x - y)
  | _ => False

/-- The two-source integer instructions. -/
def integer : Instr → Option (BinK × VBin)
  | .vadd w => some (.add, w)
  | .vsub w => some (.sub, w)
  | .vmul w => some (.mul, w)
  | .vmulh w => some (.mulh, w)
  | .vdiv w => some (.div, w)
  | .vrem w => some (.rem, w)
  | .vmin w => some (.min, w)
  | .vmax w => some (.max, w)
  | .vand w => some (.and, w)
  | .vor w => some (.or, w)
  | .vxor w => some (.xor, w)
  | .vsll w => some (.sll, w)
  | .vsrl w => some (.srl, w)
  | .vsra w => some (.sra, w)
  | .vsadd w => some (.sadd, w)
  | .vssub w => some (.ssub, w)
  | _ => none

end Sys2Proof.Claim

/-- R133–R137, R128, R129, R46: vector arithmetic writes each active element below VL with its result, sources read first, and leaves
every other element. The float results are those of the model's arithmetic of R62–R67 (fAdd, fMul, fFma, …). -/
def Obligations.VectorArithmeticWrites : Prop :=
  ∀ (i : Instr) (s : State) (r : Routing) (m : Member) (w : Claim.Written), Claim.AtOnce i s r m → Claim.arithmetic s i = some w →
    ∃ t, exec i s = .next t ∧ Claim.VectorWrites w 0 m s t ∧ t.th.v.tags = s.th.v.tags

/-- R142–R147, R149, R46: so do the permutes and conversions between unscaled tags; vcvt also gives its destination the tag it names. -/
def Obligations.VectorPermutesWrite : Prop :=
  ∀ (i : Instr) (s : State) (r : Routing) (m : Member) (w : Claim.Written), Claim.AtOnce i s r m → Claim.permuted s i = some w →
    ∃ t, exec i s = .next t ∧ Claim.VectorWrites w 0 m s t
      ∧ ∀ n, tagOf t.th.v n = match i with
        | .vcvt c g => if n = c.vd.toNat then (tagOfCode g.toNat).getD .n64 else tagOf s.th.v n
        | _ => tagOf s.th.v n

/-- R138, R139, R47: compares and mask logic write their mask below VL, zeros above, and nothing else. -/
def Sys2Proof.Claim.MaskInstructionsWrite : Prop :=
  ∀ (i : Instr) (s : State) (r : Routing) (m : Member) (d : VReg) (b : Nat → Bool), Claim.AtOnce i s r m →
    Claim.maskResult s i = some (d, b) → ∃ t, exec i s = .next t ∧ Claim.MaskWrites d b s t

/-- R140, R146, R148, R69: mpop, mff1, vext and the reductions write their scalar, and nothing else. -/
def Sys2Proof.Claim.ScalarResultsWritten : Prop :=
  ∀ (i : Instr) (s : State) (r : Routing) (m : Member) (d : VReg) (x : W64), Claim.AtOnce i s r m →
    Claim.scalarResult s i = some (d, x) → ∃ t, exec i s = .next t ∧ Claim.ScalarResult d x s t

/-- Instructions whose results are masks or scalars. -/
def Obligations.MaskAndScalarResultsWritten : Prop :=
  Claim.MaskInstructionsWrite ∧ Claim.ScalarResultsWritten

/-- R56, R57, R61: an instruction of major 0x28 on integer tags ORs the classes its active elements raise into FLAGS, leaves the rest of
FSTAT, and records the lowest index of each class in EIX. -/
def Sys2Proof.Claim.ClassesMerge : Prop :=
  ∀ (i : Instr) (s : State) (r : Routing) (m : Member) (o : BinK) (w : VBin), Claim.AtOnce i s r m → Claim.integer i = some (o, w) →
    let v := s.th.v
    let g := tagOf v w.va.toNat
    g.isInt = true → v.vl ≤ 65536 → ∃ t, exec i s = .next t ∧
      let raised (c j : Nat) := j < v.vl ∧ Claim.active s w.k j = true ∧ Claim.raises o g.isI g.bits (Claim.elem s w.va j) (Claim.operandB s w j) c
      (∀ c, c < 7 → (t.th.v.fstat.getLsbD (8 + c) = true ↔ v.fstat.getLsbD (8 + c) = true ∨ ∃ j, raised c j))
        ∧ (∀ b, b < 8 ∨ 15 ≤ b → t.th.v.fstat.getLsbD b = v.fstat.getLsbD b)
        ∧ (∀ c, c < 7 → (¬∃ j, raised c j) → t.th.v.eix.get 0 c = v.eix.get 0 c)
        ∧ ∀ c j, c < 7 → raised c j → (∀ l, l < j → ¬raised c l) → t.th.v.eix.get 0 c =
          if (v.eix.get 0 c).getLsbD 63 then BitVec.ofNat 64 (2 ^ 63 + min ((v.eix.get 0 c).toNat % 2 ^ 32) j)
          else BitVec.ofNat 64 (2 ^ 63 + j)

/-- R34, R154: an instruction whose mask's all-false flag is set is dropped: no register, mask, class or byte of memory changes, no
element is translated and the gate charges nothing. It still retires, and VSTART is 0. (Reductions still write their seed.) -/
def Sys2Proof.Claim.MaskedOffInstructionsDrop : Prop :=
  ∀ (i : Instr) (s : State) (r : Routing) (m : Member), Claim.routing s i = some r → s.lane = none → s.lockstep = true →
    s.th.pipe = [] → s.th.fetch = none → s.th.off = false → s.th.routeFault r = none → r.pops = [] ∧ r.push = none →
    s.th.v.members = [m] → m.lost = false → allFalse s.th.v r.ent.k = true → r.ent.readsK = false → r.setTag = none →
    ∃ t, exec i s = .next t ∧ GoesOn s.th t.th ∧ t = { s with threads := t.threads, cores := t.cores }
      ∧ (∀ c, (t.core c).bucket = (s.core c).bucket ∧ (t.core c).charge = (s.core c).charge ∧ (t.core c).lg = (s.core c).lg)
      ∧ (∀ j, j ≠ s.cur → t.thOf j = s.thOf j)
      ∧ t.th = { s.th with pc := t.th.pc, loops := t.th.loops, hold := .none, sregs := t.th.sregs, shadow := t.th.shadow, v := t.th.v }
      ∧ t.th.v = { s.th.v with vstart := 0 }
      ∧ ((∀ o b, r.ent.op ≠ .red o b) → Claim.ScalarsKept s t)
      ∧ ∀ o b, r.ent.op = .red o b → ScalarsWith (BitVec.ofNat 5 r.ent.d) (Claim.toScalar r.ent.tagA r.ent.capB.toNat) s t

/-- The classes of a completed instruction merge; one with nothing to do is dropped. -/
def Obligations.ClassesMergeOrDrop : Prop :=
  Claim.ClassesMerge ∧ Claim.MaskedOffInstructionsDrop

/-! ## Vector configuration -/

namespace Sys2Proof.Claim

/-- Elements of the LTAG size that a member holds (R28, R125). -/
def capacity (v : VecState) (m : Member) : Nat := 2 ^ v.gc * m.nw * 512 / v.ltag.bits

/-- No lane share and no membership changes at a vsetl (R126). -/
def SharesKept (s : State) : Prop :=
  ∀ m ∈ s.th.v.members, m.mark = none ∧ (m.attached = true → (s.core m.core).lg.getD m.tid 0 = m.share)

/-- The thread after a vsetl that grants `g` over members `ms`, but for what a relocation changed (R125). -/
def LengthSet (sd : VReg) (g : Nat) (ms : List Member) (s t : State) : Prop :=
  let u := t.th.v
  GoesOn s.th t.th ∧ ScalarsWith (BitVec.ofNat 5 sd.toNat) (BitVec.ofNat 64 g) s t ∧ t.mem = s.mem
    ∧ u.vl = g ∧ u.vlgrant = g ∧ u.maxNw = nwOf ms 0
    ∧ u.maxBytes = ((ms.filter (·.attached)).map fun m => 2 ^ s.th.v.gc * m.nw * 64).sum
    ∧ u.members.map (fun m => { m with grant := 0 }) = ms.map (fun m => { m with grant := 0 })
    ∧ ((u.members.filter (·.attached)).map (·.grant)).sum = g
    ∧ (∀ m ∈ u.members, m.grant ≤ if m.attached then capacity s.th.v m else 0)

end Sys2Proof.Claim

/-- R125, R126, R27, R55: vsetl grants the smaller of the request and the attached members' capacity, shares it out among them, and writes
VL, VLGRANT, MAXVL and sd. Where no share changes it never holds and changes no element. Where the share of a group on one core
changes it waits for idle queues, takes LPART's value, and keeps the bytes below the smaller capacity, with zeros above. -/
def Sys2Proof.Claim.VectorLengthSet : Prop :=
  ∀ (s : State) (sd sa : VReg), s.lane = none →
    let v := s.th.v
    let i := Instr.vsetl sd sa
    let req := (getScalar s.th none sa.toNat).toNat
    (∀ x, x = sd ∧ 32 ≤ x.toNat → Claim.MayTrap s → Claim.Traps i cILLREG x.toNat 0 s)
      ∧ (∀ x, sd.toNat < 32 → x = sa ∧ 32 ≤ x.toNat → Claim.MayTrap s → Claim.Traps i cILLREG (0x100 + x.toNat) 0 s)
      ∧ (sd.toNat < 32 → sa.toNat < 32 → Claim.SharesKept s → ∃ t, exec i s = .next t
          ∧ Claim.LengthSet sd (min req (((v.members.filter (·.attached)).map (Claim.capacity v)).sum)) v.members s t
          ∧ t.th.v = { v with vl := t.th.v.vl, vlgrant := t.th.v.vlgrant, maxBytes := t.th.v.maxBytes, maxNw := t.th.v.maxNw
                              members := t.th.v.members }
          ∧ t.th.pipe = s.th.pipe ∧ ∀ j, j ≠ s.cur → t.thOf j = s.thOf j)
      ∧ (sd.toNat < 32 → sa.toNat < 32 → ¬Claim.SharesKept s → s.th.pipe ≠ [] ∨ s.th.reloc ≠ [] ∨ s.th.fetch ≠ none → Claim.Holds .none i s)
      ∧ ∀ m lg, sd.toNat < 32 → sa.toNat < 32 → v.members = [m] → m.mark = none → m.attached = true → m.nw ≤ 64 → v.gc ≤ 3 → lg ≤ 8 →
          (s.core m.core).lg.getD m.tid 0 = lg → lg ≠ m.share → s.th.pipe = [] → s.th.reloc = [] → s.th.fetch = none →
          let m' := { m with share := lg, nw := 8 * lg }
          ∃ t, exec i s = .next t ∧ Claim.LengthSet sd (min req (Claim.capacity v m')) [m'] s t
            ∧ (∀ n off w, n % 2 ^ v.gc = 0 → n < 32 → (w = 8 ∨ w = 16 ∨ w = 32 ∨ w = 64) → off % w = 0 → off + w ≤ 2 ^ v.gc * (8 * lg) * 512 →
                groupBits t.th.v t.th.v.members 0 n off w = if off + w ≤ 2 ^ v.gc * m.nw * 512 then groupBits v [m] 0 n off w else 0)
            ∧ (∀ k j, 1 ≤ k → k < 8 → maskBit t.th.v t.th.v.members k j =
                (maskBit v v.members k j && decide (j < 2 ^ v.gc * min m.nw (8 * lg) * 128)))

/-- R123, R127: vcfg tags its registers, sets G, the codebook and LTAG, and changes no element; a reserved tag traps ILLTYPE reason 1. vmt
writes MTR as srw of 0x010 does. -/
def Sys2Proof.Claim.VectorConfigurationSet : Prop :=
  ∀ (s : State) (first last : SReg) (tag : BitVec 6) (gc : BitVec 2) (cb : BitVec 4) (sa : VReg), s.lane = none →
    let w := getScalar s.th none sa.toNat
    (∀ g, tagOfCode tag.toNat = some g → ∃ t, exec (.vcfg first last tag gc cb) s = .next t ∧ OnlyThread s.cur s t ∧ GoesOn s.th t.th
        ∧ t.th = { s.th with pc := t.th.pc, loops := t.th.loops, hold := .none
                             v := { s.th.v with tags := t.th.v.tags, gc := gc.toNat, cb := cb.toNat, ltag := g } }
        ∧ ∀ n, tagOf t.th.v n = if first.toNat ≤ n ∧ n ≤ last.toNat then g else tagOf s.th.v n)
      ∧ (tagOfCode tag.toNat = none → Claim.MayTrap s → Claim.Traps (.vcfg first last tag gc cb) cILLTYPE (1024 + tag.toNat) 0 s)
      ∧ (sa.toNat < 32 → w.toNat % 8 < 6 → w.toNat / 2 ^ 8 % 2 ^ 9 < 384 → ∃ t, exec (.vmt sa) s = .next t ∧ OnlyThread s.cur s t ∧ GoesOn s.th t.th
        ∧ t.th = { s.th with pc := t.th.pc, loops := t.th.loops, hold := .none
                             v := { s.th.v with mtr := ⟨w.toNat % 8, w.toNat / 2 ^ 8 % 2 ^ 9, w.toNat / 2 ^ 24 % 2 ^ 6⟩ } })
      ∧ (sa.toNat < 32 → 6 ≤ w.toNat % 8 ∨ 384 ≤ w.toNat / 2 ^ 8 % 2 ^ 9 → Claim.MayTrap s → Claim.Traps (.vmt sa) cILLREG 0x010 0 s)

/-- VL, shares and tags are set. -/
def Obligations.VectorStateSet : Prop :=
  Claim.VectorLengthSet ∧ Claim.VectorConfigurationSet

/-! ## Vector memory -/

namespace Sys2Proof.Claim

/-- Operands of a vector-memory word: data, mask, form, base, and stride or index. -/
structure VMem where
  d : VReg
  k : MReg
  form : MemForm
  a : VReg
  b : VReg

/-- The loads (R154, R156, R158, R160). -/
def vload : Instr → Option VMem
  | .vld w | .vldFf w | .vldO w => some ⟨w.vd, w.k, .unit, w.sa, 0⟩
  | .vldS w | .vldSo w => some ⟨w.vd, w.k, .strided, w.sa, w.sb⟩
  | .vldX w | .vldXo w => some ⟨w.vd, w.k, .indexed, w.sa, w.vb⟩
  | _ => none

/-- The stores (R154, R158, R161). -/
def vstore : Instr → Option VMem
  | .vst w | .vstO w => some ⟨w.vd, w.k, .unit, w.sa, 0⟩
  | .vstS w | .vstSo w => some ⟨w.vd, w.k, .strided, w.sa, w.sb⟩
  | .vstX w | .vstXo w => some ⟨w.vd, w.k, .indexed, w.sa, w.vb⟩
  | _ => none

/-- The vector atomics (R165, R166), and whether the old elements are returned. -/
def vatomic : Instr → Option (AmoK × Bool × VMem)
  | .vamoAdd w => some (.add, true, ⟨w.vd, w.k, .indexed, w.sa, w.vb⟩)
  | .vamoMin w => some (.min, true, ⟨w.vd, w.k, .indexed, w.sa, w.vb⟩)
  | .vamoMax w => some (.max, true, ⟨w.vd, w.k, .indexed, w.sa, w.vb⟩)
  | .vamoAnd w => some (.and, true, ⟨w.vd, w.k, .indexed, w.sa, w.vb⟩)
  | .vamoOr w => some (.or, true, ⟨w.vd, w.k, .indexed, w.sa, w.vb⟩)
  | .vamoXor w => some (.xor, true, ⟨w.vd, w.k, .indexed, w.sa, w.vb⟩)
  | .vamoSwap w => some (.swap, true, ⟨w.vd, w.k, .indexed, w.sa, w.vb⟩)
  | .vscadd w => some (.add, false, ⟨w.vd, w.k, .indexed, w.sa, w.vb⟩)
  | _ => none

/-- Bytes of an element of the data register. -/
def width (s : State) (w : VMem) : Nat := (tagOf s.th.v w.d.toNat).bits / 8

/-- The address of element `j` (R151): the base, plus j elements, or j strides, or the index read under S or U. -/
def vaddress (s : State) (w : VMem) (j : Nat) : W64 :=
  let base := (getScalar s.th none (w.a.toNat % 32)).toNat
  let t := tagOf s.th.v w.b.toNat
  match w.form with
  | .unit => BitVec.ofNat 64 (base + j * width s w)
  | .strided => BitVec.ofNat 64 (base + j * (getScalar s.th none (w.b.toNat % 32)).toNat)
  | .indexed => BitVec.ofInt 64 (base + readInt t.isI t.bits (elem s w.b j))

/-- `n` bytes at an address lie in the thread's own range of its core's scratchpad, aligned (R189, R192, R153). -/
def InScratchpad (s : State) (m : Member) (a : W64) (n : Nat) : Prop :=
  a.toNat / 2 ^ 21 % 2 ^ 39 = 0 ∧ a.toNat % 2 ^ 21 < 0x180000 ∧ a.toNat % n = 0
    ∧ s.spadOk s.cur s.th.ctx m.core (a.toNat % 2 ^ 21) n = true

/-- Where an address of the local scratchpad space lies. -/
def place (m : Member) (a : W64) : Nat := spadFlat m.core (a.toNat % 2 ^ 21)

/-- The elements a vector-memory instruction acts on (R53, R152). -/
def Acts (s : State) (w : VMem) (j : Nat) : Prop := s.th.v.vstart ≤ j ∧ j < s.th.v.vl ∧ active s w.k j = true

/-- Every element acted on lies in the local scratchpad. -/
def AllLand (s : State) (m : Member) (w : VMem) : Prop :=
  s.th.v.mtr.space = 0 ∧ 8 ≤ (tagOf s.th.v w.d.toNat).bits ∧ ∀ j, Acts s w j → InScratchpad s m (vaddress s w j) (width s w)

/-- No two elements acted on overlap. -/
def Apart (s : State) (m : Member) (w : VMem) : Prop :=
  ∀ i j, Acts s w i → Acts s w j → i ≠ j → place m (vaddress s w i) ≠ place m (vaddress s w j)

/-- Each element acted on is stored as `x` says, and every other byte of memory is as before. -/
def StoredAll (s t : State) (m : Member) (w : VMem) (x : Nat → Nat) : Prop :=
  let n := width s w
  (∀ j b, Acts s w j → b < n → t.byte (place m (vaddress s w j) + b) = BitVec.ofNat 8 (x j / 2 ^ (8 * b)))
    ∧ ∀ a, (∀ j, Acts s w j → a < place m (vaddress s w j) ∨ place m (vaddress s w j) + n ≤ a) → t.byte a = s.byte a

/-- Each place that an element acted on goes to holds what `x` says of exactly one of those that go there, the highest when they are
ordered; every other byte of memory is as before. -/
def StoredOne (s t : State) (m : Member) (w : VMem) (inOrder : Bool) (x : Nat → Nat) : Prop :=
  let n := width s w
  let at_ (j : Nat) := place m (vaddress s w j)
  (∀ j, Acts s w j → ∃ l, Acts s w l ∧ at_ l = at_ j ∧ (inOrder = true → ∀ h, Acts s w h → at_ h = at_ j → h ≤ l)
      ∧ ∀ b, b < n → t.byte (at_ j + b) = BitVec.ofNat 8 (x l / 2 ^ (8 * b)))
    ∧ ∀ a, (∀ j, Acts s w j → a < at_ j ∨ at_ j + n ≤ a) → t.byte a = s.byte a

/-- The ordered forms (R158). -/
def ordered : Instr → Bool
  | .vstO _ | .vstSo _ | .vstXo _ => true
  | _ => false

/-- The new value of a vector atomic (R165): integer tags by their signedness, float tags by an add rounded once. -/
def vamoValue (s : State) (t : ETag) (o : AmoK) (old x : Nat) : Nat :=
  let n := t.bits
  let f := s.th.v.fstat
  let r := readInt t.isI n
  match o with
  | .add => if t.isInt then (old + x) % 2 ^ n else (fAdd t (rmOfCode (f.toNat % 4)) (f.getLsbD 4) (f.getLsbD 5) old x).1
  | .min => if r x < r old then x else old
  | .max => if r old < r x then x else old
  | .and => old &&& x
  | .or => old ||| x
  | .xor => old ^^^ x
  | _ => x

end Sys2Proof.Claim

/-- R151–R154, R156, R158, R160: a load from the local scratchpad writes each active element from VSTART to VL − 1 with the bytes at its
address, and changes nothing else. (An acquire gather also writes its miss mask: not said here.) -/
def Obligations.VectorLoadsRead : Prop :=
  ∀ (i : Instr) (s : State) (r : Routing) (m : Member) (w : Claim.VMem), Claim.AtOnce i s r m → Claim.vload i = some w →
    Claim.AllLand s m w → r.ent.gather = false → ∃ t, exec i s = .next t
      ∧ Claim.VectorWrites ⟨w.d, (tagOf s.th.v w.d.toNat).bits, Claim.active s w.k,
          fun j => s.load (Claim.place m (Claim.vaddress s w j)) (Claim.width s w)⟩ s.th.v.vstart m s t
      ∧ t.th.v.tags = s.th.v.tags

/-- R151–R154, R158, R161: a store to the local scratchpad stores each active element from VSTART to VL − 1 at its address. Where elements
have one address, it ends with the value of exactly one of them, of an ordered form the highest. Every other byte, and every register, is
as before. -/
def Obligations.VectorStoresWrite : Prop :=
  ∀ (i : Instr) (s : State) (r : Routing) (m : Member) (w : Claim.VMem), Claim.AtOnce i s r m → Claim.vstore i = some w →
    Claim.AllLand s m w → ∃ t, exec i s = .next t ∧ Claim.Passed { s with freeCtr := t.freeCtr } t ∧ Claim.ScalarsKept s t
      ∧ t.th.v = { s.th.v with vstart := 0 } ∧ Claim.StoredOne s t m w (Claim.ordered i) (Claim.elem s w.d)

/-- R165, R166, R168: a vector atomic on the local scratchpad whose elements do not overlap reads each active element's old value, stores
the new one, and, but for vscadd, returns the old ones in vd. -/
def Obligations.VectorAtomicsUpdate : Prop :=
  ∀ (i : Instr) (s : State) (r : Routing) (m : Member) (o : AmoK) (back : Bool) (w : Claim.VMem), Claim.AtOnce i s r m →
    Claim.vatomic i = some (o, back, w) → Claim.AllLand s m w → Claim.Apart s m w →
    let old (j : Nat) := s.load (Claim.place m (Claim.vaddress s w j)) (Claim.width s w)
    ∃ t, exec i s = .next t
      ∧ Claim.RegisterWritten ⟨w.d, (tagOf s.th.v w.d.toNat).bits, fun j => back && Claim.active s w.k j, old⟩ s.th.v.vstart m s t
      ∧ t.th.v.tags = s.th.v.tags
      ∧ Claim.StoredAll s t m w fun j => Claim.vamoValue s (tagOf s.th.v w.d.toNat) o (old j) (Claim.elem s w.d j)

/-- R153, R155, R53, R114: a vector-memory instruction whose first element acted on is misaligned traps MISALIGN on the vec path with that
element's index and address; nothing is loaded or stored, EVSTART is the element, the entry stands in the stop record, and the resume
address is the next fetch unit. (An acquire gather's element on a synchronisation page of a wider home misses, by R199, before it is
checked: not said here.) -/
def Sys2Proof.Claim.MisalignedElementsTrap : Prop :=
  ∀ (i : Instr) (s : State) (r : Routing) (m : Member) (w : Claim.VMem) (j : Nat), Claim.AtOnce i s r m → Claim.MayTrap s →
    (Claim.vload i = some w ∨ Claim.vstore i = some w ∨ ∃ o b, Claim.vatomic i = some (o, b, w)) →
    8 ≤ (tagOf s.th.v w.d.toNat).bits → r.ent.gather = false → Claim.Acts s w j → (∀ l, Claim.Acts s w l → j ≤ l) → j < 2 ^ 32 →
    (Claim.vaddress s w j).toNat % Claim.width s w ≠ 0 → ∃ t, exec i s = .next t ∧ OnlyThread s.cur s t
      ∧ t.th.trap.info = BitVec.ofNat 64 (cMISALIGN + 2 ^ 8 + j * 2 ^ 24 + if s.th.fu.long then 2 ^ 57 else 0)
      ∧ t.th.trap.va = Claim.vaddress s w j ∧ t.th.trap.pc = pcField s.th.fu.addr ∧ t.th.trap.evstart = j
      ∧ t.th.v = { s.th.v with vstart := 0 } ∧ t.th.sup = true ∧ t.th.pc = pcField s.th.trap.tvec
      ∧ t.th.trap.epc = pcField (loopEnd s.th.loops s.th.fu.nextAddr).2 ||| (if s.th.sup then 1 else 0)
      ∧ t.th.pipe = [] ∧ ∃ e, t.th.trap.stop = [e] ∧ e.partWay = true ∧ e.op = r.ent.op ∧ e.d = r.ent.d ∧ e.capA = r.ent.capA
          ∧ e.vl = r.ent.vl

/-- Accesses that are not naturally aligned. -/
def Obligations.MisalignmentTraps : Prop :=
  Claim.MisalignedAccessesTrap ∧ Claim.MisalignedElementsTrap

/-- R230, R231: capp, in a space of this package, writes the indices of its active elements to the ring, then WR; too few places trap
QFULL 4, a LOGCAP outside 6 to 24 QFULL 5. At VL 0 nothing happens. -/
def Sys2Proof.Claim.CappAppends : Prop :=
  ∀ (s : State) (r : Routing) (m : Member) (sa : VReg) (k : MReg) (p : VPay), Claim.AtOnce (.capp sa k p) s r m →
    let i := Instr.capp sa k p
    let c := coreOf s.cur
    let tg := vectorTarget c s.th.v.mtr
    let d := getScalar s.th none (sa.toNat % 32)
    let act := (List.range s.th.v.vl).filter (Claim.active s k)
    (s.th.v.vl = 0 → ∃ t, exec i s = .next t ∧ Claim.Passed s t ∧ t.mem = s.mem ∧ Claim.ScalarsKept s t
        ∧ t.th.v = { s.th.v with vstart := 0 })
      ∧ ∀ (u : State) (bs : List Byte), s.th.v.vl ≠ 0 → d.toNat % 32 = 0 → (∀ pkg off, tg d ≠ .remote pkg off) →
        readRun (s.mod (·.routed r)) s.cur 1 (!s.th.sup) tg d 32 = .ok u bs →
        let x := leNat bs
        let ring := BitVec.ofNat 64 (x % 2 ^ 64)
        let logcap := x / 2 ^ 64 % 2 ^ 5
        let iofs := x / 2 ^ 96 % 2 ^ 32
        let wr : Nat := x / 2 ^ 128 % 2 ^ 64
        let rd : Nat := x / 2 ^ 192 % 2 ^ 64
        let used : Int := Int.ofNat wr - Int.ofNat rd
        let n : Int := Int.ofNat act.length
        let runs := (act.zipIdx.map fun y => (ring + BitVec.ofNat 64 (4 * ((wr + y.2) % 2 ^ logcap)), leBytes 4 ((y.1 + iofs) % 2 ^ 32)))
          ++ [(d + 16, leBytes 8 (wr + act.length))]
        let good := ring.toNat % 4 = 0 ∧ 6 ≤ logcap ∧ logcap ≤ 24 ∧ x / 2 ^ 69 % 2 ^ 27 = 0
        (∀ places va, good → used + n ≤ 2 ^ logcap → placeRuns s.cur (!s.th.sup) tg runs u [] = .inr (places, va) →
            ∃ t, exec i s = .next t ∧ t.mem = places.foldl (fun a q => memPuts a q.1 q.2.2) u.mem
              ∧ GoesOn s.th t.th ∧ Claim.ScalarsKept s t ∧ t.th.v = { s.th.v with vstart := 0 }
              ∧ t.th.ui.pend = if used < s.th.v.vl ∧ s.th.v.vl ≤ used + n then setBit s.th.ui.pend 2 true else s.th.ui.pend)
          ∧ (good → 2 ^ logcap < used + n → Claim.MayTrap s → ∃ t, exec i s = .next t ∧ t.mem = s.mem
              ∧ t.th.trap.info = BitVec.ofNat 64 (cQFULL + 4 * 2 ^ 8 + if s.th.fu.long then 2 ^ 57 else 0) ∧ t.th.pc = pcField s.th.trap.tvec)
          ∧ (ring.toNat % 4 = 0 → logcap < 6 ∨ 24 < logcap → Claim.MayTrap s → ∃ t, exec i s = .next t ∧ t.mem = s.mem
              ∧ t.th.trap.info = BitVec.ofNat 64 (cQFULL + 5 * 2 ^ 8 + if s.th.fu.long then 2 ^ 57 else 0) ∧ t.th.pc = pcField s.th.trap.tvec)

/-- R302: bxld takes the channel's next identifier for its transfer, whose elements are SRC plus each index and DST plus i sizes, and sets in
md the bits of repeated indices. -/
def Sys2Proof.Claim.BackgroundLoadsStart : Prop :=
  ∀ (s : State) (r : Routing) (m : Member) (md sa vb : VReg) (p : VPay), Claim.AtOnce (.bxld md sa vb p) s r m → s.th.v.vl ≠ 0 → s.th.pending = [] →
    let v := s.th.v
    let d := getScalar s.th none (sa.toNat % 32)
    let g := tagOf v vb.toNat
    let index (j : Nat) := BitVec.ofInt 64 (readInt g.isI g.bits (Claim.elem s vb j))
    d.toNat % 32 = 0 → ∀ (u : State) (bs : List Byte),
      readRun (s.mod (·.routed r)) s.cur 1 (!s.th.sup) (scalarTarget (coreOf s.cur)) d 32 = .ok u bs →
      let x := leNat bs
      let n := 2 ^ (x / 2 ^ 128 % 2 ^ 3)
      let ch := x / 2 ^ 131 % 2
      let src := BitVec.ofNat 64 (x % 2 ^ 64)
      let dst := BitVec.ofNat 64 (x / 2 ^ 64 % 2 ^ 64)
      let c := s.th.chan ch
      x / 2 ^ 133 = 0 → x / 2 ^ 128 % 2 ^ 3 ≤ 3 → c.frz = false →
      (∀ j, j < v.vl → (src + index j).toNat % n = 0 ∧ (dst + BitVec.ofNat 64 (j * n)).toNat % n = 0) →
      ∃ t, exec (.bxld md sa vb p) s = .next t ∧ GoesOn s.th t.th ∧ t.mem = u.mem ∧ Claim.ScalarsKept s t
        ∧ (t.th.chan ch).next = c.next + 1 ∧ (t.th.chan (1 - ch)) = s.th.chan (1 - ch)
        ∧ (∃ xf, (t.th.chan ch).xfers = c.xfers ++ [xf] ∧ xf.first = c.next ∧ xf.count = 1 ∧ xf.esz = n ∧ xf.isBx = true
            ∧ xf.pairs = (List.range v.vl).map fun j => (src + index j, dst + BitVec.ofNat 64 (j * n)))
        ∧ (∀ k j, k < 8 → maskBit t.th.v v.members k j =
            if k = md.toNat then decide (j < v.vl) && (List.range j).any (fun l => index l == index j) else maskBit v v.members k j)
        ∧ .event (.stripStart s.cur ch) ∈ t.agenda

/-- Capp and bxld. -/
def Obligations.AppendsAndBackgroundLoads : Prop :=
  Claim.CappAppends ∧ Claim.BackgroundLoadsStart

/-! ## The palette and the matrix products -/

namespace Sys2Proof.Claim

/-- A shape scalar that R172 does not call impossible. -/
def PossibleShape (w : Nat) : Prop :=
  let tag := w % 2 ^ 6
  let cb := w / 2 ^ 6 % 2 ^ 4
  let lines := w / 2 ^ 10 % 2 ^ 10 + 1
  let depth := w / 2 ^ 20 % 2 ^ 12 + 1
  let ksum := w / 2 ^ 48
  let size := lines * depth
  (tag = 0x11 ∧ size * 2 ≤ 16384 ∨ (tag = 0x14 ∨ tag = 0x15) ∧ size ≤ 16384 ∨ tag = 0x16 ∧ depth % 2 = 0 ∧ size ≤ 32768
      ∨ (tag = 0x18 ∨ tag = 0x19 ∨ tag = 0x1A) ∧ size * 64 ≤ 16384)
    ∧ (cb = 0 ∨ tag = 0x16) ∧ (0x18 ≤ tag ↔ ksum ≠ 0)

/-- A slot of the thread's core. -/
def slot (s : State) (x : Nat) : Slot := (s.core (coreOf s.cur)).slot x

/-- At most one member is attached (R182). -/
def OneCore (s : State) : Prop := (s.th.v.members.filter (·.attached)).length ≤ 1

/-- The dispatcher has been asked to look at the pending list, if anything has (R241). -/
def AsksPlacement (s t : State) : Prop := t.agenda = s.agenda ∨ t.agenda = s.agenda ++ [.event (.placeGroup s.th.part)]

/-- The core's slots but for `x` are as before, and nothing of the package but them, the thread and the dispatcher's turn differs. -/
def SlotOnly (x : Nat) (s t : State) : Prop :=
  t = { s with threads := t.threads, cores := t.cores, agenda := t.agenda } ∧ AsksPlacement s t ∧ (∀ j, j ≠ s.cur → t.thOf j = s.thOf j)
    ∧ t.th = { s.th with pc := t.th.pc, loops := t.th.loops, hold := .none } ∧ GoesOn s.th t.th
    ∧ (∀ c y, c ≠ coreOf s.cur ∨ (y ≠ x ∧ ∀ k, ((s.core c).slot y).st ≠ .releasing k) → (t.core c).slot y = (s.core c).slot y)
    ∧ ∀ c, (t.core c).bucket = (s.core c).bucket ∧ (t.core c).lg = (s.core c).lg ∧ (t.core c).cbs = (s.core c).cbs

/-- R184: `n` outputs of FP32 in the accumulator group; those selected and with a product are replaced, every other is as it was. -/
def Accumulated (d : VReg) (n : Nat) (act : Nat → Bool) (x : Nat → Nat) (m : Member) (s t : State) : Prop :=
  let v := s.th.v
  let u := t.th.v
  Passed s t ∧ ScalarsKept s t ∧ t.mem = s.mem
    ∧ (∀ j, (j + 1) * 32 ≤ memberBits v.gc m → readElem u u.members d.toNat 32 j =
        if j < n ∧ act j then x j % 2 ^ 32 else readElem v v.members d.toNat 32 j)
    ∧ (∀ r, r < 32 → r < d.toNat ∨ d.toNat + 2 ^ v.gc ≤ r → u.vregs.get 0 r = v.vregs.get 0 r)
    ∧ u = { v with vregs := u.vregs, fstat := u.fstat, eix := u.eix, dirty := u.dirty, vstart := 0 }

/-- The values of a line of a slot: `n` elements, or the filled positions of a scaled one, none in a zero block (R70, R172, R185). -/
def line (s : State) (x : BitVec 5) (l n : Nat) : List (Option Fp) :=
  lineValues (s.books s.cur) (s.slotData s.cur x.toNat) (shapeGet (slot s x.toNat).shape) l n

/-- The products of two lines, position by position; +0 where either lies in a zero block (R184, R185). -/
def products : List (Option Fp) → List (Option Fp) → List Fp
  | some x :: a, some y :: b => mulFp x y :: products a b
  | _ :: a, _ :: b => .fin false 0 0 :: products a b
  | _, _ => []

/-- An output: the old element and the products, accumulated under ARM (R184). -/
def output (s : State) (d : VReg) (j : Nat) (a b : List (Option Fp)) : Nat :=
  (accumulate (rmOfCode (s.th.v.fstat.toNat / 4 % 4)) (readElem s.th.v s.th.v.members d.toNat 32 j) 0 (products a b)).1

/-- A product of two lists exists. -/
def some_ (a b : List (Option Fp)) : Bool := !a.isEmpty && !b.isEmpty

end Sys2Proof.Claim

/-- R173, R175, R172, R236: mclaim claims a FREE slot, or shapes again one that its thread holds and no older instruction names, with
every byte 0. A slot of another thread, or reserved for another group, traps PALSTATE 2, an impossible shape 3, a span of several
members 5; a RELEASING slot that is not so reserved, or one in use, holds. -/
def Sys2Proof.Claim.SlotsClaimed : Prop :=
  ∀ (s : State) (sa : VReg) (x : BitVec 5), s.lane = none → sa.toNat < 32 → x.toNat < 24 →
    let i := Instr.mclaim sa x
    let w := getScalar s.th none sa.toNat
    let st := (Claim.slot s x.toNat).st
    let fine := Claim.OneCore s ∧ Claim.PossibleShape w.toNat
    (¬Claim.OneCore s → Claim.MayTrap s → Claim.Traps i cPALSTATE 5 0 s)
      ∧ (Claim.OneCore s → ¬Claim.PossibleShape w.toNat → Claim.MayTrap s → Claim.Traps i cPALSTATE (x.toNat * 256 + 3) 0 s)
      ∧ (∀ k, fine → st = .claimed k → k ≠ s.cur → Claim.MayTrap s → Claim.Traps i cPALSTATE (x.toNat * 256 + 2) 0 s)
      ∧ (∀ k, fine → st = .free ∨ st = .releasing k → s.reservedByOther s.cur x.toNat = true → Claim.MayTrap s →
          Claim.Traps i cPALSTATE (x.toNat * 256 + 2) 0 s)
      ∧ (∀ k, fine → st = .releasing k → s.reservedByOther s.cur x.toNat = false → Claim.Holds (.slot x.toNat) i s)
      ∧ (fine → st = .claimed s.cur → s.th.uses x.toNat = true → Claim.Holds (.slot x.toNat) i s)
      ∧ (fine → (st = .free ∧ s.reservedByOther s.cur x.toNat = false) ∨ (st = .claimed s.cur ∧ s.th.uses x.toNat = false) →
          ∃ t, exec i s = .next t ∧ Claim.SlotOnly x.toNat s t ∧ t.agenda = s.agenda
            ∧ Claim.slot t x.toNat = { st := .claimed s.cur, shape := w, data := 0 })

/-- R174, R175: mrel of a slot its thread has claimed makes it RELEASING while an older instruction of the thread names it, and FREE
otherwise, where the dispatcher looks at its list (R241); of any other slot it traps PALSTATE 1. -/
def Sys2Proof.Claim.SlotsReleased : Prop :=
  ∀ (s : State) (x : BitVec 5), s.lane = none → x.toNat < 24 → Claim.OneCore s →
    let a := Claim.slot s x.toNat
    (a.st ≠ .claimed s.cur → Claim.MayTrap s → Claim.Traps (.mrel x) cPALSTATE (x.toNat * 256 + 1) 0 s)
      ∧ (a.st = .claimed s.cur → ∃ t, exec (.mrel x) s = .next t ∧ Claim.SlotOnly x.toNat s t
          ∧ Claim.slot t x.toNat = { a with st := if s.th.uses x.toNat then .releasing s.cur else .free }
          ∧ (s.th.uses x.toNat = false → t.agenda = s.agenda ++ [.event (.placeGroup s.th.part)]))

/-- R176, R177, R178: mldt fills a claimed slot's lines with the bytes at base plus each pitch, and cbld fills a codebook slot with 16
entries, V set, GEN one more and THR the thread: here from the local scratchpad. -/
def Sys2Proof.Claim.SlotsFilled : Prop :=
  ∀ (s : State) (r : Routing) (m : Member) (sa : VReg) (x : BitVec 5),
    let base := (getScalar s.th none (sa.toNat % 32)).toNat
    let c := coreOf s.cur
    let lies (off n : Nat) := off + n ≤ 0x180000 ∧ s.spadOk s.cur s.th.ctx c off n = true
    let sh := shapeGet (Claim.slot s x.toNat).shape
    let lb := sh.depth * sh.tag.bits / 8
    let align := if sh.tag.isScaled then 64 else if sh.tag = .bf16 then 2 else 1
    let rest (t : State) := Claim.Passed s t ∧ Claim.ScalarsKept s t ∧ t.mem = s.mem ∧ t.th.v = { s.th.v with vstart := 0 }
    s.th.v.mtr.space = 0 → s.th.replies = [] → s.th.asked = [] →
      (Claim.AtOnce (.mldt sa x) s r m → base % align = 0 → sh.pitch % align = 0 → (∀ l, l < sh.lines → lies (base + l * sh.pitch) lb) →
        ∃ t, exec (.mldt sa x) s = .next t ∧ rest t ∧ (∀ y, y ≠ x.toNat → (∀ k, (Claim.slot s y).st ≠ .releasing k) →
            Claim.slot t y = Claim.slot s y)
          ∧ (Claim.slot t x.toNat).st = .claimed s.cur ∧ (Claim.slot t x.toNat).shape = (Claim.slot s x.toNat).shape
          ∧ ∀ l q, l < sh.lines → q < lb →
            (Claim.slot t x.toNat).data.extractLsb' ((l * lb + q) * 8) 8 = s.byte (spadFlat c (base + l * sh.pitch + q)))
      ∧ (Claim.AtOnce (.cbld sa x) s r m → base % 32 = 0 → lies base 32 →
        ∃ t, exec (.cbld sa x) s = .next t ∧ rest t ∧ (∀ y, y ≠ x.toNat → (t.core c).cbs.get {} y = (s.core c).cbs.get {} y)
          ∧ let a := (s.core c).cbs.get {} x.toNat
            let b := (t.core c).cbs.get {} x.toNat
            b.v = true ∧ b.gen = (a.gen + 1) % 256 ∧ b.thr = s.cur % 4
              ∧ ∀ e q, e < 16 → q < 2 → b.table.extractLsb' (16 * e + 8 * q) 8 = s.byte (spadFlat c (base + 2 * e + q)))

/-- Slots are claimed, filled and released. -/
def Obligations.SlotsClaimedFilledReleased : Prop :=
  Claim.SlotsClaimed ∧ Claim.SlotsReleased ∧ Claim.SlotsFilled

/-- R184–R187: the products accumulate. mma takes each line of x by each line of y, mmax the activations of va at the indices of vi by
each line of x, mmab the same lines of each batch by its length. Where the checks of R183 fail, the product traps. At VL 0 nothing
changes. -/
def Obligations.ProductsAccumulate : Prop :=
  ∀ (s : State) (r : Routing) (m : Member) (d : VReg) (x y : BitVec 5) (k : MReg),
    let v := s.th.v
    let sx := shapeGet (Claim.slot s x.toNat).shape
    let sy := shapeGet (Claim.slot s y.toNat).shape
    let faults (cause detail index : Nat) (i : Instr) := ∃ t, exec i s = .next t ∧ t.mem = s.mem ∧ t.th.pc = pcField s.th.trap.tvec
      ∧ t.th.trap.info = BitVec.ofNat 64 (cause + detail % 2 ^ 16 * 2 ^ 8 + index % 2 ^ 32 * 2 ^ 24 + if s.th.fu.long then 2 ^ 57 else 0)
    let idle (i : Instr) := ∃ t, exec i s = .next t ∧ t.mem = s.mem ∧ Claim.ScalarsKept s t ∧ t.th.v = { v with vstart := 0 }
    let both := slotFaults s s.cur v.vl [(x.toNat, sx), (y.toNat, sy)]
    (Claim.AtOnce (.mma d x y k) s r m →
        (v.vl = 0 → idle (.mma d x y k))
        ∧ (v.vl ≠ 0 → both = none → ∃ t, exec (.mma d x y k) s = .next t
          ∧ let a (j : Nat) := Claim.line s x (j / sy.lines) v.vl
            let b (j : Nat) := Claim.line s y (j % sy.lines) v.vl
            Claim.Accumulated d (sx.lines * sy.lines) (fun j => Claim.active s k j && Claim.some_ (a j) (b j))
              (fun j => Claim.output s d j (a j) (b j)) m s t)
        ∧ (∀ c e i, v.vl ≠ 0 → both = some (c, e, i) → Claim.MayTrap s → faults c e i (.mma d x y k)))
      ∧ (∀ va vi, Claim.AtOnce (.mmax d x va vi k) s r m →
        let ti := tagOf v vi.toNat
        let ix (j : Nat) := readInt ti.isI ti.bits (Claim.elem s vi j)
        (v.vl = 0 → idle (.mmax d x va vi k))
        ∧ (v.vl ≠ 0 → slotFaults s s.cur v.vl [(x.toNat, sx)] = none → (∀ j, j < v.vl → 0 ≤ ix j ∧ ix j < sx.depth) →
            ∃ t, exec (.mmax d x va vi k) s = .next t
              ∧ let a := (List.range v.vl).map fun j => some (plainValue (tagOf v va.toNat) (s.books s.cur v.cb) (Claim.elem s va j))
                let b (l : Nat) := (List.range v.vl).map fun j => some (plainValue sx.tag (s.books s.cur sx.cb)
                  (lineElem (s.slotData s.cur x.toNat) sx l (ix j).toNat))
                Claim.Accumulated d sx.lines (Claim.active s k) (fun l => Claim.output s d l a (b l)) m s t)
        ∧ (∀ j, v.vl ≠ 0 → slotFaults s s.cur v.vl [(x.toNat, sx)] = none → j < v.vl → ix j < 0 ∨ (sx.depth : Int) ≤ ix j →
            (∀ l, l < j → 0 ≤ ix l ∧ ix l < sx.depth) → Claim.MayTrap s → faults cPALSTATE (x.toNat * 256 + 6) j (.mmax d x va vi k)))
      ∧ (∀ sl, Claim.AtOnce (.mmab d x y sl k) s r m →
        let lens := (getScalar s.th none sl.toNat).toNat
        let lg := m.nw / 8
        let ma := sx.lines / lg
        let nb := sy.lines / lg
        let p := 2 ^ v.gc * m.nw * 16 / lg
        let len (b : Nat) := min (lens / 2 ^ (8 * b) % 2 ^ 8) v.vl
        let a (j : Nat) := Claim.line s x (j / p * ma + j % p / nb) (len (j / p))
        let b (j : Nat) := Claim.line s y (j / p * nb + j % p % nb) (len (j / p))
        (v.vl = 0 → idle (.mmab d x y sl k))
        ∧ (v.vl ≠ 0 → both = none → lg ≠ 0 → ∃ t, exec (.mmab d x y sl k) s = .next t
            ∧ Claim.Accumulated d (lg * p) (fun j => decide (j % p < ma * nb) && Claim.active s k j && Claim.some_ (a j) (b j))
              (fun j => Claim.output s d j (a j) (b j)) m s t)
        ∧ (∀ c e i, v.vl ≠ 0 → both = some (c, e, i) → Claim.MayTrap s → faults c e i (.mmab d x y sl k)))

/-! ## The queues across steps -/

/-- R229: when nothing of a core is granted, VECTOR_SEQUENCER_GRANT grants one of its contenders: of two, the one with the smaller VT,
then the one that came first, then the lower number. Its remainder is what W leaves of the beats, and its wait is over. -/
def Sys2Proof.Claim.SequencerGrants : Prop :=
  ∀ (s : State) (c : Nat),
    let u := s.gateArrive c
    Claim.Arrived s u
      ∧ (∀ k, (s.core c).granted = some k → exec (.vectorSequencerGrant c) s = .next u)
      ∧ ((s.core c).granted = none → s.contenders c = [] → exec (.vectorSequencerGrant c) s = .next u)
      ∧ ((s.core c).granted = none → s.contenders c ≠ [] → ∃ t k, exec (.vectorSequencerGrant c) s = .next t ∧ k ∈ s.contenders c
          ∧ (t.core c).granted = some k ∧ (∀ d, d ≠ c → t.core d = s.core d) ∧ t = { s with threads := t.threads, cores := t.cores }
          ∧ (∀ j, t.thOf j = { s.thOf j with seqVt := (t.thOf j).seqVt, seqRem := (t.thOf j).seqRem, seqAge := (t.thOf j).seqAge })
          ∧ (∀ x, s.standing k = some x → (t.thOf k).seqRem = (x.beats * 4096 + (s.thOf k).seqRem) % max 1 (s.thOf k).seqW)
          ∧ (t.thOf k).seqAge = 0
          ∧ ∀ a b, s.contenders c = [a, b] → a < b → let d := vtDiff (s.thOf a).seqVt (s.thOf b).seqVt
            k = if d < 0 ∨ (d = 0 ∧ (u.thOf a).seqAge ≤ (u.thOf b).seqAge) then a else b)

/-- R325, R329: one lane cycle of a core's gate drains D from its bucket. Where the charge of what the gate has granted then fits, or the
level is 0, it passes: the level and GATEU rise by the charge, nothing is granted, and an instruction that has passed all its gates is
released. -/
def Sys2Proof.Claim.GateReleases : Prop :=
  ∀ (s : State) (c : Nat) (j k : ThreadKey) (older : List Entry) (e : Entry) (p : GateSpot), (s.core c).granted = some j → coreOf j = c →
    s.standing j = some (.entry k older e p) → lostMember s k e = false → (j = k → releaseFault s k e = none) →
    (s.thOf k).sampctl.getLsbD 0 = false →
    let ch := s.charge e p.n
    let level := (s.core c).bucket - s.drainOf c
    let q := (s.thOf k).part
    let all := ∀ x ∈ spotsOf k e, coreOf x.slot = c ∨ coreOf x.slot ∈ e.gates
    (ch ≠ 0 → level + ch ≤ 4096 ∨ level = 0 → ∃ t, exec (.instructionRelease c) s = .next t
        ∧ (t.core c).bucket = min (level + ch) (2 ^ 21 - 1) ∧ (t.core c).charge = (s.core c).charge + ch ∧ (t.core c).granted = none
        ∧ (t.part q).gateu.get 0 (s.thOf k).owner = sat48 ((s.part q).gateu.get 0 (s.thOf k).owner) ch
        ∧ (∃ n e', t.thOf k = { s.thOf k with pipe := swapEntry e e' (s.thOf k).pipe, seqAge := n }
            ∧ (all → e' = { e with gates := c :: e.gates, released := true, sampled := false }) ∧ (¬all → e' = { e with gates := c :: e.gates }))
        ∧ (∀ i, i ≠ k → ∃ n, t.thOf i = { s.thOf i with seqAge := n }) ∧ t = { s with threads := t.threads, cores := t.cores, parts := t.parts })
      ∧ (ch ≠ 0 → ¬(level + ch ≤ 4096 ∨ level = 0) → ∃ t, exec (.instructionRelease c) s = .next t ∧ (t.core c).bucket = level
        ∧ (t.core c).granted = some j ∧ t = { s with cores := t.cores })

/-- The vector sequencer and the dispatch gate. -/
def Obligations.GatesGrantAndRelease : Prop :=
  Claim.SequencerGrants ∧ Claim.GateReleases

/-- R56, R131, R154, R31: the events of the access and execute units. An access half whose operands are ready is performed, and its entry
waits for its execute half or retires. A released entry completes, its results written as its computation gives, its lq heads popped,
its classes merged, and leaves the queues. An entry not released stays. -/
def Obligations.EntriesCompleteByEvent : Prop :=
  ∀ (s : State) (k : ThreadKey) (e : Entry) (rest : List Entry), (s.thOf k).pipe = e :: rest → lostMember s k e = false →
    isDropped (s.thOf k).v e = false →
    (∀ u e', e.inAcc = true → e.accDone = false → s.issues k = true → accReady s k [] e = true → accessHalf s k e = .done u e' →
        e'.inExe = true → ∃ w t, exec (.accessUnitComplete k) s = .next t ∧ Claim.Arrived w t ∧ w = { u with threads := w.threads }
          ∧ (∀ j, j ≠ k → w.thOf j = u.thOf j)
          ∧ w.thOf k = { u.thOf k with pipe := swapEntry e { e' with accDone := true, begun := true } (u.thOf k).pipe })
      ∧ (∀ m o, e.op = .load .unit false o → e.inAcc = true → e.accDone = false → e.inExe = true → s.issues k = true →
          accReady s k [] e = true → e.mtr.space = 0 → e.dist = [m] → 8 ≤ e.tagD.bits →
          let n := e.tagD.bits / 8
          let at_ (j : Nat) := (e.capA + BitVec.ofNat 64 (j * n)).toNat
          let act := memActive (s.thOf k).v e
          (∀ j ∈ act, at_ j / 2 ^ 21 % 2 ^ 39 = 0 ∧ at_ j % 2 ^ 21 < 0x180000 ∧ at_ j % n = 0
            ∧ s.spadOk k (s.thOf k).ctx m.core (at_ j % 2 ^ 21) n = true) →
          ∃ w t, exec (.accessUnitComplete k) s = .next t ∧ Claim.Arrived w t
            ∧ w = { s with threads := w.threads, arbs := w.arbs, budgets := w.budgets } ∧ (∀ j, j ≠ k → w.thOf j = s.thOf j)
            ∧ w.thOf k = { s.thOf k with
                stall := (w.thOf k).stall
                pipe := { e with accDone := true, begun := true
                                 buf := e.buf ++ act.map fun j => (j, s.load (spadFlat m.core (at_ j % 2 ^ 21)) n) } :: rest })
      ∧ (e.inExe = true → e.isMem = false → e.released = true → e.sampled = false → (s.thOf k).fetch = none →
        ∀ v x cl, computeOut s k e = .ok v x cl → trapEnables v = 0 →
          ∃ t, exec (.instructionComplete k) s = .next t ∧ (t.thOf k).pipe = rest ∧ t.mem = s.mem
            ∧ (t.thOf k).v = mergeFlags (popAll v e.popList) cl
            ∧ (∀ y, x = some y → getScalar (t.thOf k) none e.d = if e.d = 0 then 0 else y)
            ∧ (x = none → (t.thOf k).sregs = (s.thOf k).sregs ∧ (t.thOf k).shadow = (s.thOf k).shadow)
            ∧ ∀ j, j ≠ k → ∃ n, t.thOf j = { s.thOf j with seqAge := n })
      ∧ (e.inExe = true → e.isMem = false → e.released = true → e.sampled = false → (s.thOf k).fetch = none →
        trapEnables (s.thOf k).v = 0 → isProduct e = false → (∀ g, e.op ≠ .cvt g) → e.op ≠ .ext →
          ∃ t, exec (.instructionComplete k) s = .next t ∧ (t.thOf k).pipe = rest ∧ t.mem = s.mem
            ∧ (∀ j, j ≠ k → ∃ n, t.thOf j = { s.thOf j with seqAge := n }))
      ∧ (e.inExe = true → e.released = false → exec (.instructionComplete k) s = .next s)

/-- R25, R34: SPAN_MEMBER_LOST marks an attached member of a span as lost, and the vector instruction that would next use it traps
SPANFAULT: a product or a fill where the home member is lost, any other where a lost member's block holds an element it acts on. One that
is dropped uses none. -/
def Sys2Proof.Claim.LostMembersTrap : Prop :=
  (∀ (s : State) (k : ThreadKey) (n : Nat), ∃ t, exec (.spanMemberLost k n) s = .next t ∧ OnlyThread k s t
      ∧ t.thOf k = { s.thOf k with v := { (s.thOf k).v with members := (t.thOf k).v.members } }
      ∧ (t.thOf k).v.members.length = (s.thOf k).v.members.length
      ∧ ∀ i, (t.thOf k).v.members[i]? = (s.thOf k).v.members[i]?.map fun m =>
        if 2 ≤ (s.thOf k).v.members.length ∧ i = n ∧ m.attached then { m with lost := true } else m)
    ∧ ∀ (i : Instr) (s : State) (r : Routing), Claim.routing s i = some r → s.lane = none → s.lockstep = true → s.th.pipe = [] →
        s.th.fetch = none → s.th.routeFault r = none → isDropped s.th.v r.ent = false → ¬Claim.noVector r.ent.op →
        let ms := s.th.v.members
        let home := isProduct r.ent = true ∨ r.ent.op = .mldt ∨ r.ent.op = .cbld
        (home → ∃ m, ms.head? = some m ∧ m.lost = true) →
        (¬home → ∃ j m, (r.ent.isMem = true → r.ent.start ≤ j) ∧ j < s.th.v.vl ∧ ms[(locate ms 0 j).1]? = some m ∧ m.attached = true
          ∧ m.lost = true) → Claim.MayTrap s →
        ∃ t, exec i s = .next t ∧ t.mem = s.mem
          ∧ t.th.trap.info = BitVec.ofNat 64 (cSPANFAULT + if s.th.fu.long then 2 ^ 57 else 0) ∧ t.th.pc = pcField s.th.trap.tvec

/-- R126, R229, R325: RELOCATION is one lane cycle of each gate that has granted a member of a thread's relocation: the bucket drains, and
where the charge fits it passes that gate. A relocation at its last gate is then over. -/
def Sys2Proof.Claim.RelocationsPass : Prop :=
  ∀ (s : State) (k : ThreadKey),
    (∃ t, exec (.relocation k) s = .next t ∧ t.mem = s.mem ∧ t = { s with threads := t.threads, cores := t.cores, parts := t.parts }
        ∧ ((s.thOf k).reloc = [] → t = s) ∧ (s.issues k = false → t = s)
        ∧ ∀ j, ∃ n, t.thOf j = { s.thOf j with reloc := (t.thOf j).reloc, seqAge := n })
      ∧ ∀ j n, (s.thOf k).reloc = [(j, n)] → s.issues k = true →
        let c := coreOf j
        let ch := s.relocCharge n
        let level := (s.core c).bucket - s.drainOf c
        let p := (s.thOf k).part
        (s.core c).granted = some j → ch ≠ 0 →
          (level + ch ≤ 4096 ∨ level = 0 → ∃ t, exec (.relocation k) s = .next t ∧ (t.thOf k).reloc = []
            ∧ (t.core c).bucket = min (level + ch) (2 ^ 21 - 1) ∧ (t.core c).charge = (s.core c).charge + ch ∧ (t.core c).granted = none
            ∧ (t.part p).gateu.get 0 (s.thOf k).owner = sat48 ((s.part p).gateu.get 0 (s.thOf k).owner) ch)
          ∧ (¬(level + ch ≤ 4096 ∨ level = 0) → ∃ t, exec (.relocation k) s = .next t ∧ (t.core c).bucket = level
            ∧ (t.core c).granted = some j ∧ (t.thOf k).reloc = [(j, n)] ∧ t = { s with cores := t.cores })

/-- Lost span members, and relocations. -/
def Obligations.SpansAndRelocations : Prop :=
  Claim.LostMembersTrap ∧ Claim.RelocationsPass

/-! ## Encoding -/

namespace Sys2Proof.Claim

/-- The payload of a vector-memory word (R89). -/
def payload : Instr → Option VPay
  | .vld o | .vldFf o | .vldO o | .vst o | .vstO o => some o.p
  | .vldS o | .vldSo o | .vstS o | .vstSo o => some o.p
  | .vldX o | .vldXo o | .vstX o | .vstXo o => some o.p
  | .vamoAdd o | .vamoMin o | .vamoMax o | .vamoAnd o | .vamoOr o | .vamoXor o | .vamoSwap o | .vscadd o => some o.p
  | .bxld _ _ _ p | .capp _ _ p => some p
  | _ => none

/-- One word of a fetch (R270), and the state once its request is made (R15). -/
def FetchesAt (s : State) (a : W64) (w : W32) (u : State) : Prop :=
  ∃ flat leaf, Claim.ReachesAt s .fetch a 4 (.read none) flat leaf ∧ w = BitVec.ofNat 32 (s.load flat 4)
    ∧ u = s.accessReqs (coreOf s.cur) s.ownKey flat 4 false none

/-- The words of the fetch unit at an address (R72), and the state once they are fetched. -/
def FetchUnitAt (s : State) (a : W64) (ws : List W32) (f : FetchForm) (u : State) : Prop :=
  (∃ w, isPrefix w = false ∧ ws = [w] ∧ FetchesAt s a w u ∧ f = { addr := a, word := w })
    ∨ ∃ w0 w1 u0, isPrefix w0 = true ∧ ws = [w0, w1] ∧ FetchesAt s a w0 u0 ∧ FetchesAt u0 (a + 4) w1 u
        ∧ f = { addr := a, word := w1, pre := w0, long := true }

/-- A turn of thread `k`'s control front, with nothing to do before it: the thread is ready, its queues are idle where the control
thread runs alone, no halt or user-level interrupt is due, and no lane thread's turn comes first (R38, R304, R354). -/
def FrontTurn (s : State) (k : ThreadKey) : Prop :=
  let t := s.thOf k
  k < 6144 ∧ s.ready k = true ∧ (s.lockstep = true → t.pipe = []) ∧ (t.atBoundary = true → t.haltPend = false ∧ t.uiDue = false)
    ∧ (t.turn = 0 ∨ t.laneList = []) ∧ t.hold.asks = true ∧ t.frontHeld = false

/-- The next step is a turn of thread `k`: the agenda says so, or has nothing and `k` is the next ready thread. -/
def NextTurn (s : State) (k : ThreadKey) (u : State) : Prop :=
  (∃ rest, s.agenda = .run k :: rest ∧ u = { s with agenda := rest }) ∨ (s.agenda = [] ∧ s.nextReady = some k ∧ u = s)

/-- The state in which the front of thread `k` fetches, and that in which it runs the fetch unit. -/
def fetching (s : State) (k : ThreadKey) : State := ({ s with cur := k, lane := none } : State).mod fun t => { t with turn := 1 }
def running (s : State) (f : FetchForm) : State := s.mod fun t => { t with fu := f, off := false }

/-- A turn of lane thread `vp` of thread `k`: the next in flight from the turn on (R38, R107). -/
def LaneTurn (s : State) (k : ThreadKey) (vp : Nat) (l : LaneTh) : Prop :=
  let t := s.thOf k
  k < 6144 ∧ s.ready k = true ∧ (s.lockstep = true → t.pipe = []) ∧ (t.atBoundary = true → t.haltPend = false ∧ t.uiDue = false)
    ∧ t.turn ≠ 0 ∧ t.laneList.find? (fun p => decide (t.turn - 1 ≤ p.1)) = some (vp, l)

/-- The state in which lane thread `vp` fetches. -/
def laneFetching (s : State) (k : ThreadKey) (vp : Nat) : State :=
  ({ s with cur := k, lane := some vp } : State).mod fun t => { t with turn := vp + 2 }

/-- A lane thread that has jumped finds a header here, and enters its block (R107). -/
def EntersBlock (l : LaneTh) (f : FetchForm) (n : Nat) : Prop :=
  l.jumped = true ∧ l.blkEnd = none ∧ f.long = false ∧ headerLen f.word = some n

/-- The gate of core `c` charges `ch` weight units to a thread's owner, once its bucket has drained for the lane cycles that this takes
(R323, R325, R329). -/
def GateCharged (c ch : Nat) (t : Thread) (s u : State) : Prop :=
  (∃ n, 1 ≤ n ∧ (u.core c).bucket = min ((s.core c).bucket - n * s.drainOf c + ch) (2 ^ 21 - 1))
    ∧ (u.core c).charge = (s.core c).charge + ch ∧ (u.part t.part).gateu.get 0 t.owner = sat48 ((s.part t.part).gateu.get 0 t.owner) ch
    ∧ (∀ d, d ≠ c → u.core d = s.core d) ∧ u = { s with cores := u.cores, parts := u.parts }

/-- The stage is enabled in the innermost loop's iteration (R104). -/
def StageOn (loops : List LoopRec) (stg : Nat) : Prop :=
  stg = 0 ∨ ∃ r rest, loops = r :: rest ∧ stg ≤ r.s ∧ stg ≤ r.i + 1 ∧ r.i + 1 < stg + r.t

end Sys2Proof.Claim

/-- R73–R90: decoding undoes encoding. Every instruction that has a word, with every operand at every value its fields admit, under every
stage, decodes to itself, and a pair exactly when its encoding takes two words. (An instruction whose short word carries no payload has
no pair.) -/
def Obligations.DecodeUndoesEncode : Prop :=
  ∀ (i : Instr) (stg : BitVec 4), i.encodable = true → stg.toNat ≤ 8 → (∀ p, Claim.payload i = some p → p.present = true ∨ stg = 0) →
    decode (encode i stg) = .ok ⟨i, decide ((encode i stg).length = 2), stg⟩

/-- R75–R90: words written out from the encodings of the spec decode to the instructions they stand for, and words that the first
checks of R91 refuse are refused under their number. -/
def Obligations.SpecWordsDecode : Prop :=
  let is (w : W32) (i : Instr) := decode [w] = .ok ⟨i, false, 0⟩
  let pair (p w : W32) (i : Instr) (stg : BitVec 4) := decode [p, w] = .ok ⟨i, true, stg⟩
  let refused (ws : List W32) (n : Nat) := decode ws = .error (.illop n)
  is 0b000001_00101_00110_00111_00000000001#32 (.sub 5 6 7)
    ∧ is 0b000010_00101_00110_1111111111111111#32 (.addi 5 6 (-1))
    ∧ is 0b001110_00001_00010_0000000000010000#32 (.ld 1 2 16)
    ∧ is 0b010100_00101_00110_00111_0_011_01_1_1001#32 (.amocas ⟨5, 6, 7, true, 1, 3⟩)
    ∧ is 0b011000_00001_00010_1111111111111100#32 (.beq 1 2 (-4))
    ∧ is 0b011110_00001_00010_0000000000000101#32 (.bnone 1 5)
    ∧ is 0b100000_11111111111111111111111110#32 (.j (-2))
    ∧ is 0b100010_00101_001_00_0000000000000110#32 (.loop 5 1 0 6)
    ∧ is 0b100100_00101_00000_0000_000000100000#32 (.srr 5 0x020)
    ∧ is 0b101000_000001_000010_000011_001_0_0000#32 (.vadd ⟨1, 2, 3, 1, false⟩)
    ∧ is 0b101010_000001_000010_000011_000_0_0010#32 (.vclt ⟨1, 2, 3, 0, false⟩)
    ∧ is 0b101011_000101_000010_000000_000_0_1010#32 (.mpop 5 2)
    ∧ is 0b101100_000101_000010_000110_001_1_0000#32 (.vraddT ⟨5, 2, 6, 1⟩)
    ∧ is 0b101110_000101_000100_0000000000_0000#32 (.vsetl 5 4)
    ∧ is 0b110000_00000_00111_010010_01_0000_0000#32 (.vcfg 0 7 0x12 1 0)
    ∧ is 0b110001_000001_000101_000110_010_1_0001#32 (.vldS ⟨1, 5, 6, 2, ⟨false, 0, 0, false, 0⟩⟩)
    ∧ is 0b110011_000010_001000_000110_000_0_1100#32 (.bxld 2 8 6 ⟨false, 0, 0, false, 0⟩)
    ∧ is 0b111000_000110_00011_00000_000_0010000#32 (.mclaim 6 3)
    ∧ is 0b111011_00101_00110_00000_00000110000#32 (.dsend 5 6)
    ∧ is 0b111100_00101_00110_00111_00000100000#32 (.rdharm 5 6 7)
    ∧ pair 0b111111_0010_0000000000000000000000#32 0b000001_00101_00110_00111_00000000000#32 (.add 5 6 7) 2
    ∧ pair 0b111111_0000_0000000000000000000001#32 0b000010_00101_00110_0000000000000000#32 (.addi 5 6 0x10000) 0
    ∧ pair 0b111111_0000_00_000_1_00001_00000000000#32 0b110001_100000_000101_000000_000_0_0000#32
        (.vld ⟨32, 5, 0, ⟨true, 0, 0, true, 1⟩⟩) 0
    ∧ pair 0b111111_0000_000100_000101_0000000000#32 0b111000_000000_00011_00000_001_0000001#32 (.mmax 0 3 4 5 1) 0
    ∧ refused [0x00000000#32] 1
    ∧ refused [0b000001_00101_00110_00111_00000001001#32] 2
    ∧ refused [0b000001_00101_00110_00001_00000110000#32] 3
    ∧ refused [0b111000_000000_00011_00000_001_0000001#32] 4
    ∧ refused [0b111111_0000_0000000000000000000000#32, 0b111111_0000_0000000000000000000000#32] 4
    ∧ refused [0b111101_00001_000000000000000000000#32] 5

/-! ## The step -/

/-- R36, R72, R91, R270: a step takes the next event of the agenda, or a turn. In a turn the front fetches the unit at its pc: where its
words decode to an instruction whose stage is enabled (R104), and no body's end cuts the pair, the step is exec of that instruction;
where they do not decode, or the stage is out of range, it is the ILLOP trap. -/
def Sys2Proof.Claim.FrontStepRunsDecoded : Prop :=
  (∀ (s : State) (i : Instr) (rest : List Turn), s.agenda = .event i :: rest → step s = exec i { s with agenda := rest })
    ∧ ∀ (s u x : State) (k : ThreadKey) (ws : List W32) (f : FetchForm), Claim.NextTurn s k u → Claim.FrontTurn u k →
        let v := Claim.fetching u k
        let runs (i : Instr) := step s = onNext (fun t => { t with lane := none }) (exec i (Claim.running x f))
        Claim.FetchUnitAt v v.th.pc ws f x →
        x = { v with arbs := x.arbs, budgets := x.budgets } ∧ (∀ i long stg, decode ws = .ok ⟨i, long, stg⟩ → (∀ r ∈ v.th.loops, f.long = true → r.e ≠ v.th.pc + 4) →
            Claim.StageOn v.th.loops stg.toNat → runs i)
          ∧ (∀ n, decode ws = .error (.illop n) → runs (.unallocatedWordFetch n))
          ∧ ∀ i long stg, decode ws = .ok ⟨i, long, stg⟩ →
            ((∃ r ∈ v.th.loops, f.long = true ∧ r.e = v.th.pc + 4) ∨ (stg ≠ 0 ∧ ∀ r rest, v.th.loops = r :: rest → r.s < stg.toNat)) →
            runs (.unallocatedWordFetch 4)

/-- R105, R107, R323: in a lane thread's turn the step is exec of the instruction at its own pc, where R105 and R106 let it hold that
instruction; and its core's gate charges WTAB[17] once the instruction has issued, which one that still waits has not (assumption 27). At
the header of a block that it has jumped to, it enters the block. -/
def Sys2Proof.Claim.LaneStepRunsDecoded : Prop :=
  ∀ (s u x : State) (k : ThreadKey) (vp : Nat) (l : LaneTh) (ws : List W32) (f : FetchForm), Claim.NextTurn s k u → Claim.LaneTurn u k vp l →
    let v := Claim.laneFetching u k vp
    Claim.FetchUnitAt v l.pc ws f x →
    (∀ n, Claim.EntersBlock l f n → ∃ t, step s = .next t ∧ t.th.fetch.bind (laneOf · vp) = some (enterBlock n l))
      ∧ ∀ i long regs, decode ws = .ok ⟨i, long, 0⟩ → (∀ n, ¬Claim.EntersBlock l f n) → ¬(f.long = true ∧ l.blkEnd = some (l.pc + 4)) →
        laneRegs i = some regs → (∀ r ∈ regs, r ≠ 0 → (v.th.laneTag r.toNat).bits ∈ [8, 16, 32, 64]) →
        ∃ t y, exec i (Claim.running x f) = .next t ∧ step s = .next { y with lane := none }
          ∧ let same := t.th.fetch.bind (laneOf · vp) = v.th.fetch.bind (laneOf · vp)
            (v.wtab 17 = 0 ∨ (isTransfer i = false ∧ same) → y = t)
            ∧ (v.wtab 17 ≠ 0 → isTransfer i = true ∨ ¬same → Claim.GateCharged (coreAt v.th.laneDist vp) (v.wtab 17) v.th t y)

/-- What a step of a thread runs: its control front's instruction, or a lane thread's. -/
def Obligations.StepRunsDecoded : Prop := Claim.FrontStepRunsDecoded ∧ Claim.LaneStepRunsDecoded

/-- The memory's canonical form is kept by every step: every event, every instruction and every turn, from every state. -/
def Obligations.StepKeepsMemory : Prop := ∀ (s t : State), MemOk s → step s = .next t → MemOk t

/-- Every instruction of the table answers a next state in every state, and a step stops only at a turn of a thread that the package
does not have. -/
def Obligations.NothingStops : Prop :=
  (∀ (i : Instr) (s : State), ∃ t, exec i s = .next t)
    ∧ ∀ (s : State), (∃ t, step s = .next t)
        ∨ ∃ k rest, s.agenda = .run k :: rest ∧ 6144 ≤ k ∧ step s = .fault (.noSuchThread k)

/-- R5, R43–R58, R112, R113, R172, R178, R207, R222, R254, R271, R277, R297, R316, R318, R323, R326, R327, R330, R343, R356, R358: the
values the spec gives for reset. -/
def Obligations.ResetHolds : Prop :=
  let s := State.reset
  MemOk s ∧ (∀ a, s.byte a = 0) ∧ step s = .next s
    ∧ (∀ k, k < 6144 →
        let u : State := { s with cur := k }
        (∀ r, u.getS r = 0) ∧ (∀ n, n < 32 → tagOf u.th.v n = .n64) ∧ (∀ n, n < 32 → u.th.v.vregs.get 0 n = 0)
        ∧ (∀ n j, 1 ≤ n → n < 8 → maskBit u.th.v u.th.v.members n j = false) ∧ (∀ j, maskBit u.th.v u.th.v.members 0 j = true)
        ∧ u.th.pc = 0 ∧ u.th.pipe = [] ∧ u.th.loops = [] ∧ u.th.fetch = none ∧ u.th.halted = false
        ∧ (∀ n, n ∈ [0x000, 0x001, 0x002, 0x003, 0x020, 0x021, 0x022, 0x023, 0x024, 0x025, 0x026, 0x027, 0x038, 0x039, 0x040, 0x041, 0x042,
              0x050, 0x05F, 0x060, 0x070, 0x071, 0x072, 0x073, 0x400, 0x401, 0x402, 0x403, 0x411, 0x420, 0x430] → Claim.special u n = some 0)
        ∧ (∀ n, n ∈ [0x008, 0x009, 0x00A, 0x00B] → Claim.special u n = some 0x0303030303030303)
        ∧ Claim.special u 0x004 = some 0x300 ∧ Claim.special u 0x010 = some 2 ∧ Claim.special u 0x030 = some 7
        ∧ Claim.special u 0x044 = some 1 ∧ Claim.special u 0x045 = some 1
        ∧ Claim.special u 0x061 = some (BitVec.ofNat 64 (2048 + 18432 * 2 ^ 16)) ∧ Claim.special u 0x431 = some 4096
        ∧ Claim.special u 0x450 = some 0x100)
    ∧ (∀ c, (s.core c).lg = [0, 0, 0, 0] ∧ (∀ x, (s.core c).slot x = { st := .free, shape := 0, data := 0 })
        ∧ (∀ x, ((s.core c).cbs.get {} x).v = false))
    ∧ (∀ p, p < 16 → s.mgrReg (0x980 + p) = 0x4040 ∧ s.mgrReg (0x9D0 + p) = BitVec.ofNat 64 (64 + 3200 * 2 ^ 8 + 64 * 2 ^ 20))
    ∧ (∀ n, n < 128 → s.mgrReg (0x900 + n) = 0x4040404040404040) ∧ s.mgrReg 0x990 = 0x4040
    ∧ (∀ x, (s.str x).limit = 64 ∧ (s.str x).off = false ∧ (s.str x).half = false ∧ (s.str x).deficit = [0, 0, 0, 0])
    ∧ (∀ c, (s.ctx c).st = .dead) ∧ (∀ q, (s.q q).st = .disabled ∧ (s.q q).tail = 0 ∧ (s.q q).logd = 6 ∧ (s.q q).seqw = 64)
    ∧ ∀ f, (s.fn f).evctl = 6 ∧ (s.fn f).trctl = 6 ∧ (s.fn f).frozen = false ∧ (s.fn f).evwr = 0

/-! ## Barriers -/

namespace Sys2Proof.Claim

/-- The object at U(a): 64 bytes in the global space whose address is aligned and translates to `flat` (R255). -/
def ObjectAt (s : State) (kind : AKind) (a : SReg) (flat : Nat) : Prop :=
  (s.getS a).toNat % 64 = 0 ∧ (s.getS a).toNat < 2 ^ 60 ∧ ∃ leaf, ReachesAt s kind (s.getS a) 64 (.read none) flat leaf

/-- The 64 bytes of an initialised object (R251). -/
def objectBytes (o : BarObj) : List Byte :=
  leBytes 64 (o.count + o.bscope * 2 ^ 16 + 0x5A * 2 ^ 24 + o.arrived * 2 ^ 32 + o.phase * 2 ^ 64 + o.ctx % 2 ^ 12 * 2 ^ 128
    + o.hcore % 2 ^ 11 * 2 ^ 140 + o.lq % 2 ^ 14 * 2 ^ 192 + o.lseq % 2 ^ 50 * 2 ^ 206)

/-- An entry of BARPEND (R254). -/
def pendingEntry (a : W64) (phase : Nat) : W64 := word [(1, 0), (phase % 2, 1), (a.toNat / 2 ^ 6 % 2 ^ 51, 6), (phase % 128, 57)]

/-- The entry of an object's address, if any. -/
def EntryOf (t : Thread) (a : W64) (i : Nat) : Prop :=
  let at_ (j : Nat) := (t.barpend.get 0 j).getLsbD 0 = true ∧ (t.barpend.get 0 j).toNat / 2 ^ 6 % 2 ^ 51 = a.toNat / 2 ^ 6 % 2 ^ 51
  i < 4 ∧ at_ i ∧ ∀ j, j < i → ¬at_ j
def NoEntry (t : Thread) (a : W64) : Prop := ∀ i, ¬EntryOf t a i
/-- The first entry free. -/
def FreeEntry (t : Thread) (i : Nat) : Prop :=
  i < 4 ∧ (t.barpend.get 0 i).getLsbD 0 = false ∧ ∀ j, j < i → (t.barpend.get 0 j).getLsbD 0 = true
/-- PH of an entry. -/
def recorded (t : Thread) (i : Nat) : Nat := (t.barpend.get 0 i).toNat / 2 ^ 57

/-- The home unit has the object, or a place for it. -/
def HasPlace (s : State) (flat : Nat) : Prop :=
  s.barActive flat ≠ none ∨ (s.bars.filter fun e => e.1 / 2 ^ 33 / 16 == flat / 2 ^ 33 / 16).length < 1024

/-- An entry of BARPEND once a wait at address `a` has ended: one of that address is free (R254, R257). -/
def freed (w a : W64) : W64 :=
  if w.getLsbD 0 = true ∧ w.toNat / 2 ^ 6 % 2 ^ 51 = a.toNat / 2 ^ 6 % 2 ^ 51 then w &&& ~~~(1 : W64) else w

/-- The wait of a thread at the object at `flat` has ended: its entry is free, and its front stands at the fetch unit after the wait (R257,
R259). -/
def Released (flat : Nat) (a b : Thread) : Prop :=
  ∀ next va, a.hold = .barrier flat next va →
    b = { a with pc := b.pc, loops := b.loops, hold := .none, barHidden := none, barpend := b.barpend }
      ∧ (b.loops, b.pc) = loopEnd a.loops next ∧ ∀ j, b.barpend.get 0 j = freed (a.barpend.get 0 j) va

/-- Whether a thread waits at the object at `flat`. -/
def WaitsAt (flat : Nat) (a : Thread) : Prop := ∃ next va, a.hold = .barrier flat next va

/-- A barrier instruction changes its thread, the object, and the arbiters it asks; `woken` says whether the waits of the others at the
object end. -/
def BarrierOnly (flat : Nat) (woken : Bool) (s t : State) : Prop :=
  t = { s with threads := t.threads, bars := t.bars, arbs := t.arbs, budgets := t.budgets, mem := t.mem }
    ∧ (∀ x, x ≠ flat → t.barActive x = s.barActive x)
    ∧ (∀ j, j ≠ s.cur → (woken = true → Released flat (s.thOf j) (t.thOf j))
        ∧ (woken = false ∨ ¬WaitsAt flat (s.thOf j) → t.thOf j = s.thOf j))
    ∧ t.th = { s.th with pc := t.th.pc, loops := t.th.loops, hold := t.th.hold, stall := s.th.stall.del 0, barpend := t.th.barpend
                         barHidden := t.th.barHidden }

/-- The home unit is full of objects that are not idle (R252). -/
def FullUnit (s : State) (flat : Nat) : Prop :=
  ¬HasPlace s flat ∧ ∀ e ∈ s.bars, e.1 / 2 ^ 33 / 16 = flat / 2 ^ 33 / 16 → e.2.arrived ≠ 0 ∨ e.2.waiters ≠ [] ∨ e.2.broken = true

/-- The object after one arrival (R257). -/
def arrived (o : BarObj) : BarObj :=
  if (o.arrived + 1) % 2 ^ 16 = o.count then { o with arrived := 0, phase := (o.phase + 1) % 2 ^ 64, waiters := [] }
  else { o with arrived := (o.arrived + 1) % 2 ^ 16 }

/-- Whether one arrival completes the phase. -/
def completes (o : BarObj) : Bool := (o.arrived + 1) % 2 ^ 16 == o.count

end Sys2Proof.Claim

/-- R251, R252, R255, R256: barinit writes the 64 bytes of a fresh object, and the active object with them, once every older access is
performed. A bad operand traps BARFAULT 8, a kernel scope without BKS 9, an object with arrivals or waiters 4; a misaligned address
MISALIGN. BARRIER_WRITEBACK writes an idle object that is not on a lent page back and drops it. -/
def Sys2Proof.Claim.BarriersInitialised : Prop :=
  (∀ (s : State) (a b : SReg) (flat : Nat), s.lane = none →
    let i := Instr.barinit a b
    let x := (s.getS b).toNat
    let l := s.launchOf s.cur
    let good := x % 2 ^ 16 ≠ 0 ∧ x / 2 ^ 16 ≤ 3 ∧ (x / 2 ^ 16 = 3 → l.2.2 = true)
    let quiet := ∀ o, s.barActive flat = some o → o.arrived = 0 ∧ o.waiters = []
    let o : BarObj := { count := x % 2 ^ 16, bscope := x / 2 ^ 16, arrived := 0, phase := 0, ctx := s.th.ctx, hcore := coreOf s.cur
                        lq := l.1, lseq := l.2.1, inited := true, waiters := [], broken := false }
    ((s.getS a).toNat % 64 ≠ 0 → Claim.MayTrap s → Claim.Traps i cMISALIGN 0 (s.getS a) s)
      ∧ (Claim.ObjectAt s .write a flat → s.barFlat (s.getS a) = some flat → good → quiet → s.th.pipe = [] → s.th.pending = [] →
          ∃ t, exec i s = .next t ∧ GoesOn s.th t.th ∧ t.th.hold = .none ∧ t.th.barpend = s.th.barpend ∧ t.th.barHidden = s.th.barHidden
            ∧ (∀ y, t.byte y = if flat ≤ y ∧ y < flat + 64 then (Claim.objectBytes o).getD (y - flat) 0 else s.byte y)
            ∧ t.barActive flat = (s.barActive flat).map (fun _ => o) ∧ (∀ y, y ≠ flat → t.barActive y = s.barActive y)
            ∧ t = { s with threads := t.threads, bars := t.bars, arbs := t.arbs, budgets := t.budgets, mem := t.mem }
            ∧ t.th = { s.th with pc := t.th.pc, loops := t.th.loops, hold := .none, stall := s.th.stall.del 0 })
      ∧ (Claim.ObjectAt s .write a flat → s.barFlat (s.getS a) = some flat → Claim.MayTrap s →
          (¬(x % 2 ^ 16 ≠ 0 ∧ x / 2 ^ 16 ≤ 3) → Claim.Traps i cBARFAULT 8 0 s)
          ∧ (x % 2 ^ 16 ≠ 0 → x / 2 ^ 16 = 3 → l.2.2 = false → Claim.Traps i cBARFAULT 9 0 s)
          ∧ (good → ¬quiet → Claim.Traps i cBARFAULT 4 0 s)))
    ∧ ∀ (s : State) (flat : Nat) (o : BarObj), s.barActive flat = some o → s.isLent flat = false →
        (o.arrived = 0 → o.waiters = [] → o.broken = false → ∃ t, exec (.barrierWriteback flat) s = .next t ∧ t.barActive flat = none
            ∧ (∀ y, y ≠ flat → t.barActive y = s.barActive y) ∧ t = { s with bars := t.bars, threads := t.threads, mem := t.mem, arbs := t.arbs, budgets := t.budgets }
            ∧ Claim.Stored flat (Claim.objectBytes o) s t)
          ∧ (o.arrived ≠ 0 ∨ o.waiters ≠ [] ∨ o.broken = true → exec (.barrierWriteback flat) s = .next s)

/-- R252, R254, R257–R259: bararr records one arrival of a thread that may take part in an initialised object, in the object and in the
thread's entry; the last arrival of a phase completes it, and every waiter goes on at once. barwait ends once the phase of its entry has
completed, and waits otherwise; barwait.a does both. Where they may not, they trap BARFAULT with the DETAIL of R258; an arrival in a unit
full of objects that are not idle traps DETAIL 6, while a wait there goes on. -/
def Sys2Proof.Claim.BarriersArriveAndWait : Prop :=
  ∀ (s : State) (a : SReg) (flat : Nat), s.lane = none → s.th.hold.asks = true → s.th.hold ≠ .broke → Claim.ObjectAt s .read a flat →
    let ea := s.getS a
    let o := s.barObj flat
    let may := o.inited = true ∧ o.broken = false ∧ s.mayArrive s.cur o = true
    let open_ := ∀ i, Claim.EntryOf s.th ea i → Claim.recorded s.th i ≠ o.phase % 128
    let performed := s.th.pipe = [] ∧ s.th.pending = []
    let arrival (t : State) := Claim.BarrierOnly flat (Claim.completes o) s t ∧ t.mem = s.mem
    let here := Hold.barrier flat s.th.fu.nextAddr ea
    (Claim.HasPlace s flat → may → open_ → performed →
        (∀ i, Claim.EntryOf s.th ea i ∨ (Claim.NoEntry s.th ea ∧ Claim.FreeEntry s.th i) →
          ∃ t, exec (.bararr a) s = .next t ∧ arrival t ∧ GoesOn s.th t.th ∧ t.th.hold = .none ∧ t.barActive flat = some (Claim.arrived o)
            ∧ t.th.barHidden = s.th.barHidden
            ∧ ∀ j, t.th.barpend.get 0 j = if j = i then Claim.pendingEntry ea o.phase else s.th.barpend.get 0 j)
        ∧ (s.th.barHidden = none → Claim.completes o = true →
          ∃ t, exec (.barwaitA a) s = .next t ∧ arrival t ∧ GoesOn s.th t.th ∧ t.th.hold = .none ∧ t.barActive flat = some (Claim.arrived o)
            ∧ t.th.barHidden = none
            ∧ (Claim.NoEntry s.th ea → (∀ i, ¬Claim.FreeEntry s.th i) → ∀ j, t.th.barpend.get 0 j = Claim.freed (s.th.barpend.get 0 j) ea)
            ∧ ∀ i, Claim.EntryOf s.th ea i ∨ (Claim.NoEntry s.th ea ∧ Claim.FreeEntry s.th i) → ∀ j, t.th.barpend.get 0 j =
              Claim.freed (if j = i then Claim.pendingEntry ea o.phase else s.th.barpend.get 0 j) ea)
        ∧ (s.th.barHidden = none → Claim.completes o = false →
          ∃ t, exec (.barwaitA a) s = .next t ∧ arrival t ∧ t.th.pc = s.th.pc ∧ t.th.loops = s.th.loops ∧ t.th.hold = here
            ∧ t.barActive flat = some { Claim.arrived o with
                waiters := if s.th.waiter ∈ o.waiters then o.waiters else o.waiters ++ [s.th.waiter] }
            ∧ t.th.barHidden = some (s.th.fu.addr, Claim.pendingEntry ea o.phase)))
      ∧ (Claim.HasPlace s flat → Claim.MayTrap s →
          (o.inited = false → Claim.Traps (.bararr a) cBARFAULT 1 0 s)
          ∧ (o.inited = true → o.broken = true → Claim.Traps (.bararr a) cBARFAULT 10 0 s)
          ∧ (o.inited = true → o.broken = false → s.mayArrive s.cur o = false → Claim.Traps (.bararr a) cBARFAULT 2 0 s)
          ∧ (may → ¬open_ → Claim.Traps (.bararr a) cBARFAULT 3 0 s)
          ∧ (may → Claim.NoEntry s.th ea → (∀ i, ¬Claim.FreeEntry s.th i) → Claim.Traps (.bararr a) cBARFAULT 7 0 s))
      ∧ (Claim.MayTrap s → Claim.NoEntry s.th ea → Claim.Traps (.barwait a) cBARFAULT 5 0 s)
      ∧ (Claim.MayTrap s → Claim.FullUnit s flat → Claim.Traps (.bararr a) cBARFAULT 6 0 s)
      ∧ (∀ i, Claim.EntryOf s.th ea i → o.broken = false →
          (o.phase % 128 ≠ Claim.recorded s.th i → ∃ t, exec (.barwait a) s = .next t ∧ Claim.BarrierOnly flat false s t ∧ t.mem = s.mem
            ∧ GoesOn s.th t.th ∧ t.th.hold = .none ∧ t.th.barHidden = none
            ∧ t.barActive flat = (s.barActive flat).map (fun o => { o with waiters := o.waiters.filter (· != s.th.waiter) })
            ∧ ∀ j, t.th.barpend.get 0 j = Claim.freed (s.th.barpend.get 0 j) ea)
          ∧ (o.phase % 128 = Claim.recorded s.th i → Claim.HasPlace s flat → ∃ t, exec (.barwait a) s = .next t ∧ Claim.BarrierOnly flat false s t
            ∧ t.mem = s.mem ∧ t.th = { s.th with hold := here, stall := s.th.stall.del 0 }
            ∧ t.barActive flat = some { o with
                waiters := if s.th.waiter ∈ o.waiters then o.waiters else o.waiters ++ [s.th.waiter] })
          ∧ (o.phase % 128 = Claim.recorded s.th i → Claim.FullUnit s flat → ∃ t, exec (.barwait a) s = .next t ∧ OnlyThread s.cur s t
            ∧ t.th = { s.th with hold := here, stall := s.th.stall.del 0 }))
      ∧ (∀ i, Claim.EntryOf s.th ea i → o.broken = true → Claim.MayTrap s → Claim.Traps (.barwait a) cBARFAULT 10 0 s)

/-- R259: BARRIER_BROKEN breaks an active object: its arrivals are gone and each waiter's trap is due, which its wait then takes. -/
def Sys2Proof.Claim.BarriersBreak : Prop :=
  (∀ (s : State) (flat : Nat),
      (s.barActive flat = none → exec (.barrierBroken flat) s = .next s)
        ∧ ∀ o, s.barActive flat = some o → ∃ t, exec (.barrierBroken flat) s = .next t ∧ t = { s with threads := t.threads, bars := t.bars }
          ∧ t.barActive flat = some { o with broken := true, arrived := 0, waiters := [] } ∧ (∀ y, y ≠ flat → t.barActive y = s.barActive y)
          ∧ ∀ j, (Claim.WaitsAt flat (s.thOf j) → t.thOf j = { s.thOf j with hold := .broke })
            ∧ (¬Claim.WaitsAt flat (s.thOf j) → t.thOf j = s.thOf j))
    ∧ ∀ (s : State) (a : SReg), s.lane = none → s.th.hold = .broke →
        (Claim.MayTrap s → Claim.Traps (.barwait a) cBARFAULT 10 0 s ∧ Claim.Traps (.barwaitA a) cBARFAULT 10 0 s)
          ∧ (s.th.canStop = false → exec (.barwait a) s = .next s ∧ exec (.barwaitA a) s = .next s)

/-- Barriers. -/
def Obligations.BarriersMeet : Prop :=
  Claim.BarriersInitialised ∧ Claim.BarriersArriveAndWait ∧ Claim.BarriersBreak

/-! ## Asynchronous copy -/

namespace Sys2Proof.Claim

/-- The control front routes an instruction to idle queues that drain within the step: it is enabled, no lane thread is in flight, and the
thread's older stores are performed. -/
def Idle (s : State) : Prop :=
  s.lane = none ∧ s.lockstep = true ∧ s.th.pipe = [] ∧ s.th.fetch = none ∧ s.th.off = false ∧ s.th.pending = []

/-- The entry of `r`, routed at `s`, reads 64 bytes at a scalar address (R280, R294): they are `bs`, and the state is then `v`. -/
def EntryReads (s : State) (r : Routing) (ea : W64) (bs : List Byte) (v : State) : Prop :=
  ∃ w, readRun (s.mod (·.routed r)) s.cur 1 (!s.th.sup) (scalarTarget (coreOf s.cur)) ea 64 = .ok w bs ∧ v = w.endReplies s.cur 1

/-- The entry of `r`, routed at `s`, traps in state `v` (R114): it stands in the stop record, marked as stopped part-way, and the resume
address is the fetch unit after it. -/
def EntryTraps (r : Routing) (cause detail : Nat) (va : W64) (s v t : State) : Prop :=
  OnlyThread s.cur v t
    ∧ TrapEntered { v.thOf s.cur with pipe := [{ r.ent with partWay := true }] } (t.thOf s.cur) (trapInfo cause detail s.th.fu.long) va
        s.th.fu.addr (loopEnd s.th.loops s.th.fu.nextAddr).2

/-- The entry of `r`, routed at `s`, waits in state `v` and is the one entry of the queues. -/
def EntryWaits (r : Routing) (s v t : State) : Prop :=
  t = { v with threads := t.threads } ∧ (∀ j, j ≠ s.cur → t.thOf j = v.thOf j)
    ∧ t.thOf s.cur = { v.thOf s.cur with pipe := [{ r.ent with begun := true }] } ∧ GoesOn s.th (t.thOf s.cur)

/-- Of a thread, what an event of its copy channel `ch` may change: the channel, the wait it ends, the interrupt it raises, and what its
accesses leave; a wait that ends goes on after it. -/
def ChannelOnly (ch : Nat) (a b : Thread) : Prop :=
  b = { a with ch0 := b.ch0, ch1 := b.ch1, pc := b.pc, loops := b.loops, hold := b.hold, ui := { a.ui with pend := b.ui.pend }
               replies := b.replies, asked := b.asked
               stall := b.stall, watchHit := b.watchHit, exitedOf := b.exitedOf }
    ∧ (ch = 0 → b.ch1 = a.ch1) ∧ (ch ≠ 0 → b.ch0 = a.ch0)
    ∧ (b.pc = a.pc ∧ b.loops = a.loops ∨ b.pc = a.endWait.pc ∧ b.loops = a.endWait.loops)

/-- The next strip of a channel that may start (R295): of the first transfer with one unstarted, paced or not. -/
def NextStrip (c : Chan) (x : Xfer) : Prop :=
  c.xfers.find? (fun y => decide (y.started < y.count)) = some x ∧ (x.lead = 0 ∨ x.started + 1 ≤ x.pace + x.lead)

/-- The started strips of transfer `x` are one more. -/
def oneMore (c : Chan) (x : Xfer) : List Xfer := c.xfers.map fun y => if y.first = x.first then { y with started := y.started + 1 } else y

end Sys2Proof.Claim

/-- R294, R295, R29: xcfg, in the access queue, reads its descriptor, gives the transfer the channel's next ⌈TOTAL ÷ STRIP⌉ identifiers, closes the pacing of the
earlier transfers, and starts its strips; a misaligned, bad or too large descriptor, or a frozen channel, traps and leaves the
channel unchanged. -/
def Obligations.TransfersConfigured : Prop :=
  ∀ (s v : State) (a : SReg) (n : BitVec 5) (bs : List Byte), Claim.Idle s → n.toNat < 2 →
    let i := Instr.xcfg a n
    let r := xcfgRouting a n s.th
    let k := s.cur
    let ea := s.getS a
    Claim.EntryReads s r ea bs v →
    let d := leNat bs
    let total := d / 2 ^ 128 % 2 ^ 32
    let strip := d / 2 ^ 160 % 2 ^ 16
    let code := d / 2 ^ 176 % 2 ^ 3
    let good := d / 2 ^ 186 % 2 ^ 6 = 0 ∧ d / 2 ^ 256 % 2 ^ 256 = 0 ∧ strip ≠ 0 ∧ code ≤ 3 ∧ d / 2 ^ 184 % 2 ^ 2 ≠ 3 ∧ strip * 2 ^ code ≤ 65536
    let count := (total + strip - 1) / strip
    let c := s.th.chan n.toNat
    let traps (cause detail : Nat) (va : W64) := Claim.MayTrap s → ∃ t, exec i s = .next t ∧ Claim.EntryTraps r cause detail va s v t
    (ea.toNat % 64 ≠ 0 → traps cMISALIGN 0 ea)
      ∧ (ea.toNat % 64 = 0 → ¬good → traps cCOPYFAULT 1 0)
      ∧ (ea.toNat % 64 = 0 → good → c.frz = true → traps cCOPYFAULT 2 0)
      ∧ (ea.toNat % 64 = 0 → good → c.frz = false → 2 ^ 48 < c.next + count → traps cCOPYFAULT 4 0)
      ∧ (ea.toNat % 64 = 0 → good → c.frz = false → c.next + count ≤ 2 ^ 48 → ∃ t, exec i s = .next t ∧ GoesOn s.th (t.thOf k)
          ∧ t = { v with threads := t.threads, agenda := t.agenda } ∧ (∀ j, j ≠ k → t.thOf j = v.thOf j)
          ∧ t.thOf k = { v.thOf k with pipe := [], ch0 := (t.thOf k).ch0, ch1 := (t.thOf k).ch1 }
          ∧ (t.thOf k).chan (1 - n.toNat) = s.th.chan (1 - n.toNat)
          ∧ (total = 0 → (t.thOf k).chan n.toNat = c ∧ t.agenda = v.agenda)
          ∧ (total ≠ 0 → t.agenda = v.agenda ++ [.event (.stripStart k n.toNat)]
            ∧ ∃ x, (t.thOf k).chan n.toNat = { c with next := c.next + count, xfers := (c.xfers.map fun y => { y with lead := 0 }) ++ [x] }
              ∧ x.first = c.next ∧ x.count = count ∧ x.total = total ∧ x.strip = strip ∧ x.esz = 2 ^ code ∧ x.started = 0 ∧ x.pace = 0
              ∧ x.isBx = false ∧ x.mtr = s.th.v.mtr ∧ x.src = BitVec.ofNat 64 (d % 2 ^ 64) ∧ x.dst = BitVec.ofNat 64 (d / 2 ^ 64 % 2 ^ 64)
              ∧ x.dloc = decide (d / 2 ^ 179 % 2 = 1) ∧ x.lead = d / 2 ^ 180 % 2 ^ 4 ∧ x.irq = d / 2 ^ 184 % 2 ^ 2
              ∧ x.sstr = Claim.signed 4 (d / 2 ^ 192 % 2 ^ 32) ∧ x.dstr = Claim.signed 4 (d / 2 ^ 224 % 2 ^ 32)))

/-- R298: "It sets d ← NEXT(ch) − 1": xtid writes the last identifier assigned on the channel, and nothing else. -/
def Sys2Proof.Claim.TransferIdentifiersRead : Prop :=
  ∀ (s : State) (d : SReg) (n : BitVec 5), s.lane = none → n.toNat < 2 →
    ∃ t, exec (.xtid d n) s = .next t ∧ FrontWrites d (BitVec.ofNat 64 ((s.th.chan n.toNat).next - 1)) s t

/-- R299: xwait of an identifier not assigned traps COPYFAULT 3; of one that has completed goes on; otherwise it traps COPYFAULT 2 on a
frozen channel, and waits for the channel on any other. -/
def Sys2Proof.Claim.TransfersAwaited : Prop :=
  ∀ (s : State) (a : SReg) (n : BitVec 5), s.lane = none → n.toNat < 2 →
    let c := s.th.chan n.toNat
    let t := (s.getS a).toNat
    (c.next ≤ t → Claim.MayTrap s → Claim.Traps (.xwait a n) cCOPYFAULT 3 0 s)
      ∧ (t < c.next → t < c.done → Claim.Passes (.xwait a n) s)
      ∧ (t < c.next → c.done ≤ t → c.frz = true → Claim.MayTrap s → Claim.Traps (.xwait a n) cCOPYFAULT 2 0 s)
      ∧ (t < c.next → c.done ≤ t → c.frz = false → Claim.Holds (.xwait n.toNat) (.xwait a n) s)

/-- Xtid and xwait. -/
def Obligations.TransfersIdentifiedAndAwaited : Prop :=
  Claim.TransferIdentifiersRead ∧ Claim.TransfersAwaited

/-- R295, R296, R297, R300, R302, R303: STRIP_START asks the channel's engine for the next strip, in identifier order and as its pacing lets
it, and starts it once the engine has granted the command. STRIP_COMPLETE and BXLD_COMPLETE perform the accesses of a started one that
stands behind no older strip with a destination in common: its writes take effect in element order, a source that they change is read as it
was or as they leave it, and DONE passes every identifier up to the first that has not completed. A strip buffer error freezes the channel
with ERR 5, and a supervisor's write to FRZ discards its unstarted strips and passes every identifier. -/
def Obligations.TransfersRun : Prop :=
  ∀ (s : State) (k : ThreadKey) (ch : Nat), ch < 2 →
    let c := (s.thOf k).chan ch
    let busy := (s.arb (engineOf (coreOf k))).busy
    let others (t : State) := ∀ j, j ≠ k → t.thOf j = s.thOf j
    let freezes (i : Instr) (err : Nat) := ∃ t, exec i s = .next t ∧ t = { s with threads := t.threads, agenda := t.agenda } ∧ others t
      ∧ Claim.ChannelOnly ch (s.thOf k) (t.thOf k) ∧ (t.thOf k).chan ch = { c with frz := true, err := if c.frz then c.err else err, active := [], waiting := [] }
    let starts (d : Chan) (l : List Turn) := ∃ t, exec (.stripStart k ch) s = .next t
      ∧ t = { s with threads := t.threads, arbs := t.arbs, agenda := t.agenda } ∧ others t ∧ t.agenda = s.agenda ++ l
      ∧ t.thOf k = { s.thOf k with ch0 := (t.thOf k).ch0, ch1 := (t.thOf k).ch1 }
      ∧ (t.thOf k).chan ch = d ∧ (t.thOf k).chan (1 - ch) = (s.thOf k).chan (1 - ch)
    (∀ x, c.frz = false → Claim.NextStrip c x →
        let id := x.first + x.started
        (id ∈ c.finished → starts { c with xfers := Claim.oneMore c x } [.event (.stripStart k ch)])
          ∧ (id ∉ c.finished → c.go = true ∨ (c.asked = false ∧ busy = false) →
            starts { c with active := c.active ++ [id], xfers := Claim.oneMore c x, asked := false, go := false }
              [.event (if x.isBx then .bxldComplete k ch id else .stripComplete k ch id), .event (.stripStart k ch)])
          ∧ (id ∉ c.finished → c.go = false → c.asked = false → busy = true → starts { c with asked := true } [])
          ∧ (id ∉ c.finished → c.go = false → c.asked = true → exec (.stripStart k ch) s = .next s))
      ∧ (c.frz = true ∨ (∀ x, ¬Claim.NextStrip c x) → exec (.stripStart k ch) s = .next s)
      ∧ (∀ id x i, (i = Instr.stripComplete k ch id ∨ (i = Instr.bxldComplete k ch id ∧ x.isBx = true)) → id ∈ c.active →
          (∀ p, (id, p) ∉ c.waiting) → s.behind k c id = false → c.xferOf id = some x →
          let srcs := (x.elems id).map (·.1)
          let order := s.readOrder k x srcs
          let dst := x.dstTarget (coreOf k)
          let writes (data : List (List Byte)) := placeElems k ch x.user dst (stripWrites dst (x.elems id) (spread x order data srcs))
          ∀ u data flats w places, readElems k ch x.user (x.srcTarget (coreOf k)) x.esz order s = (.ok u data, flats) →
            writes data u = .ok w places →
            let done (v : State) (ps : List (Nat × Nat × List Byte)) := ∃ t, exec i s = .next t
              ∧ t.mem = ps.foldl (fun m p => memPuts m p.1 p.2.2) v.mem
              ∧ t = { v with threads := t.threads, mem := t.mem, arbs := t.arbs, budgets := t.budgets, nearLines := t.nearLines, agenda := t.agenda }
              ∧ Claim.OthersWatch { v with cur := k } t ∧ Claim.ChannelOnly ch (v.thOf k) (t.thOf k)
              ∧ let b := (v.thOf k).chan ch
                let d := (t.thOf k).chan ch
                d.next = b.next ∧ d.frz = b.frz ∧ id ∉ d.active ∧ b.done ≤ d.done
                  ∧ (∀ y, b.done ≤ y → y < d.done → y = id ∨ y ∈ b.finished) ∧ d.done ≠ id ∧ d.done ∉ b.finished
            (rereadElems k ch x order data places w = none → done w places)
              ∧ ∀ now v ps, rereadElems k ch x order data places w = some now →
                  writes (strippedData w.freeCtr data now) { w with freeCtr := w.freeCtr + order.length } = .ok v ps → done v ps)
      ∧ (c.active ≠ [] → freezes (.stripBufferError k ch) 5) ∧ (c.active = [] → exec (.stripBufferError k ch) s = .next s)
      ∧ ∃ t, exec (.xchFrzClear k ch) s = .next t ∧ t = { s with threads := t.threads, agenda := t.agenda } ∧ others t
          ∧ Claim.ChannelOnly ch (s.thOf k) (t.thOf k)
          ∧ let d := (t.thOf k).chan ch
            d = { c with frz := false, err := 0, done := c.next, finished := [], xfers := d.xfers } ∧ (c.active = [] → d.xfers = [])
              ∧ ∀ y ∈ d.xfers, y.count = y.started

/-! ## Lifetime links -/

namespace Sys2Proof.Claim

/-- The front reads 64 bytes at an aligned scalar address, its older stores performed: they are `bs`, and the state is then `v` (R280). -/
def Reads64 (s : State) (ea : W64) (bs : List Byte) (v : State) : Prop :=
  ea.toNat % 64 = 0 ∧ s.th.pending = [] ∧ ∃ u, readRun s s.cur 0 (!s.th.sup) (scalarTarget (coreOf s.cur)) ea 64 = .ok u bs ∧ v = u.endReplies u.cur 0

/-- A send descriptor that R281 does not call invalid. -/
def GoodSend (x : Nat) : Prop :=
  let saddr := x % 2 ^ 64
  let len := x / 2 ^ 64 % 2 ^ 32
  let sout := x / 2 ^ 256 % 2 ^ 64
  x / 2 ^ 108 % 2 ^ 20 = 0 ∧ x / 2 ^ 208 % 2 ^ 48 = 0 ∧ x / 2 ^ 320 % 2 ^ 192 = 0 ∧ 1 ≤ len ∧ len ≤ 2 ^ 30 ∧ saddr % 4096 = 0
    ∧ tagOfCode (x / 2 ^ 96 % 2 ^ 6) ≠ none ∧ saddr / 2 ^ 60 ≤ 1 ∧ (sout = 0 ∨ sout + 64 ≤ saddr ∨ saddr + len ≤ sout)

/-- A package of the domain other than this one, to which context `c` has a peer (R281, R284). -/
def MayReach (s : State) (c pkg : Nat) : Prop := pkg ≠ s.urnyx.number ∧ pkg ∈ s.urnyx.members ∧ s.peerCtx c pkg ≠ none

/-- The segments of a holder that dpull of [lo, lo + n) starts (R282). -/
def wanted (s : State) (lo n : Nat) (h : Holder) : List Nat :=
  if h.ctx = s.th.ctx ∧ (h.st = .delivered ∨ h.st = .pulling) then
    (List.range ((h.stub.len + 4095) / 4096)).filter fun seg =>
      let base := h.stub.laddr.toNat + seg * 4096
      base < lo + n ∧ lo < base + 4096 ∧ n ≠ 0 ∧ h.pulled.testBit seg = false ∧ seg ∉ h.flight ∧ (s.landing s.th.ctx base).isSome
  else []

/-- A stub forwarded under derivation number `sub` (R284). -/
def forwarded (x : Stub) (sub : Nat) : Stub :=
  { x with sid := BitVec.ofNat 64 (x.sid.toNat / 2 ^ 16 * 2 ^ 16 + sub), hop := x.hop + 1, laddr := 0 }

/-- The code of a link state (R285). -/
def stateCode : LinkState → Nat
  | .opened => 0 | .delivered => 1 | .pulling => 2 | .drained => 3 | .dropped => 4 | .severed => 5

/-- The value dlstat gives (R285). -/
def linkReport (s : State) (c : Nat) (x : Stub) : Nat :=
  let hop := x.hop % 16 * 2 ^ 4
  match s.holder c x.sid with
  | some h => stateCode h.st + hop
      + ((List.range ((h.stub.len + 4095) / 4096)).filter fun i => h.pulled.testBit i).length % 2 ^ 19 * 2 ^ 32
  | none =>
    match s.origins.find? fun o => decide (o.link = x.sid.toNat / 2 ^ 16 ∧ o.ctx = c ∧ x.sid.toNat / 2 ^ 58 = s.urnyx.number) with
    | some o => stateCode o.st + 8 + hop + o.refs % 2 ^ 17 * 2 ^ 8 + o.served % 2 ^ 19 * 2 ^ 32
    | none => 6 + hop

/-- A holder's stub that has neither ended nor been severed (R289). -/
abbrev Held (st : LinkState) : Prop := st = .delivered ∨ st = .pulling

/-- A stub ends at its origin (R289 rows 2, 3): REFS falls by 1, and at 0 the link takes its final state. -/
def ended (o : Origin) (sub : Nat) (last : LinkState) : Origin :=
  { o with
    refs := o.refs - 1, holders := o.holders.filter (fun h => decide (h.2 ≠ sub)), granted := o.granted.filter (fun h => decide (h.2 ≠ sub))
    st := if o.refs ≤ 1 then last else o.st }

/-- A byte of an unpulled segment of a stub, on a deferred-backed page. -/
def Unpulled (s : State) (h : Holder) (a : Nat) : Prop :=
  ∃ seg e lo, seg < (h.stub.len + 4095) / 4096 ∧ h.pulled.testBit seg = false
    ∧ s.lookup ioCore h.ctx (h.stub.laddr.toNat + seg * 4096) = .leaf e lo ∧ e / 2 ^ 5 % 4 = 0 ∧ e / 2 ^ 13 % 2 = 1
    ∧ leafFlat e lo (h.stub.laddr.toNat + seg * 4096) / 4096 = a / 4096

/-- A byte that reads as zero from a drop of stub `h` on: of its unpulled segments, or of those of an earlier drop whose page was lent then,
where the page is not lent now. -/
def Blanked (s : State) (h : Holder) (a : Nat) : Prop :=
  s.isLent (a / 4096 * 4096) = false ∧ (Unpulled s h a ∨ a / 4096 ∈ s.blanks)

/-- The origins with link `link`'s record changed. -/
def onLink (s : State) (link : Nat) (f : Origin → Origin) : List Origin := s.origins.map fun o => if o.link = link then f o else o

end Sys2Proof.Claim

/-- R281, R276, R268: dsend of a valid descriptor whose pages pass lends them, writes its origin record, SID, and stub: the sender's copy at
SOUT, and the one sent to the package; stores to those pages that other threads have not performed are performed first. A copy for another
package is written there before the step is taken. An invalid descriptor traps LINKFAULT 1, and a package that is this one or outside the
domain 2; a misaligned descriptor traps MISALIGN. (The pages and the place of SOUT are those the model's checks of R281 find.) -/
def Obligations.StubsSent : Prop :=
  ∀ (s v : State) (d a : SReg) (bs : List Byte), Claim.Idle s →
    let i := Instr.dsend d a
    let r := linkRouting .dsend d a 0 s.th
    let k := s.cur
    let ea := s.getS a
    let traps (v : State) (cause detail : Nat) (va : W64) :=
      Claim.MayTrap s → ∃ t, exec i s = .next t ∧ Claim.EntryTraps r cause detail va s v t
    (ea.toNat % 64 ≠ 0 → traps (s.mod (·.routed r)) cMISALIGN 0 ea) ∧ (ea.toNat % 64 = 0 → Claim.EntryReads s r ea bs v →
    let x := leNat bs
    let pkg := x / 2 ^ 102 % 2 ^ 6
    let saddr := x % 2 ^ 64
    let len := x / 2 ^ 64 % 2 ^ 32
    let sout := BitVec.ofNat 64 (x / 2 ^ 256)
    let a0 := saddr % 2 ^ 60 / 65536 * 65536
    let n := (saddr % 2 ^ 60 + len - a0 + 65535) / 65536
    let ctx := s.th.ctx
    let stub : Stub :=
      { sid := BitVec.ofNat 64 ((v.urnyx.number * 2 ^ 42 + v.serial) * 2 ^ 16), oaddr := BitVec.ofNat 64 saddr, len, tag := x / 2 ^ 96 % 2 ^ 6
        octx := ctx, hop := 0, shape := BitVec.ofNat 64 (x / 2 ^ 128 % 2 ^ 64), laddr := 0, ver := x / 2 ^ 192 % 2 ^ 16 }
    (¬Claim.GoodSend x → traps v cLINKFAULT 1 0)
      ∧ (Claim.GoodSend x → pkg = v.urnyx.number ∨ pkg ∉ v.urnyx.members → traps v cLINKFAULT 2 0)
      ∧ ∀ pages, Claim.GoodSend x → Claim.MayReach v ctx pkg → (v.origins.filter (·.st.live)).length < 65536 →
          sendPages v k (!s.th.sup) (saddr / 2 ^ 60) (BitVec.ofNat 64 (saddr / 2 ^ 60 * 2 ^ 60)) n a0 = .ok pages →
          let u := v.settlePages pages
          (u = { v with threads := u.threads, mem := u.mem } ∧ ∀ j, (∃ q ∈ (v.thOf j).pending, q.1 / 65536 ∈ pages) → (u.thOf j).pending = [])
          ∧ ((sout = 0 ∨ (sout.toNat % 64 = 0 ∧ ∃ f leaf, v.soutPlace k (!s.th.sup) sout = .flat f leaf)) →
          ∃ t, exec i s = .next t ∧ GoesOn s.th (t.thOf k) ∧ ScalarsWith d stub.sid s t
            ∧ t.thOf k = { u.thOf k with pipe := [], sregs := (t.thOf k).sregs, shadow := (t.thOf k).shadow, stall := (t.thOf k).stall }
            ∧ t = { u with threads := t.threads, mem := t.mem, arbs := t.arbs, budgets := t.budgets, nearLines := t.nearLines
                           origins := t.origins, serial := v.serial + 1
                           fabricOut := v.fabricOut ++ [.stub pkg ((v.peerCtx ctx pkg).getD 0) stub] }
            ∧ Claim.OthersWatch u t
            ∧ (v.origins.length < 65536 → t.origins = v.origins ++
                [{ link := v.urnyx.number * 2 ^ 42 + v.serial, refs := 1, st := .opened, served := 0, nextSub := 1, ctx
                   oaddr := stub.oaddr, len, tag := stub.tag, hop := 0, pages, holders := [(pkg, 0)] }])
            ∧ (∀ p ∈ pages, t.isLent (p * 65536) = true)
            ∧ (sout = 0 → t.mem = u.mem)
            ∧ ∀ f leaf, sout ≠ 0 → v.soutPlace k (!s.th.sup) sout = .flat f leaf → Claim.Stored f (stubBytes stub) u t)
          ∧ ∀ p off pc, sout.toNat % 64 = 0 → v.soutPlace k (!s.th.sup) sout = .remote p off → v.reachable p = true → v.peerCtx ctx p = some pc →
            (v.thOf k).replies = [] → (v.thOf k).asked = [] → ∃ t, exec i s = .next t ∧ GoesOn s.th (t.thOf k)
              ∧ t = { v with threads := t.threads, arbs := t.arbs, serial := v.serial + 1
                             fabricOut := v.fabricOut ++ [.remote p k pc (BitVec.ofNat 64 off) (!s.th.sup) 64 (.write (stubBytes stub))] }
              ∧ (∀ j, j ≠ k → t.thOf j = v.thOf j)
              ∧ t.thOf k = { v.thOf k with
                  pipe := [{ r.ent with begun := true, buf := [(0, v.serial)] }], stall := (v.thOf k).stall.upd 0 1 id
                  asked := [(1, p, BitVec.ofNat 64 off, true)] })

/-- R282, R283: dpull starts the pull of every unpulled segment of the context's live stubs that lies in its range, and no other; a length
above 2^30 traps LINKFAULT 9. ddrop frees the window and removes the holder record, once no pull is in flight, and sends a drop for a
live stub; the unpulled segments of the window's deferred-backed pages read as zero. -/
def Sys2Proof.Claim.StubsPulledAndDropped : Prop :=
  (∀ (s : State) (a b : SReg), Claim.Idle s →
    let lo := (s.getS a).toNat
    let n := (s.getS b).toNat
    (2 ^ 30 < n → Claim.MayTrap s → ∃ t, exec (.dpull a b) s = .next t
        ∧ Claim.EntryTraps (linkRouting .dpull 0 a b s.th) cLINKFAULT 9 0 s (s.mod (·.routed (linkRouting .dpull 0 a b s.th))) t)
      ∧ (n ≤ 2 ^ 30 → (s.holders.map fun h => (h.ctx, h.stub.sid)).Nodup → ∃ t, exec (.dpull a b) s = .next t
          ∧ t = { s with threads := t.threads, holders := t.holders, fabricOut := t.fabricOut, arbs := t.arbs }
          ∧ (∀ j, j ≠ s.cur → t.thOf j = s.thOf j)
          ∧ t.th = { s.th with pc := t.th.pc, loops := t.th.loops, hold := .none } ∧ GoesOn s.th t.th
          ∧ t.holders = s.holders.map (fun h => if Claim.wanted s lo n h = [] then h
              else { h with
                flight := h.flight ++ Claim.wanted s lo n h, st := .pulling
                pullers := h.pullers ++ ((Claim.wanted s lo n h).map fun seg => (s.launchId s.cur).toList.map ((seg, ·))).flatten })
          ∧ t.fabricOut = s.fabricOut ++ (s.holders.map fun h => (Claim.wanted s lo n h).map fun seg =>
              FabMsg.pullReq (h.stub.sid.toNat / 2 ^ 58) h.stub.sid seg s.th.part s.th.owner).flatten))
    ∧ ∀ (s v : State) (a : SReg) (bs : List Byte), Claim.Idle s →
        let i := Instr.ddrop a
        let r := linkRouting .ddrop 0 a 0 s.th
        let k := s.cur
        (s.getS a).toNat % 64 = 0 → Claim.EntryReads s r (s.getS a) bs v →
        let x := stubOf bs
        let c := s.th.ctx
        (stubOk bs = false → Claim.MayTrap s → ∃ t, exec i s = .next t ∧ Claim.EntryTraps r cLINKFAULT 4 0 s v t)
          ∧ (stubOk bs = true → v.holder c x.sid = none → Claim.MayTrap s →
              ∃ t, exec i s = .next t ∧ Claim.EntryTraps r cLINKFAULT 5 0 s v t)
          ∧ ∀ h, stubOk bs = true → v.holder c x.sid = some h →
            (h.flight ≠ [] → ∃ t, exec i s = .next t ∧ Claim.EntryWaits r s v t)
            ∧ (h.flight = [] → x.sid.toNat / 2 ^ 58 ≠ v.urnyx.number ∨ ¬Claim.Held h.st → ∃ t, exec i s = .next t
              ∧ t = { v with
                  threads := t.threads, holders := t.holders, ctxs := t.ctxs, fabricOut := t.fabricOut, mem := t.mem, blanks := t.blanks }
              ∧ (∀ y, (Claim.Blanked v h y → t.byte y = 0) ∧ (¬Claim.Blanked v h y → t.byte y = v.byte y))
              ∧ (∀ y, Claim.Unpulled v h y → v.isLent (y / 4096 * 4096) = true → y / 4096 ∈ t.blanks)
              ∧ (∀ j, j ≠ k → t.thOf j = v.thOf j) ∧ t.thOf k = { v.thOf k with pipe := [] } ∧ GoesOn s.th (t.thOf k)
              ∧ t.holders = v.holders.filter (fun g => decide (¬(g.ctx = c ∧ g.stub.sid = x.sid)))
              ∧ (∀ y, y ≠ c → t.ctx y = v.ctx y)
              ∧ t.ctx c = { v.ctx c with windows := t.ctx c |>.windows }
              ∧ (t.ctx c).windows = ((v.ctx c).windows.map fun w => if w.sid = x.sid then { w with dropped := true } else w).dropWhile (·.dropped)
              ∧ (Claim.Held h.st → t.fabricOut = v.fabricOut ++ [.dropped (x.sid.toNat / 2 ^ 58) x.sid])
              ∧ (¬Claim.Held h.st → t.fabricOut = v.fabricOut))
            ∧ (h.flight = [] → Claim.Held h.st → x.sid.toNat / 2 ^ 58 = v.urnyx.number → ∃ t, exec i s = .next t
              ∧ GoesOn s.th (t.thOf k) ∧ t.holder c x.sid = none
              ∧ ∀ o, v.liveOrigin x.sid = some o →
                t.origins = Claim.onLink v o.link fun g => Claim.ended g (x.sid.toNat % 2 ^ 16) .dropped)

/-- R284, R285: dresend of a live stub asks its origin for a reference and waits; when it is granted, d takes the new SID and the stub goes
to the package with that SID, one more hop and LADDR 0; when the link has no live stub, the record is severed and LINKFAULT 6 traps;
when derivations are exhausted, 7. dlstat writes the state of the stub and watches its block, as a scalar load does. -/
def Sys2Proof.Claim.StubsForwardedAndReported : Prop :=
  (∀ (s v : State) (d a b : SReg) (bs : List Byte) (h : Holder), Claim.Idle s → s.th.refStub = none → (s.getS a).toNat % 64 = 0 →
    let i := Instr.dresend d a b
    let r := linkRouting .dresend d a b s.th
    let k := s.cur
    Claim.EntryReads s r (s.getS a) bs v → stubOk bs = true →
    let x := stubOf bs
    let pkg := (s.getS b).toNat
    let p := x.sid.toNat / 2 ^ 58
    let c := s.th.ctx
    v.holder c x.sid = some h →
    (¬Claim.Held h.st → Claim.MayTrap s → ∃ t, exec i s = .next t ∧ Claim.EntryTraps r cLINKFAULT 6 0 s v t)
      ∧ (Claim.Held h.st → Claim.MayReach v c pkg → x.hop ≠ 15 →
          (p ≠ v.urnyx.number → ∃ t, exec i s = .next t
            ∧ t = { v with threads := t.threads, fabricOut := v.fabricOut ++ [.refReq p pkg x.sid] }
            ∧ (∀ j, j ≠ k → t.thOf j = v.thOf j) ∧ GoesOn s.th (t.thOf k)
            ∧ t.thOf k = { v.thOf k with
                refStub := some x, asked := (v.thOf k).asked ++ [(4, p, x.sid, false)], pipe := [{ r.ent with begun := true }] })
          ∧ ∀ o, p = v.urnyx.number → v.liveOrigin x.sid = some o → o.nextSub ≤ 65535 → ∃ t, exec i s = .next t ∧ GoesOn s.th (t.thOf k)
            ∧ ScalarsWith d (Claim.forwarded x o.nextSub).sid s t ∧ (∀ j, j ≠ k → t.thOf j = v.thOf j)
            ∧ t.thOf k = { v.thOf k with
                pipe := [], sregs := (t.thOf k).sregs, shadow := (t.thOf k).shadow, refReply := none, refStub := none
                asked := (v.thOf k).asked.filter (fun q => decide (q.1 ≠ 4)) }
            ∧ t = { v with threads := t.threads, arbs := t.arbs, origins := t.origins
                           fabricOut := v.fabricOut ++ [.stub pkg ((v.peerCtx c pkg).getD 0) (Claim.forwarded x o.nextSub)] }
            ∧ t.origins = Claim.onLink v o.link fun g =>
              { g with
                refs := g.refs + 1, nextSub := g.nextSub + 1, holders := g.holders ++ [(pkg, g.nextSub)]
                granted := g.granted ++ [(p, g.nextSub)] }))
    ∧ (∀ (s : State) (e : Entry) (x : Stub), s.lane = none → s.th.pipe = [e] → s.th.fetch = none → e.op = .dresend → e.inAcc = true →
        e.accDone = false → e.inExe = false → e.dropped = false → e.partWay = false → e.begun = true → e.k = 0 → e.d < 32 → e.buf = [] →
        e.fl = [] → ¬(s.th.sup = true ∧ s.th.trap.inTrap = true) → s.th.refStub = some x →
        let k := s.cur
        let d := BitVec.ofNat 5 e.d
        let pkg := e.capB.toNat
        let quiet := s.th.asked.filter (fun q => decide (q.1 ≠ 4))
        let rest := { s.th with refReply := none, refStub := none, asked := quiet }
        let stopped : Thread := { rest with pipe := [{ e with partWay := true, released := false, begun := false, gates := [] }] }
        let info (n : Nat) := trapInfo cLINKFAULT n e.fu.long
        (s.th.refReply = none → ∃ t, s.drain k = (t, false) ∧ t = { s with threads := t.threads } ∧ ∀ j, t.thOf j = s.thOf j)
          ∧ (∀ sub, s.th.refReply = some (.granted sub) → ∃ t, s.drain k = (t, false)
              ∧ ScalarsWith d (Claim.forwarded x sub).sid s t ∧ (∀ j, j ≠ k → t.thOf j = s.thOf j)
              ∧ t = { s with threads := t.threads, arbs := t.arbs
                             fabricOut := s.fabricOut ++ [.stub pkg ((s.peerCtx s.th.ctx pkg).getD 0) (Claim.forwarded x sub)] }
              ∧ t.th = { rest with pipe := [], sregs := t.th.sregs, shadow := t.th.shadow })
          ∧ (s.th.refReply = some .noLink → ∃ t, s.drain k = (t, true) ∧ TrapEntered stopped t.th (info 6) 0 e.fu.addr s.th.pc
              ∧ t = { s with threads := t.threads, holders := t.holders, agenda := t.agenda }
              ∧ t.holders = s.holders.map fun h => if h.ctx = s.th.ctx ∧ h.stub.sid = x.sid ∧ (h.st = .delivered ∨ h.st = .pulling) then
                  { h with st := .severed, flight := [], pullers := [] } else h)
          ∧ (s.th.refReply = some .exhausted → ∃ t, s.drain k = (t, true) ∧ OnlyThread k s t
              ∧ TrapEntered stopped t.th (info 7) 0 e.fu.addr s.th.pc))
    ∧ ∀ (s v : State) (d a : SReg) (bs : List Byte), s.lane = none → (s.th.acquiring = true → Claim.Holds .none (.dlstat d a) s)
        ∧ (s.th.acquiring = false → Claim.Reads64 s (s.getS a) bs v →
        (stubOk bs = true → ∃ t, exec (.dlstat d a) s = .next t
            ∧ FrontWrites d (BitVec.ofNat 64 (Claim.linkReport v v.th.ctx (stubOf bs)))
              (v.mod fun x => { x with watch := (v.flatOf v.cur (scalarTarget (coreOf v.cur) (s.getS a))).map (· / 64), watchHit := false }) t)
          ∧ (stubOk bs = false → Claim.MayTrap v → ∃ t, exec (.dlstat d a) s = .next t ∧ FrontTraps cLINKFAULT 4 0 v t))

/-- What a holder does with a stub. -/
def Obligations.StubsHandled : Prop :=
  Claim.StubsPulledAndDropped ∧ Claim.StubsForwardedAndReported

namespace Sys2Proof.Claim

/-- The segments of a link's range as its origin holds them (R287): the bytes of the lent page, and zeros beyond the length. -/
def segment (s : State) (o : Origin) (seg : Nat) : List Byte :=
  let off := o.oaddr.toNat % 65536 + seg * 4096
  let n := min 4096 (o.len - seg * 4096)
  match o.pages[off / 65536]? with
  | some p => (List.range n).map (fun i => s.byte (p * 65536 + off % 65536 + i)) ++ List.replicate (4096 - n) 0
  | none => List.replicate 4096 0

/-- A stub waits in transit (R279): it stands there once, and nothing else of the package differs but a log record. -/
def InTransit (from_ c : Nat) (x : Stub) (s t : State) : Prop :=
  t = { s with transit := t.transit, funcs := t.funcs, mem := t.mem, threads := t.threads, unitSeq := t.unitSeq }
    ∧ ∃ b, t.transit = s.transit.filter (fun e => decide (¬(e.stub = x ∧ e.ctx = c ∧ e.from_ = from_))) ++ [{ from_, ctx := c, stub := x, logged := b }]

/-- A stub ends at its origin by a message (R289): an unknown one changes nothing. -/
def EndsBy (i : Instr) (sid : W64) (last : LinkState) (s : State) : Prop :=
  (s.liveOrigin sid = none → exec i s = .next s)
    ∧ ∀ o, s.liveOrigin sid = some o → ∃ t, exec i s = .next t
        ∧ t.origins = onLink s o.link (fun g => ended g (sid.toNat % 2 ^ 16) last)
        ∧ (2 ≤ o.refs → t = { s with origins := t.origins })

/-- The agenda turns that ask the stopping groups' saves again. -/
def savesAgain (s : State) : List Turn :=
  (s.groups.filter fun g => g.st == .stopping).map fun g =>
    .event (if (s.ctx g.ctx).st == .tearing then .teardownComplete g.ctx else .saveComplete g.id)

end Sys2Proof.Claim

/-- R279, R398, R290: a stub that reaches a context is delivered to a window of its landing region, the descriptor's slot and WR, with a
holder record, which is severed from the start where the origin has been lost; a duplicate is acknowledged alone; a dead or ending context,
and a landing region too small for the window, refuse it; and it waits in transit where the descriptor is off, malformed or full, or no
window or no page of it can be had. The origin's record takes acknowledgements, and counts refused, dropped and drained stubs as ended
(R289). -/
def Obligations.StubsDelivered : Prop :=
  (∀ (s : State) (from_ c : Nat) (x : Stub),
    let i := Instr.stubDelivery from_ c x
    let p := x.sid.toNat / 2 ^ 58
    let rest := s.transit.filter (fun e => decide (¬(e.stub = x ∧ e.ctx = c ∧ e.from_ = from_)))
    let acks := [FabMsg.ack p x.sid] ++ if x.hop = 0 ∨ from_ = p then [] else [.ack from_ x.sid]
    let refused := ∃ t, exec i s = .next t
      ∧ t = { s with transit := rest, fabricOut := s.fabricOut ++ [.refuse p x.sid], funcs := t.funcs, mem := t.mem
                     threads := t.threads, unitSeq := t.unitSeq }
      ∧ Claim.Logged (s.part (s.ctx c).part).func 5 s t
    (s.holder c x.sid ≠ none → p ≠ s.urnyx.number →
        exec i s = .next { s with transit := rest, fabricOut := s.fabricOut ++ acks })
      ∧ (s.holder c x.sid = none → (s.ctx c).st = .dead ∨ (s.ctx c).st = .tearing → p ≠ s.urnyx.number → refused)
      ∧ (s.holder c x.sid = none → (s.ctx c).st ≠ .dead → (s.ctx c).st ≠ .tearing →
          let waits := ∃ t, exec i s = .next t ∧ Claim.InTransit from_ c x s t
          let own := s.ownAccess c .read (s.descAddr c)
          let en := (s.ctx c).lnkin.getLsbD 0
          (own = .lent ∨ own = .bad → waits)
          ∧ ∀ flat leaf, own = .at flat leaf →
            let n := s.load flat 64
            let d := inboundOf n
            let need := (x.len + 65535) / 65536
            let place := placeWindow (s.ctx c) (d.lsz * 65536) (need * 65536)
            (d.lsz ≠ 0 → d.lsz < need → p ≠ s.urnyx.number → refused)
            ∧ (d.lsz = 0 ∨ need ≤ d.lsz → en = false ∨ inboundOk n = false → waits)
            ∧ (need ≤ d.lsz → en = true → inboundOk n = true →
              d.wr - d.rd = 2 ^ d.logcap ∨ 65536 ≤ s.holders.length ∨ place = none → waits)
            ∧ ∀ off, need ≤ d.lsz → en = true → inboundOk n = true → d.wr - d.rd ≠ 2 ^ d.logcap → s.holders.length < 65536 → place = some off →
              ((∀ l, windowPages s c (d.land + off) need ≠ .pages l) → waits)
              ∧ ∀ pages slot sl wrAt wl, windowPages s c (d.land + off) need = .pages pages → p ≠ s.urnyx.number →
                s.ownAccess c .write (d.ring + 64 * (d.wr % 2 ^ d.logcap)) = .at slot sl → s.ownAccess c .write (s.descAddr c + 16) = .at wrAt wl →
                let y := { x with laddr := BitVec.ofNat 64 (d.land + off) }
                let st := if p ∈ s.urnyx.lostPeers then LinkState.severed else .delivered
                ∃ t, exec i s = .next t
                  ∧ t = { s with threads := t.threads, mem := t.mem, ctxs := t.ctxs, transit := rest, fabricOut := s.fabricOut ++ acks
                                 holders := s.holders ++ [{ ctx := c, stub := y, st, pulled := 0, flight := [] }] }
                  ∧ t.mem = memPuts (memPuts (zeroFrom s pages ((x.len + 4095) / 4096 * 4096)).mem slot (stubBytes y)) wrAt (leBytes 8 (d.wr + 1))
                  ∧ (∀ z, z ≠ c → t.ctx z = s.ctx z)
                  ∧ t.ctx c = { s.ctx c with
                      windows := (s.ctx c).windows ++ [{ off, size := pages.length * 65536, sid := x.sid, dropped := false }]
                      landPtr := off + pages.length * 65536 }
                  ∧ pages.length = need ∧ Claim.Watched s t))
    ∧ ∀ (s : State) (sid : W64),
        exec (.deliveryAck sid) s = .next { s with
            origins := Claim.onLink s (sid.toNat / 2 ^ 16) fun o =>
              { o with
                st := if o.st = .opened then .delivered else o.st, granted := o.granted.filter (fun h => decide (h.2 ≠ sid.toNat % 2 ^ 16)) } }
          ∧ Claim.EndsBy (.deliveryRefusal sid) sid .dropped s ∧ Claim.EndsBy (.dropMessage sid) sid .dropped s
          ∧ Claim.EndsBy (.endMessage sid) sid .drained s

/-- R284, R287, R289: a pull is served with the bytes of the lent pages, marking the link pulling, and an unknown stub is named so. A
segment that lands is written to its window and set in the bitmap, and the last one ends the stub as drained; a refused pull
severs it. A reference is granted with the next derivation number, and its reply reaches the thread that asked. A sever notice
severs the stub. -/
def Obligations.SegmentsAndReferencesMove : Prop :=
  (∀ (s : State) (from_ : Nat) (sid : W64) (seg : Nat),
    (s.liveOrigin sid = none → exec (.pullRequest from_ sid seg) s = .next (s.send (.pullData from_ sid seg .unknown)))
      ∧ ∀ o, s.liveOrigin sid = some o → ∃ t, exec (.pullRequest from_ sid seg) s = .next t ∧ t = { s with
          arbs := t.arbs, budgets := t.budgets, nearLines := t.nearLines
          fabricOut := s.fabricOut ++ [.pullData from_ sid seg (.bytes (Claim.segment s o seg))]
          origins := Claim.onLink s o.link fun g => { g with served := g.served + 1, st := .pulling } })
    ∧ (∀ (s : State) (sid : W64) (seg : Nat) (r : PullReply),
      let i := Instr.segmentLanding sid seg r
      ((∀ h ∈ s.holders, h.stub.sid = sid → seg ∉ h.flight) → exec i s = .next s)
        ∧ ∀ h, s.holders.find? (fun h => h.stub.sid == sid && h.flight.contains seg) = some h → s.remoteHeld = [] →
          (r = .unknown → ∃ t, exec i s = .next t ∧ t = { s with holders := t.holders, agenda := t.agenda }
              ∧ t.holders = s.holders.map fun g => if g.stub.sid = sid ∧ Claim.Held g.st then { g with st := .severed, flight := [], pullers := [] } else g)
          ∧ (∀ bs, r = .bytes bs → s.landing h.ctx (h.stub.laddr.toNat + seg * 4096) = none → ∃ t, exec i s = .next t
              ∧ t = { s with holders := t.holders, agenda := t.agenda, funcs := t.funcs, mem := t.mem, threads := t.threads, unitSeq := t.unitSeq }
              ∧ t.holders = s.holders.map fun g => if g.ctx = h.ctx ∧ g.stub.sid = sid then
                { g with flight := g.flight.filter (· != seg), pullers := g.pullers.filter (·.1 != seg) } else g)
          ∧ ∀ flat leaf bs, r = .bytes bs → s.landing h.ctx (h.stub.laddr.toNat + seg * 4096) = some (flat, leaf) →
            let n := min 4096 (h.stub.len - seg * 4096)
            let all := (List.range ((h.stub.len + 4095) / 4096)).all fun j => h.pulled.testBit j || j == seg
            (s.isLent flat = true → ∃ t, exec i s = .next t
                ∧ t = { s with landings := s.landings ++ [(sid, seg, bs)], agenda := t.agenda })
            ∧ (s.isLent flat = false → all = false ∨ sid.toNat / 2 ^ 58 ≠ s.urnyx.number → ∃ t, exec i s = .next t
                ∧ t = { s with threads := t.threads, mem := t.mem, holders := t.holders, agenda := t.agenda, arbs := t.arbs, budgets := t.budgets
                               nearLines := t.nearLines, fabricOut := s.fabricOut ++ if all then [.ended (sid.toNat / 2 ^ 58) sid] else [] }
                ∧ Claim.Stored flat ((bs ++ List.replicate 4096 0).take n ++ List.replicate (4096 - n) 0) s t
                ∧ Claim.Watched s t
                ∧ ∃ q, (∀ j, q.testBit j = (h.pulled.testBit j || j == seg))
                  ∧ t.holders = s.holders.map fun g => if g.ctx = h.ctx ∧ g.stub.sid = sid then
                    { g with
                      flight := g.flight.filter (· != seg), pullers := g.pullers.filter (·.1 != seg), pulled := q
                      st := if all then .drained else g.st } else g))
    ∧ (∀ (s : State) (from_ dest : Nat) (sid : W64),
      let i := Instr.referenceRequest from_ dest sid
      (s.liveOrigin sid = none → exec i s = .next (s.send (.refGrant from_ dest sid .noLink)))
        ∧ ∀ o, s.liveOrigin sid = some o →
          (65535 < o.nextSub → exec i s = .next (s.send (.refGrant from_ dest sid .exhausted)))
          ∧ (o.nextSub ≤ 65535 → exec i s = .next { s with
              fabricOut := s.fabricOut ++ [.refGrant from_ dest sid (.granted o.nextSub)]
              origins := Claim.onLink s o.link fun g =>
                { g with
                  refs := g.refs + 1, nextSub := g.nextSub + 1, holders := g.holders ++ [(dest, g.nextSub)]
                  granted := g.granted ++ [(from_, g.nextSub)] } }))
    ∧ (∀ (s : State) (dest : Nat) (sid : W64) (r : RefReply),
      let asks (t : Thread) := t.asked.any (fun q => q.1 == 4 && q.2.2.1 == sid) && t.refReply.isNone
        && t.pipe.any fun e => e.op == .dresend && e.capB.toNat == dest
      ((∀ e ∈ s.threads, asks e.2 = false) → exec (.referenceGrant ⟨dest, sid⟩ r) s = .next s)
        ∧ ∀ k t0, s.threads.find? (fun e => asks e.2) = some (k, t0) →
          ∃ t, exec (.referenceGrant ⟨dest, sid⟩ r) s = .next t ∧ t = { s with threads := t.threads, agenda := s.agenda ++ Claim.savesAgain s }
            ∧ (∀ j, j ≠ k → t.thOf j = s.thOf j) ∧ t.thOf k = { s.thOf k with refReply := some r })
    ∧ ∀ (s : State) (sid : W64), s.remoteHeld = [] → ∃ t, exec (.severNotice sid) s = .next t
        ∧ t = { s with holders := t.holders, agenda := t.agenda }
        ∧ t.holders = s.holders.map fun g => if g.stub.sid = sid ∧ Claim.Held g.st then { g with st := .severed, flight := [], pullers := [] } else g

/-- R288, R290: LENTWRITE_BOUND brings the stalls of a thread's waiting writes, one count for each path, to its context's bound, so that such
a write traps when it is tried again. HOST_LENT_WRITE_TIMEOUT discards the oldest held host write and logs it, and those that stood behind
it alone go on. The loss of a package severs the stubs
whose origin it is. -/
def Obligations.BoundsAndLosses : Prop :=
  (∀ (s : State) (k : ThreadKey), ∃ t, exec (.lentwriteBound k) s = .next t ∧ t = { s with threads := t.threads, agenda := t.agenda }
      ∧ (∀ j, j ≠ k → t.thOf j = s.thOf j)
      ∧ t.thOf k = { s.thOf k with stall := (s.thOf k).stall.mapV fun _ n => max n (max 1 ((s.ctx (s.thOf k).ctx).lnkbnd * 1024)) })
    ∧ (∀ (s : State) (i : Instr) (n : Nat) (d a : SReg) (imm : Imm) (flat : Nat), Claim.store i = some (n, d, a, imm) → s.lane = none →
        let ea := Claim.address s a imm
        s.th.acquiring = false → s.th.descOpen = false → ea.toNat % n = 0 → s.lockstep = true → ea.toNat < 2 ^ 57 →
        s.translate (coreOf s.cur) s.th.ctx (!s.th.sup) .write [0] ea.toNat = .lent flat →
        ((s.th.stall.get 0 0 < (s.ctx s.th.ctx).lnkbnd * 1024 → exec i s = .next (s.mod fun t =>
            { t with hold := .lent flat, stall := t.stall.upd 0 0 id }))
          ∧ ((s.ctx s.th.ctx).lnkbnd * 1024 ≤ s.th.stall.get 0 0 → Claim.MayTrap s → ∃ t, exec i s = .next t ∧ OnlyThread s.cur s t
              ∧ TrapEntered s.th t.th (trapInfo cLENTWRITE 0 s.th.fu.long) ea s.th.fu.addr s.th.fu.addr ∧ t.th.stall = s.th.stall.del 0)))
    ∧ (∀ (s : State), (s.hostHeld = [] → exec .hostLentWriteTimeout s = .next s)
        ∧ ∀ h rest, s.hostHeld = h :: rest → ∃ u, exec .hostLentWriteTimeout s = .next u.hostWrites ∧ Claim.Logged h.func 2 s u
          ∧ u = { s with hostHeld := rest, funcs := u.funcs, mem := u.mem, threads := u.threads, unitSeq := u.unitSeq }
          ∧ ((∀ g ∈ rest, g.ev = none ∧ s.lentRange g.addr g.size = true) → u.hostWrites = u))
    ∧ ∀ (s : State) (pkg : Nat),
        (s.reachable pkg = false ∨ pkg = s.urnyx.number → exec (.peerLossTimeout pkg) s = .next s)
          ∧ (s.reachable pkg = true → pkg ≠ s.urnyx.number → ∃ t, exec (.peerLossTimeout pkg) s = .next t
            ∧ t.urnyx = { s.urnyx with lostPeers := s.urnyx.lostPeers ++ [pkg] }
            ∧ ∀ h ∈ t.holders, h.stub.sid.toNat / 2 ^ 58 = pkg → ¬Claim.Held h.st)

/-! ## Work queues and launches -/

namespace Sys2Proof.Claim

/-- The function's partition and its queue, and the function is not frozen (R222, R342). -/
def OwnQueue (s : State) (func n p : Nat) : Prop :=
  (s.fn func).frozen = false ∧ s.partOf func = some p ∧ (s.part p).qBase ≤ n ∧ n < (s.part p).qBase + (s.part p).qCount

/-- A queue that is empty, ready or blocked. -/
def Serving (st : QState) : Prop := st = .empty ∨ st = .ready ∨ st = .blocked

/-- Every queue but `n` is as before, but for whether it is blocked. -/
def OtherQueues (n : Nat) (s t : State) : Prop := ∀ m, m ≠ n → t.q m = { s.q m with st := (t.q m).st }

/-- The agenda once queue `n`'s head has been asked for: a turn that takes it stands there already, or at the end. -/
def askedFor (l : List Turn) (n : Nat) : List Turn := if l.any (·.takes n) then l else l ++ [.event (.queueHeadTake n)]

/-- A launch's fields from its entry `e` (R226) and kernel. -/
def launchOf (s : State) (n e : Nat) (kern : Kernel) (trip : List Nat) : Launch :=
  let q := s.q n
  { id := s.nextId, q := n, seq := q.head, ctx := q.ctx, part := (s.ctx q.ctx).part, kern, trip
    args := BitVec.ofNat 64 (e / 2 ^ 128), crec := BitVec.ofNat 64 (e / 2 ^ 320), irq := decide (e / 2 ^ 12 % 2 = 1)
    n := groupsOf kern.marks trip, span := (spanOf kern.marks trip).getD 0, placed := 0, retired := 0, seqw := q.seqw, status := 0 }

/-- The trip counts of an entry (R226). -/
def tripOf (e : Nat) : List Nat := [e / 2 ^ 384 % 2 ^ 32, e / 2 ^ 416 % 2 ^ 32, e / 2 ^ 448 % 2 ^ 32, e / 2 ^ 480 % 2 ^ 32]

/-- The entry of sequence number `seq` completes (R224, R222): with none out of order before it, COMPL passes it. -/
def EntryEnds (l : Launch) (u t : State) : Prop :=
  t.lau l.id = none ∧ t.mem = u.mem ∧ OtherQueues l.q u t ∧ (t.q l.q).head = (u.q l.q).head ∧ (t.q l.q).tail = (u.q l.q).tail
    ∧ ((u.q l.q).st ≠ .disabled → (u.q l.q).fin = [] → (u.q l.q).compl = l.seq → (t.q l.q).compl = l.seq + 1)
    ∧ (t.fn (u.part l.part).func).irqs = (u.fn (u.part l.part).func).irqs + if l.irq then 1 else 0

end Sys2Proof.Claim

/-- R228: launch appends its entry to the ring of a queue of its context that takes device entries, and TAIL rises; a queue that is not
its context's, or not open, traps QFULL 3, one the host fills 2, a full ring 1. -/
def Sys2Proof.Claim.EntriesLaunched : Prop :=
  ∀ (s : State) (a b : SReg), s.lane = none →
    let i := Instr.launch a b
    let n := (s.getS a).toNat
    let ea := s.getS b
    let q := s.q n
    let p := s.part s.th.part
    let mine := n ≤ 16383 ∧ p.qBase ≤ n ∧ n < p.qBase + p.qCount ∧ Claim.Serving q.st ∧ q.ctx = s.th.ctx
    (ea.toNat % 64 ≠ 0 → Claim.MayTrap s → Claim.Traps i cMISALIGN 0 ea s)
      ∧ (ea.toNat % 64 = 0 → ¬mine → Claim.MayTrap s → Claim.Traps i cQFULL 3 0 s)
      ∧ (ea.toNat % 64 = 0 → mine → q.src = false → Claim.MayTrap s → Claim.Traps i cQFULL 2 0 s)
      ∧ ∀ v bs, mine → q.src = true → s.th.pipe = [] → s.th.pending = [] → Claim.Reads64 s ea bs v →
          let w := v.q n
          (w.tail - w.head = 2 ^ w.logd → Claim.MayTrap v → ∃ t, exec i s = .next t ∧ FrontTraps cQFULL 1 0 v t)
          ∧ ∀ flat leaf, w.tail - w.head ≠ 2 ^ w.logd →
            v.access v.cur 0 (!v.th.sup) .write (w.target (w.slot w.tail)) 64 (.write bs) = .at flat leaf →
            ∃ t, exec i s = .next t ∧ GoesOn v.th t.th ∧ Claim.Stored flat bs v t ∧ (∀ m, m ≠ n → t.q m = v.q m)
              ∧ t.q n = { w with tail := w.tail + 1, st := (t.q n).st } ∧ Claim.Serving (t.q n).st
              ∧ t = { v with threads := t.threads, mem := t.mem, arbs := t.arbs, budgets := t.budgets, nearLines := t.nearLines
                             queues := t.queues, agenda := Claim.askedFor v.agenda n }
              ∧ t.th = { v.th with pc := t.th.pc, loops := t.th.loops, hold := .none, stall := t.th.stall } ∧ Claim.OthersWatch v t

/-- R222, R225, R227: a function's writes to the window of its queue. A QTAIL write moves TAIL and asks for the head; one that is out of
order, beyond the ring, or to a queue the device fills is logged with CODE 4 and moves nothing. EN takes the configuration and starts
the queue empty, DRAIN lets it drain, CLR empties an errored one; of one write CLR comes first, then DRAIN, then EN. A write to another
partition's queue freezes the function. No write passes an earlier one of its function that is held. -/
def Sys2Proof.Claim.QueueWindowsWritten : Prop :=
  ∀ (s : State) (func n p : Nat) (w : W64),
    let q := s.q n
    let v := w.toNat
    let only (t : State) := t = { s with queues := t.queues, agenda := t.agenda }
    let logs (i : Instr) := ∃ t, exec i s = .next t ∧ Claim.Logged func 4 s t
      ∧ t = { s with funcs := t.funcs, mem := t.mem, threads := t.threads, unitSeq := t.unitSeq }
    let unheld := ∀ h ∈ s.hostHeld, h.func ≠ func
    let en := decide (v / 2 ^ 27 % 2 = 1)
    (∀ i, i ∈ [Instr.qtailWrite func n w, .queueEnable func n w, .queueDrain func n w, .queueClear func n w] →
        ((∃ h ∈ s.hostHeld, h.func = func) → exec i s = .next { s with hostHeld := s.hostHeld ++ [{ func, ev := some i }] })
        ∧ (unheld → (s.fn func).frozen = true → exec i s = .next s)
        ∧ (unheld → (s.fn func).frozen = false → s.partOf func = some p → n < (s.part p).qBase ∨ (s.part p).qBase + (s.part p).qCount ≤ n →
          ∃ t, exec i s = .next t ∧ (t.fn func).frozen = true ∧ Claim.Logged func 7 s t ∧ t.queues = s.queues))
      ∧ (unheld → Claim.OwnQueue s func n p →
        (q.src = true ∨ v < q.tail ∨ q.head + 2 ^ q.logd < v → logs (.qtailWrite func n w))
        ∧ (q.src = false → q.tail < v → v ≤ q.head + 2 ^ q.logd → Claim.Serving q.st → ∃ t, exec (.qtailWrite func n w) s = .next t ∧ only t
          ∧ t.q n = { q with tail := v, st := (t.q n).st } ∧ Claim.Serving (t.q n).st ∧ (∀ m, m ≠ n → t.q m = s.q m)
          ∧ t.agenda = Claim.askedFor s.agenda n)
        ∧ (q.src = false → q.tail ≤ v → v ≤ q.head + 2 ^ q.logd → ¬Claim.Serving q.st → exec (.qtailWrite func n w) s = .next s)
        ∧ (q.st = .disabled → v / 2 ^ 28 = 0 → (s.part p).ctxBase ≤ v % 2 ^ 12 → v % 2 ^ 12 < (s.part p).ctxBase + (s.part p).ctxCount →
          6 ≤ v / 2 ^ 12 % 2 ^ 5 → v / 2 ^ 12 % 2 ^ 5 ≤ 16 → v / 2 ^ 19 % 2 ^ 8 ≠ 0 → ∃ t, exec (.queueEnable func n w) s = .next t ∧ only t
          ∧ t.agenda = s.agenda ∧ (∀ m, m ≠ n → t.q m = s.q m)
          ∧ t.q n = { q with ctx := v % 2 ^ 12, logd := v / 2 ^ 12 % 2 ^ 5, src := decide (v / 2 ^ 17 % 2 = 1), sp := decide (v / 2 ^ 18 % 2 = 1)
                             seqw := v / 2 ^ 19 % 2 ^ 8, en := true, st := .empty, head := 0, tail := 0, compl := 0, err := 0, fin := [], placing := none })
        ∧ (q.st = .disabled → v / 2 ^ 30 ≠ 0 ∨ v % 2 ^ 12 < (s.part p).ctxBase ∨ (s.part p).ctxBase + (s.part p).ctxCount ≤ v % 2 ^ 12
            ∨ v / 2 ^ 12 % 2 ^ 5 < 6 ∨ 16 < v / 2 ^ 12 % 2 ^ 5 ∨ v / 2 ^ 19 % 2 ^ 8 = 0 → logs (.queueEnable func n w))
        ∧ (Claim.Serving q.st → v / 2 ^ 30 = 0 → q.fin = [] → ∃ t, exec (.queueDrain func n w) s = .next t ∧ only t
          ∧ (q.compl ≠ q.tail → t.q n = { q with en, st := .draining })
          ∧ (q.compl = q.tail → en = false → t.q n = { q with en := false, st := .disabled })
          ∧ (q.compl = q.tail → en = true →
            t.q n = { q with en := true, st := .empty, head := 0, tail := 0, compl := 0, err := 0, fin := [], placing := none })
          ∧ (∀ m, m ≠ n → t.q m = s.q m) ∧ t.agenda = Claim.askedFor s.agenda n)
        ∧ (q.st = .errored → v / 2 ^ 30 = 0 → v / 2 ^ 28 % 2 = 0 → ∃ t, exec (.queueClear func n w) s = .next t ∧ only t ∧ Claim.OtherQueues n s t
          ∧ (t.q n).st = .empty ∧ (t.q n).err = 0 ∧ (t.q n).head = q.tail ∧ (t.q n).tail = q.tail ∧ (t.q n).base = q.base ∧ (t.q n).en = en))

/-- Entries from a thread, and the queue windows. -/
def Obligations.QueuesLaunchedAndWritten : Prop :=
  Claim.EntriesLaunched ∧ Claim.QueueWindowsWritten

/-- R225, R226, R232–R234, R239: the front end takes a queue's head: a reserved type, a set reserved bit or a foreign queue errors the queue
and HEAD stays; an entry whose dependences are not met blocks; a no-op completes at once, and a launch whose kernel passes its checks
goes to the dispatcher. A predicate that selects nothing completes the entry, and one that cannot be read, or is misaligned, errors the
queue. A launch whose groups have all retired, with no strip of theirs and no pull that they started open, writes its completion record and
passes COMPL. -/
def Obligations.EntriesTakenAndCompleted : Prop :=
  (∀ (s u : State) (n : Nat) (bs : List Byte),
    let i := Instr.queueHeadTake n
    let q := s.q n
    let st := (s.ctx q.ctx).st
    let e := leNat bs
    let errsFrom (u : State) (code : Nat) := ∃ t, exec i s = .next t ∧ t = { u with queues := t.queues, threads := t.threads }
      ∧ t.q n = { u.q n with st := .errored, err := code } ∧ (∀ m, m ≠ n → t.q m = u.q m) ∧ ∀ j, j ≠ frontKey n → t.thOf j = u.thOf j
    let errs := errsFrom u
    let passed (w t : State) := t.mem = w.mem ∧ (t.q n).head = (w.q n).head + 1 ∧ (t.q n).tail = (w.q n).tail
      ∧ ((w.q n).fin = [] → (w.q n).compl = (w.q n).head → (t.q n).compl = (w.q n).head + 1)
    let clean := e / 2 ^ 13 % 2 ^ 19 = 0 ∧ e / 2 ^ 46 % 2 ^ 18 = 0
    let foreign := e / 2 ^ 11 % 2 = 1 ∧ ¬((s.part (s.ctx q.ctx).part).qBase ≤ e / 2 ^ 32 % 2 ^ 14 ∧
      e / 2 ^ 32 % 2 ^ 14 < (s.part (s.ctx q.ctx).part).qBase + (s.part (s.ctx q.ctx).part).qCount)
    let met (x : State) := (e / 2 ^ 10 % 2 = 1 → (x.q n).compl = (x.q n).head)
      ∧ (e / 2 ^ 11 % 2 = 1 → e / 2 ^ 256 % 2 ^ 64 ≤ (x.q (e / 2 ^ 32 % 2 ^ 14)).compl)
    ((q.st = .empty ∨ q.st = .disabled ∨ q.st = .errored ∨ q.head = q.tail ∨ q.placing ≠ none ∨ st = .dead ∨ st = .tearing ∨ st = .frozen) →
        exec i s = .next s)
      ∧ (q.st = .ready ∨ q.st = .blocked ∨ q.st = .draining → q.head ≠ q.tail → q.placing = none → st ≠ .dead → st ≠ .tearing → st ≠ .frozen →
        s.frontRead n 0 q.target (q.slot q.head) 64 = .ok u bs →
        (e % 256 ≠ 1 → e % 256 ≠ 2 → errs 1)
        ∧ (e % 256 = 1 ∨ e % 256 = 2 → ¬clean → errs 2)
        ∧ (e % 256 = 1 ∨ e % 256 = 2 → clean → foreign → errs 3)
        ∧ (e % 256 = 1 ∨ e % 256 = 2 → clean → ¬foreign → e / 2 ^ 8 % 2 = 1 → e / 2 ^ 192 % 8 ≠ 0 → errs 4)
        ∧ (e % 256 = 1 ∨ e % 256 = 2 → clean → ¬foreign → e / 2 ^ 8 % 2 = 1 → e / 2 ^ 192 % 8 = 0 → met u → ∀ v d w,
          u.readDesc n e = .desc v d →
          let pred := v.frontRead n frontPred (scalarTarget (coreOf (frontKey n))) (BitVec.ofNat 64 (e / 2 ^ 192)) 8
          (∀ c va m, pred = .fault w c va m → errsFrom w 4)
            ∧ ∀ ps, pred = .ok w ps → (leNat ps ≠ 0 ↔ e / 2 ^ 9 % 2 = 1) → e / 2 ^ 320 % 2 ^ 64 = 0 → ∃ t, exec i s = .next t ∧ passed w t)
        ∧ (e % 256 = 1 ∨ e % 256 = 2 → clean → ¬foreign → e / 2 ^ 8 % 2 = 0 →
          (¬met u → q.st = .draining → exec i s = .next u)
          ∧ (¬met u → q.st ≠ .draining → ∃ t, exec i s = .next t ∧ t = { u with queues := t.queues } ∧ t.q n = { u.q n with st := .blocked }
            ∧ ∀ m, m ≠ n → t.q m = u.q m)
          ∧ (met u → e % 256 = 2 → e / 2 ^ 320 % 2 ^ 64 = 0 → ∃ t, exec i s = .next t ∧ passed u t)
          ∧ (∀ w d, met u → e % 256 = 1 → u.readDesc n e = .desc w (some d) →
            let kern := kernelOf d
            let l := Claim.launchOf w n e kern (Claim.tripOf e)
            kernelBad w l.part (w.ctx l.ctx).sup d (Claim.tripOf e) = false → groupsOf kern.marks (Claim.tripOf e) ≠ 0 → kern.bks = false →
            ∃ t, exec i s = .next t ∧ t.mem = w.mem ∧ t.launches = w.launches ++ [l] ∧ t.nextId = w.nextId + 1
              ∧ (t.q n).head = (w.q n).head + 1 ∧ (t.q n).placing = some l.id ∧ .launch l.id ∈ t.pending l.part
              ∧ .event (.placeGroup l.part) ∈ t.agenda))))
    ∧ ∀ (s : State) (id : Nat),
        (s.lau id = none → exec (.launchComplete id) s = .next s)
          ∧ ∀ l, s.lau id = some l →
            let st := (s.ctx l.ctx).st
            let allOver := l.retired = l.n ∧ l.placed = l.n ∧ (∀ e ∈ s.threads, e.2.exitedOf ≠ some id)
              ∧ (∀ h ∈ s.holders, ∀ q ∈ h.pullers, q.2 = id → q.1 ∉ h.flight) ∧ st ≠ .tearing ∧ st ≠ .dead
            (¬allOver → exec (.launchComplete id) s = .next s)
            ∧ (allOver → l.crec = 0 → ∃ t, exec (.launchComplete id) s = .next t ∧ Claim.EntryEnds l s t)
            ∧ ∀ u, allOver → l.crec ≠ 0 → l.crec.toNat % 8 = 0 →
              s.frontWrite l.q l.seq l.crec (leBytes 8 (l.status + l.seq % 2 ^ 56 * 2 ^ 8)) = .done u →
              ∃ t, exec (.launchComplete id) s = .next t ∧ Claim.EntryEnds l u t

/-! ## Groups and slices -/

namespace Sys2Proof.Claim

/-- The pending items that may be placed now, oldest first: past the age limit, the oldest alone (R241, R213). -/
def offered (s : State) (p : Nat) : List PendItem := if (s.part p).aged then (s.eligible p).take 1 else s.eligible p

/-- The values of R235 that a group starts with. -/
def Started_ (x : CtxSt) (l : Launch) (g : Group) (t : Thread) : Prop :=
  let c := coordsOf l.kern.marks l.trip g.g
  let trip (i : Nat) := if l.kern.marks.getD i 0 = 0 then 0 else l.trip.getD i 0 % 2 ^ 32
  let r (n : Nat) := getScalar t none n
  let pair (a b : Nat) := word [(a % 2 ^ 32, 0), (b % 2 ^ 32, 32)]
  t.pc = l.kern.entry ∧ r 2 = l.args ∧ r 3 = BitVec.ofNat 64 g.g ∧ r 4 = pair (c.getD 0 0) (c.getD 1 0) ∧ r 5 = pair (c.getD 2 0) (c.getD 3 0)
    ∧ r 6 = pair (trip 0) (trip 1) ∧ r 7 = pair (trip 2) (trip 3) ∧ r 8 = BitVec.ofNat 64 l.n
    ∧ r 9 = BitVec.ofNat 64 (if l.kern.scrb = 0 then 0 else g.scrOff) ∧ r 10 = BitVec.ofNat 64 (l.kern.scrb * 4096)
    ∧ (∀ n, n = 1 ∨ 11 ≤ n → r n = 0) ∧ (∀ n, n < l.kern.tags.length → tagOf t.v n = l.kern.tags.getD n .n64)
    ∧ t.v.gc = l.kern.gc ∧ t.v.cb = l.kern.cb ∧ t.v.ltag = l.kern.ltag ∧ t.v.vl = 0 ∧ t.sup = l.kern.sup
    ∧ t.trap.tvec = x.tvec &&& ~~~(3 : W64) ∧ t.pipe = [] ∧ t.loops = [] ∧ t.hold = .none ∧ t.halted = false

/-- The thread belongs to the group (R209, R250). -/
def Belongs (x : CtxSt) (l : Launch) (g : Group) (t : Thread) : Prop :=
  t.group = some g.id ∧ t.ctx = g.ctx ∧ t.owner = x.owner ∧ t.part = g.part ∧ t.gnum = g.g ∧ t.nmem = max 1 l.span ∧ t.quad = g.quad

/-- The key of a group's home thread: four times its core, and its number. -/
def home (g : Group) : ThreadKey := (g.mems.head?.map fun m => 4 * m.1 + m.2).getD 0

/-- What a save keeps of a thread, on the cores its group is restored to, its stopped instructions to be issued again (R41, R216, R246). -/
def back (a : Thread) (g : Group) : Thread := reissue (restored a g.mems)

/-- No instruction, strip, store or request of a thread is outstanding. -/
def AtRest (t : Thread) : Prop :=
  t.pipe = [] ∧ t.reloc = [] ∧ t.pending = [] ∧ t.asked = [] ∧ t.ch0.active = [] ∧ t.ch1.active = []

end Sys2Proof.Claim

/-- R234, R236, R240, R241, R213: the dispatcher places the first item that fits; for the first item of a launch that is no gang, four
groups while four remain, and one otherwise, each Loading with the lanes, scratchpad, slots and records it asked for. Where no item
fits, no group moves. The age limit leaves only the oldest item to be placed. -/
def Obligations.GroupsPlaced : Prop :=
  ∀ (s : State) (p : Nat),
    let i := Instr.placeGroup p
    let u := s.applySlices p
    (∃ t, exec i s = .next t ∧ t = { s with ctxs := t.ctxs, cores := t.cores, groups := t.groups, nextId := t.nextId, launches := t.launches
                                            pend := t.pend, parts := t.parts, queues := t.queues, agenda := t.agenda }
        ∧ ((∀ x ∈ Claim.offered u p, u.tryItem x = none) → t.groups = s.groups ∧ t.cores = s.cores ∧ t.launches = s.launches ∧ t.pend = s.pend)
        ∧ ∀ id l, (Claim.offered u p).head? = some (.launch id) → u.lau id = some l → l.kern.bks = false → l.placed < l.n →
          u.tryItem (.launch id) ≠ none →
          let k := if 4 ≤ l.n - l.placed then 4 else 1
          (t.lau id).map (·.placed) = some (l.placed + k) ∧ (t.part p).aged = false
            ∧ ∃ new, t.groups = s.groups ++ new ∧ new.map (·.g) = (List.range k).map (l.placed + ·)
              ∧ ∀ g ∈ new, g.launch = l.id ∧ g.st = .loading ∧ g.ctx = l.ctx ∧ g.part = l.part ∧ g.save = none
                ∧ g.lgs = List.replicate (max 1 l.span) l.kern.lg ∧ g.mems.length = max 1 l.span ∧ g.records.length = max 1 l.span
                ∧ g.scrb = l.kern.scrb ∧ g.palm = l.kern.palm ∧ g.quad = decide (k = 4) ∧ .event (.groupLoadComplete g.id) ∈ t.agenda)
      ∧ (s.eligible p = [] → exec (.pendingAgeLimit p) s = .next s)
      ∧ (s.eligible p ≠ [] → ∃ t, exec (.pendingAgeLimit p) s = .next t ∧ t.part p = { s.part p with aged := true }
          ∧ t = { s with parts := t.parts, agenda := s.agenda ++ [.event (.placeGroup p)] } ∧ ∀ y, y ≠ p → t.part y = s.part y)

namespace Sys2Proof.Claim

/-- R215–R217: the save of a group reaches no byte outside its records. The record of a group on one core then holds each mask, each
dirty register's bytes below its mark, and the scratchpad range as it was. -/
def Recorded (g : Group) (s t : State) : Prop :=
  let v := (s.thOf (home g)).v
  let place (n : Nat) := (s.ctx g.ctx).savebase.toNat + 4194304 * n
  (∀ a, (∀ n ∈ g.records, a < place n ∨ place n + 4194304 ≤ a) → memGet t.mem a = memGet s.mem a)
    ∧ ∀ n c h, g.records = [n] → g.mems = [(c, h)] → v.members.length ≤ 1 → (∀ m ∈ v.members, m.attached = true ∧ m.core = c) →
      (∀ k, 1 ≤ k → k ≤ 7 → t.bytes (place n + 0x2000 * k) 0x2000 = leBytes 0x2000 (v.masks.get 0 k))
        ∧ (∀ r, r < 32 → v.dirty.get 0 r ≤ 4096 →
          t.bytes (place n + 0x10000 + 4096 * r) (v.dirty.get 0 r) = leBytes (v.dirty.get 0 r) (v.vregs.get 0 r).toNat)
        ∧ (g.scrb ≤ 384 → t.bytes (place n + 0x150000) (4096 * g.scrb) = s.bytes (spadFlat c g.scrOff) (4096 * g.scrb))

end Sys2Proof.Claim

/-- R235, R240, R216: when a load completes, a new group's thread has the values of R235 and R40, a saved one what was saved, with its
members on their new cores. A save keeps the thread, writes its record (R215; the order of the
bytes within a section is the model's choice, log entry 37), and frees its cores; while an instruction, a strip or a request of it is
outstanding, it may go on stopping. A wait that a save meets is over. -/
def Obligations.GroupsLoadedAndSaved : Prop :=
  (∀ (s : State) (id : Nat),
    (∀ g, s.grp id = some g → g.st ≠ .loading ∨ s.lau g.launch = none) → exec (.groupLoadComplete id) s = .next s)
    ∧ (∀ (s : State) (id : Nat) (g : Group) (l : Launch), s.grp id = some g → g.st = .loading → s.lau g.launch = some l →
      ∃ t, exec (.groupLoadComplete id) s = .next t
        ∧ Claim.Belongs (s.ctx g.ctx) l g (t.thOf (Claim.home g))
        ∧ (t.grp id).map (·.st) = some (if g.stopAfter then .stopping else .loaded)
        ∧ (g.stopAfter = true → .event (.saveComplete g.id) ∈ t.agenda)
        ∧ (g.save = none → Claim.Started_ (s.ctx g.ctx) l g (t.thOf (Claim.home g)))
        ∧ ∀ r, g.save = some r → r.thr.hold = .none → pageResult (s.ctx g.ctx) g.id ≠ some false →
          let b := Claim.back r.thr g
          (∃ a : Thread, t.thOf (Claim.home g) =
            { b with group := a.group, ctx := a.ctx, owner := a.owner, part := a.part, gnum := a.gnum, nmem := a.nmem, quad := a.quad
                     seqW := a.seqW, seqVt := a.seqVt, seqRem := a.seqRem, seqAge := a.seqAge, watchHit := a.watchHit })
          ∧ b.sregs = r.thr.sregs ∧ b.shadow = r.thr.shadow ∧ b.pc = r.thr.pc ∧ b.sup = r.thr.sup ∧ b.loops = r.thr.loops ∧ b.ui = r.thr.ui
          ∧ b.ch0 = r.thr.ch0 ∧ b.ch1 = r.thr.ch1 ∧ b.pending = r.thr.pending ∧ b.v.vregs = r.thr.v.vregs ∧ b.v.masks = r.thr.v.masks
          ∧ b.pipe.length = r.thr.pipe.length
          ∧ (r.thr.pipe = [] ∨ (∀ e ∈ r.thr.pipe, e.partWay = false) → b.v.vstart = r.thr.v.vstart)
          ∧ ((∃ e ∈ r.thr.pipe, e.partWay = true) → b.v.vstart = 0))
    ∧ ∀ (s : State) (id : Nat),
        (∀ g, s.grp id = some g → g.st ≠ .stopping) → exec (.saveComplete id) s = .next s
          ∧ ∀ g, s.grp id = some g → g.st = .stopping → (s.ctx g.ctx).st ≠ .tearing → g.stopAfter = false → g.mems ≠ [] →
            Claim.AtRest (s.thOf (Claim.home g)) →
            let t0 := s.thOf (Claim.home g)
            let e0 := t0.endWait
            ∃ t r, exec (.saveComplete id) s = .next t ∧ Claim.Recorded g s t ∧ t.thOf (Claim.home g) = {}
              ∧ (t.grp id).bind (·.save) = some r ∧ (t.grp id).map (·.st) = some .saved
              ∧ (∀ m ∈ g.mems, m.2 < 4 → (t.core m.1).lg.getD m.2 0 = 0)
              ∧ (∀ x, ((t.core (coreOf (Claim.home g))).slot x).st ≠ .claimed (Claim.home g))
              ∧ .event (.placeGroup g.part) ∈ t.agenda
              ∧ r.thr = { e0 with v := r.thr.v, ch0 := r.thr.ch0, ch1 := r.thr.ch1, hold := .none }
              ∧ r.thr.v = { t0.v with extent := r.thr.v.extent, dirty := [], vregs := r.thr.v.vregs, members := r.thr.v.members }
              ∧ ((t0.v.dirty.map (·.1)).Nodup → ∀ n, r.thr.v.vregs.get 0 n = BitVec.ofNat 32768
                ((t0.v.vregs.get 0 n).toNat % 2 ^ (8 * max (t0.v.extent.get 0 n) (t0.v.dirty.get 0 n))))

/-- R213, R245–R247: the lane groups of an exit that no item took go to the loaded threads of its launch, none beyond eight or the core's
working lanes. A span whose mark no vsetl met stops whole, with its gang. A core that became free is marked for attachment. A held thread
is charged 256 ÷ WEIGHT for each 1,024 cycles. A pre-emption stops loaded groups of contexts that may be pre-empted, and their gangs, or
marks members, and touches nothing else; with no item in need of room it stops none. -/
def Obligations.SlicesKept : Prop :=
  (∀ (s : State) (c : Nat),
    let fits := ∃ x, (s.core c).last = some x ∧ ∃ i ∈ s.eligible x.1, s.tryItem i ≠ none
    ((s.core c).returned = [] ∨ fits → exec (.returnedLanesTimeout c) s = .next s)
      ∧ ∀ l n rest, ¬fits → (s.core c).returned = (l, n) :: rest → ∃ t, exec (.returnedLanesTimeout c) s = .next t ∧ t = { s with cores := t.cores }
        ∧ (∀ d, d ≠ c → t.core d = s.core d) ∧ t.core c = { s.core c with returned := rest, lg := (t.core c).lg }
        ∧ (∀ j, (s.core c).lg.getD j 0 ≤ (t.core c).lg.getD j 0 ∧ (t.core c).lg.getD j 0 ≤ max 8 ((s.core c).lg.getD j 0))
        ∧ (t.core c).given ≤ max (s.core c).given (s.core c).work)
    ∧ (∀ (s : State) (k : ThreadKey),
      let marked := ∃ m ∈ (s.thOf k).v.members, m.mark = some false
      (¬marked ∨ (s.thOf k).group = none → exec (.spanDetachTimeout k) s = .next s)
        ∧ ∀ id g, marked → (s.thOf k).group = some id → s.grp id = some g → g.st = .loaded → (s.groups.map (·.id)).Nodup →
          let gang := ((s.lau g.launch).map (·.kern.bks)).getD false
          let stops (x : Group) := x.id = id ∨ (gang = true ∧ x.launch = g.launch ∧ x.st = .loaded)
          ∃ t, exec (.spanDetachTimeout k) s = .next t
          ∧ t = { s with groups := t.groups, ctxs := t.ctxs, agenda := t.agenda } ∧ (∃ l, t.agenda = s.agenda ++ l)
          ∧ (∀ x ∈ s.groups, stops x → .event (.saveComplete x.id) ∈ t.agenda)
          ∧ t.groups.length = s.groups.length ∧ (∀ x ∈ s.groups, stops x → { x with st := .stopping } ∈ t.groups)
          ∧ ∀ x ∈ s.groups, ¬stops x → x ∈ t.groups)
    ∧ (∀ (s : State) (k : ThreadKey) (c : Nat) (id : Nat) (g : Group) (l : Launch), (s.thOf k).group = some id → s.grp id = some g →
      s.lau g.launch = some l → g.st = .loaded → c ∈ (s.part g.part).cores → (s.core c).clean = true → ∀ tid, s.freeTid c = some tid →
      k ≠ 4 * c + tid →
      let mine (m : Member) : Bool := !m.attached && m.mark.isNone && dieOf m.core == dieOf c
      s.seatOk g.part (s.ctx g.ctx).owner { id := some g.id, g := g.g, lgs := [l.kern.lg], scrb := g.scrb, off := some g.scrOff, palm := g.palm } 0 c = true →
      (∃ m ∈ (s.thOf k).v.members, mine m = true) → ∃ t, exec (.spanAttachMark k c) s = .next t
        ∧ t = { s with threads := t.threads, cores := t.cores, groups := t.groups }
        ∧ (∀ j, j ≠ k → j ≠ 4 * c + tid → t.thOf j = s.thOf j)
        ∧ (∃ vt, t.thOf (4 * c + tid) = { s.thOf (4 * c + tid) with seqW := l.seqw, seqVt := vt, seqRem := 0, seqAge := 0 })
        ∧ t.thOf k = { s.thOf k with v := { (s.thOf k).v with members := (t.thOf k).v.members } }
        ∧ (t.thOf k).v.members = (s.thOf k).v.members.map (fun m => if mine m then { m with core := c, tid, mark := some true } else m)
        ∧ t.groups = s.groups.map (fun x => if x.id = g.id then { x with mems := x.mems ++ [(c, tid)] } else x)
        ∧ (∀ d, d ≠ c → t.core d = s.core d) ∧ (t.core c).lg = (s.core c).lg.set tid l.kern.lg)
    ∧ (∀ (s : State) (k : ThreadKey),
      let who (g : Group) := g.st.holds && g.mems.any (·.1 == coreOf k) && g.mems.contains (coreOf k, tidOf k)
      (s.groups.find? who = none → exec (.svtCharge k) s = .next s)
        ∧ ∀ g, s.groups.find? who = some g → ∃ t, exec (.svtCharge k) s = .next t ∧ t = { s with ctxs := t.ctxs }
          ∧ (∀ y, y ≠ g.ctx → t.ctx y = s.ctx y)
          ∧ let x := s.ctx g.ctx
            let w := 4 * max 1 x.weight
            t.ctx g.ctx = { x with svt := (x.svt + (1024 + x.svtRem) / w) % 2 ^ 32, svtRem := (1024 + x.svtRem) % w })
    ∧ ∀ (s : State) (p : Nat), ∃ t, exec (.preemptForSpace p) s = .next t
        ∧ t = { s with threads := t.threads, ctxs := t.ctxs, groups := t.groups, agenda := t.agenda }
        ∧ (∀ j, ∃ ms, t.thOf j = { s.thOf j with v := { (s.thOf j).v with members := ms } })
        ∧ ((s.groups.map (·.id)).Nodup → ∃ (a : Nat) (stops : Group → Bool),
          t.groups = s.groups.map (fun g => if stops g then { g with st := .stopping } else g)
            ∧ ∀ g ∈ s.groups, stops g = true → g.st = .loaded
              ∧ ∃ h ∈ s.groups, (h = g ∨ (s.isGang h = true ∧ h.launch = g.launch)) ∧ (s.applySlices p).mayPreempt a h.ctx = true)
        ∧ let u := s.applySlices p
          (∀ i ∈ Claim.offered u p, 0 < (u.ctx (u.itemCtx i)).weight → u.tryItem i ≠ none) → exec (.preemptForSpace p) s = .next u

/-! ## Contexts -/

namespace Sys2Proof.Claim

/-- The function's window has started the command `op`, and it is not carried out yet (R343). -/
def Begun (s : State) (func op : Nat) : Prop := (s.fn func).todo = true ∧ (s.fn func).mcmd.toNat % 16 = op

/-- The context that MCMD names (R343). -/
def named (s : State) (func : Nat) : Nat := (s.fn func).mcmd.toNat / 16 % 2 ^ 12

/-- The context number lies in the partition's range. -/
def InRange (s : State) (p c : Nat) : Prop := (s.part p).ctxBase ≤ c ∧ c < (s.part p).ctxBase + (s.part p).ctxCount

/-- The command is carried out: MSTAT shows STATUS, STATE and QRAISED, BUSY until it completes; no other function's window changes. -/
def Answered (s t : State) (func status state : Nat) (raised : Bool) : Prop :=
  t.fn func = { s.fn func with mstat := word [(status, 0), (state, 8), (one raised, 12), (1, 63)], todo := false }
    ∧ ∀ f, f ≠ func → t.fn f = s.fn f

/-- A command that changes nothing but its answer. -/
def OnlyAnswers (s : State) (i : Instr) (func status : Nat) (state : Nat := 0) (raised : Bool := false) : Prop :=
  ∃ t, exec i s = .next t ∧ Answered s t func status state raised
    ∧ t = { s with funcs := t.funcs, agenda := s.agenda ++ [.event (.commandComplete (.mgmt func))] }

/-- CREATE is refused once its descriptor has been read: that read's request stands at the host link (R15, R317). -/
def ReadsAndAnswers (s : State) (func status : Nat) : Prop :=
  ∃ t, exec (.create func) s = .next t ∧ Answered s t func status 0 false
    ∧ t = { s with funcs := t.funcs, arbs := t.arbs, budgets := t.budgets, agenda := s.agenda ++ [.event (.commandComplete (.mgmt func))] }

/-- The code of a state (R210). -/
def ctxCode (x : CtxState) : Nat :=
  ([CtxState.created, .resident, .running, .preempting, .saved, .faulted, .frozen, .tearing, .dead].findIdx (· == x))

/-- The quantum in effect: never below ⌈SAVEMAX ÷ 1,024⌉ (R208). -/
def quantum (saveMax q : Nat) : Nat := max q ((saveMax + 1023) / 1024)

/-- What freezing does (R219, R210): its loaded groups stop, its queues block, and a CODE 11 record is logged. -/
def Frozen (c : Nat) (s t : State) : Prop :=
  t.ctx c = { s.ctx c with st := .frozen } ∧ (∀ d, d ≠ c → t.ctx d = s.ctx d)
    ∧ (∀ q, t.q q = if (s.q q).ctx = c ∧ ((s.q q).st = .empty ∨ (s.q q).st = .ready ∨ (s.q q).st = .blocked)
        then { s.q q with st := .blocked } else s.q q)
    ∧ t = { s with ctxs := t.ctxs, queues := t.queues, groups := t.groups, agenda := t.agenda, funcs := t.funcs, mem := t.mem
                   threads := t.threads, unitSeq := t.unitSeq }
    ∧ ∀ g ∈ s.groups, g.ctx = c → g.st = .loaded → .event (.saveComplete g.id) ∈ t.agenda

/-- Nothing of a context is left to run: no group, no launch, no pending item, no enabled queue (R221). -/
def Stripped (c : Nat) (s t : State) : Prop :=
  (∀ g ∈ t.groups, g.ctx ≠ c) ∧ (∀ l ∈ t.launches, l.ctx ≠ c) ∧ (∀ q, (s.q q).ctx = c → (t.q q).st = .disabled)
    ∧ (∀ q, (s.q q).ctx ≠ c → t.q q = s.q q) ∧ (∀ g ∈ s.groups, g.ctx ≠ c → g ∈ t.groups)
    ∧ t.parts = s.parts ∧ t.origins = s.origins ∧ t.holders = s.holders ∧ t.faults = s.faults ∧ (∀ e ∈ t.tlb, e ∈ s.tlb)

end Sys2Proof.Claim

/-- R207, R208, R210, R343: CREATE reads its descriptor once and is refused, in the order of its statuses, or makes a created context
with a zeroed save area; SETSLICE takes effect at the next slice decision; QUERY returns the state and QRAISED. A quantum below SAVEMAX
is raised. A refused command changes nothing. -/
def Obligations.ContextsCommanded : Prop :=
  ∀ (s : State) (func p : Nat),
    let f := s.fn func
    let c := Claim.named s func
    let arg := f.marg.toNat
    let x := s.load (hostFlat arg) 64
    let n := x % 2 ^ 12
    let base := x / 2 ^ 128 % 2 ^ 64
    let size := x / 2 ^ 192 % 2 ^ 16 * 2 ^ 22
    let inSlices := ∀ i, i < (base % 2 ^ 33 + size + 2 ^ 33 - 1) / 2 ^ 33 → base / 2 ^ 33 + i ∈ (s.part p).slices
    let bad3 := x / 2 ^ 19 % 2 ^ 5 ≠ 0 ∨ x / 2 ^ 56 % 2 ^ 8 ≠ 0 ∨ x / 2 ^ 208 % 2 ^ 48 ≠ 0 ∨ x / 2 ^ 384 ≠ 0 ∨ x / 2 ^ 64 % 2 ^ 12 ≠ 0
      ∨ x / 2 ^ 32 % 2 ^ 24 = 0 ∨ x / 2 ^ 320 % 4 ≠ 0
    let bad4 := base % 65536 ≠ 0 ∨ size = 0 ∨ ¬inSlices
    (∀ i op, (i, op) ∈ [(Instr.create func, 1), (.setslice func, 2), (.freeze func, 3), (.teardown func, 4), (.query func, 5)] →
        (¬Claim.Begun s func op → exec i s = .next s)
        ∧ (Claim.Begun s func op → s.partOf func = none → Claim.OnlyAnswers s i func 1)
        ∧ (Claim.Begun s func op → s.partOf func = some p → op ≠ 1 → ¬Claim.InRange s p c → Claim.OnlyAnswers s i func 1))
      ∧ (s.partOf func = some p → Claim.Begun s func 1 →
        (arg % 64 ≠ 0 ∨ (s.pcie.get {} 0).up = false → Claim.OnlyAnswers s (.create func) func 7)
        ∧ (arg % 64 = 0 → (s.pcie.get {} 0).up = true →
          (¬Claim.InRange s p n → Claim.ReadsAndAnswers s func 1)
          ∧ (Claim.InRange s p n → (s.ctx n).st ≠ .dead → Claim.ReadsAndAnswers s func 2)
          ∧ (Claim.InRange s p n → (s.ctx n).st = .dead → bad3 → Claim.ReadsAndAnswers s func 3)
          ∧ (Claim.InRange s p n → (s.ctx n).st = .dead → ¬bad3 → bad4 → Claim.ReadsAndAnswers s func 4)
          ∧ (Claim.InRange s p n → (s.ctx n).st = .dead → ¬bad3 → ¬bad4 → ∃ t, exec (.create func) s = .next t
            ∧ Claim.Answered s t func 0 0 false
            ∧ t = { s with ctxs := t.ctxs, mem := t.mem, queues := t.queues, agenda := t.agenda, funcs := t.funcs, arbs := t.arbs, budgets := t.budgets }
            ∧ t.ctx n = { st := .created, part := p, owner := x / 2 ^ 12 % 2 ^ 6, sup := decide (x / 2 ^ 18 % 2 = 1), weight := x / 2 ^ 24 % 2 ^ 8
                          quant := Claim.quantum (s.part p).saveMax (x / 2 ^ 32 % 2 ^ 24)
                          qraised := decide (x / 2 ^ 32 % 2 ^ 24 < ((s.part p).saveMax + 1023) / 1024)
                          ptroot := x / 2 ^ 64 % 2 ^ 64, savebase := BitVec.ofNat 64 base, savecnt := x / 2 ^ 192 % 2 ^ 16
                          peertab := BitVec.ofNat 64 (x / 2 ^ 256), tvec := BitVec.ofNat 64 (x / 2 ^ 320) }
            ∧ (∀ d, d ≠ n → t.ctx d = s.ctx d)
            ∧ (∀ a, t.byte a = if base ≤ a ∧ a < base + size then 0 else s.byte a)
            ∧ ∀ m, t.q m = { s.q m with st := (t.q m).st } ∧ ((∀ e ∈ s.queues, e.1 = m → e.2.ctx ≠ n) → t.q m = s.q m))))
      ∧ (s.partOf func = some p → Claim.InRange s p c → Claim.Begun s func 2 →
        (arg / 2 ^ 8 % 2 ^ 24 = 0 → Claim.OnlyAnswers s (.setslice func) func 3)
        ∧ (arg / 2 ^ 8 % 2 ^ 24 ≠ 0 → (s.ctx c).st = .dead ∨ (s.ctx c).st = .tearing → Claim.OnlyAnswers s (.setslice func) func 5)
        ∧ (arg / 2 ^ 8 % 2 ^ 24 ≠ 0 → (s.ctx c).st ≠ .dead → (s.ctx c).st ≠ .tearing → ∃ t, exec (.setslice func) s = .next t
          ∧ Claim.Answered s t func 0 0 false
          ∧ t = { s with ctxs := t.ctxs, funcs := t.funcs, agenda := s.agenda ++ [.event (.commandComplete (.mgmt func))] }
          ∧ (∀ d, d ≠ c → t.ctx d = s.ctx d)
          ∧ t.ctx c = { s.ctx c with sliceNext := some (arg % 2 ^ 8, Claim.quantum (s.part p).saveMax (arg / 2 ^ 8 % 2 ^ 24))
                                     qraised := decide (arg / 2 ^ 8 % 2 ^ 24 < ((s.part p).saveMax + 1023) / 1024) }))
      ∧ (s.partOf func = some p → Claim.InRange s p c → Claim.Begun s func 5 →
        Claim.OnlyAnswers s (.query func) func 0 (Claim.ctxCode (s.ctx c).st) (s.ctx c).qraised)
      ∧ ∀ src,
        let busyOff (t : State) : Prop := match src with
          | .mgmt g => t = { s with funcs := t.funcs } ∧ (∀ h, h ≠ g → t.fn h = s.fn h)
              ∧ t.fn g = { s.fn g with mstat := BitVec.ofNat 64 ((s.fn g).mstat.toNat % 2 ^ 63) }
          | .pgcmd k => t = { s with threads := t.threads } ∧ (∀ j, j ≠ k → t.thOf j = s.thOf j) ∧ (t.thOf k).pgcmd = { (s.thOf k).pgcmd with busy := false }
              ∧ ∃ h, (t.thOf k) = { s.thOf k with pgcmd := (t.thOf k).pgcmd, hold := h }
          | .debug none => t = { s with dbg := { s.dbg with busy := false } }
          | .debug (some (st, d)) => t = { s with dbg := { s.dbg with busy := false, status := st, ddata := d } }
        let running : Bool := match src with
          | .mgmt g => (s.fn g).todo
          | .pgcmd k => (s.thOf k).pgcmd.todo
          | .debug _ => s.dbg.todo
        (running = true → exec (.commandComplete src) s = .next s)
          ∧ (running = false → (∀ e ∈ s.threads, e.2.pending = []) → ∃ t, exec (.commandComplete src) s = .next t ∧ busyOff t)

/-- R208, R219, R210: FREEZE of a context that runs, is resident, is being saved, is saved or waits for a page freezes it, and in another
state is refused with status 5. An uncorrectable error in its state freezes it too, and marks what it struck as poisoned. -/
def Sys2Proof.Claim.ContextsFrozen : Prop :=
  ∀ (s : State),
    (∀ func p,
      let c := Claim.named s func
      s.partOf func = some p → Claim.InRange s p c → Claim.Begun s func 3 →
        (¬Claim.MayFreeze (s.ctx c).st → Claim.OnlyAnswers s (.freeze func) func 5)
        ∧ (Claim.MayFreeze (s.ctx c).st → ∃ t, exec (.freeze func) s = .next t ∧ Claim.Frozen c s t ∧ t.groups = s.groups.map (Claim.stopped true c)
          ∧ (t.fn func).mstat = Claim.word [(1, 63)] ∧ (t.fn func).todo = false
          ∧ Claim.Logged (s.part (s.ctx c).part).func 11 s t ∧ .event (.commandComplete (.mgmt func)) ∈ t.agenda))
    ∧ ∀ c k,
        (¬Claim.MayFreeze (s.ctx c).st → exec (.softError c k) s = .next s)
        ∧ (Claim.MayFreeze (s.ctx c).st → ∃ t, exec (.softError c k) s = .next t ∧ Claim.Frozen c s t
          ∧ Claim.Logged (s.part (s.ctx c).part).func 11 s t
          ∧ t.groups = s.groups.map fun g =>
              let struck : Bool := match k with
                | some k => (s.thOf k).group == some g.id
                | none => g.st == .saved
              Claim.stopped true c (if g.ctx = c ∧ struck = true then { g with poisoned := true } else g))

/-- R208, R220, R221, R218, R268: teardown disables a context's queues, discards its launches and pending items, ends its groups with no
save and frees their cores, once their instructions that have started have completed; a core that only it held is cleaned, its cached
translations too. Then its links, windows, pages and barriers go, and it is dead. A function's reset ends its freeze and tears every context of its partition down. -/
def Sys2Proof.Claim.ContextsTornDown : Prop :=
  ∀ (s : State),
    (∀ func p,
      let c := Claim.named s func
      let done (t : State) := (t.ctx c).st = .tearing ∧ (t.ctx c).waits = [] ∧ Claim.Stripped c s t ∧ (t.fn func).mstat = Claim.word [(1, 63)]
        ∧ (t.fn func).todo = false ∧ .event (.teardownComplete c) ∈ t.agenda ∧ .event (.commandComplete (.mgmt func)) ∈ t.agenda
      s.partOf func = some p → Claim.InRange s p c → Claim.Begun s func 4 →
        ((s.ctx c).st = .dead ∨ (s.ctx c).st = .tearing → Claim.OnlyAnswers s (.teardown func) func 5)
        ∧ ((s.ctx c).st ≠ .dead → (s.ctx c).st ≠ .tearing → (∀ g ∈ s.groups, g.ctx = c →
            (s.thOf (Claim.home g)).pipe = [] ∧ (s.thOf (Claim.home g)).pending = []) →
          ∃ t, exec (.teardown func) s = .next t ∧ done t
            ∧ (∀ a, t.byte a = s.byte a ∨ (t.byte a = 0 ∧ 2 ^ 62 ≤ a))
            ∧ ∀ core, core ∈ s.coresHeld c → (∀ g ∈ s.groups, g.st.holds = true → (∃ m ∈ g.mems, m.1 = core) → g.ctx = c) →
              (t.core core).slots = [] ∧ (t.core core).clean = true
                ∧ (∀ e ∈ t.tlb, e.unit ≠ core) ∧ (∀ tid, tid < 4 → (t.thOf (4 * core + tid)).group = none) ∧ ∀ off, off < 2 ^ 21 → t.byte (spadFlat core off) = 0))
    ∧ (∀ c,
        ((s.ctx c).st ≠ .tearing → exec (.teardownComplete c) s = .next s)
        ∧ ((s.ctx c).st = .tearing → (∀ g ∈ s.groups, g.ctx = c → (s.thOf (Claim.home g)).pipe = []) →
          ∃ t, exec (.teardownComplete c) s = .next t
          ∧ t.ctx c = { st := .dead, part := (s.ctx c).part } ∧ (∀ o ∈ t.origins, o.ctx = c → o.st.live = false)
          ∧ (∀ h ∈ t.holders, h.ctx ≠ c) ∧ (∀ x ∈ t.tlb, x.ctx ≠ c) ∧ (∀ f ∈ t.faults, f.ctx ≠ c) ∧ (∀ b ∈ t.bars, b.2.ctx ≠ c)
          ∧ .event (.placeGroup (s.ctx c).part) ∈ t.agenda
          ∧ ((∀ o ∈ s.origins, o.ctx = c → o.st.live = false) → (∀ h ∈ s.holders, h.ctx = c → ¬Claim.Held h.st) →
            (∀ g ∈ s.groups, g.ctx ≠ c) → s.coresHeld c = [] → (∀ e ∈ s.funcs, e.2.waiting = []) →
            t = { s with holders := s.holders.filter (·.ctx != c), ctxs := t.ctxs, bars := s.bars.filter (·.2.ctx != c)
                         tlb := s.tlb.filter (·.ctx != c), faults := s.faults.filter (·.ctx != c)
                         agenda := s.agenda ++ ((s.faults.filter fun f => f.ctx != c && !f.posted).map fun f =>
                           Turn.event (.faultRecordPost (f.core / 384))) ++ [.event (.placeGroup (s.ctx c).part)] }
              ∧ ∀ d, d ≠ c → t.ctx d = s.ctx d)))
    ∧ ∀ func,
        (s.partOf func = none → exec (.functionReset func) s = .next s)
        ∧ ∀ p, s.partOf func = some p → ∃ t, exec (.functionReset func) s = .next t ∧ (t.fn func).frozen = false
          ∧ (∀ c ∈ s.ctxsOf p, (t.ctx c).st = .tearing)
          ∧ ((∀ g ∈ s.groups, (s.thOf (Claim.home g)).pipe = []) →
            ∀ g ∈ t.groups, (s.ctx g.ctx).part = p → (s.ctx g.ctx).st = .dead ∨ (s.ctx g.ctx).st = .tearing)
          ∧ t.parts = s.parts

/-- Contexts freeze, and are torn down. -/
def Obligations.ContextsFreezeAndEnd : Prop :=
  Claim.ContextsFrozen ∧ Claim.ContextsTornDown

/-! ## Pages -/

namespace Sys2Proof.Claim

/-- The command `op` of R271 (1 INVAL, 2 PAGEDONE) has been started by this route, on context `c`, with the fields `x`. -/
def PageCmd (s : State) (src : CmdSrc) (op c x : Nat) : Prop :=
  match src with
  | .mgmt func => ∃ p, s.partOf func = some p ∧ Begun s func (op + 5) ∧ c = named s func ∧ InRange s p c ∧ x = (s.fn func).marg.toNat
      ∧ x / 2 ^ 3 % 2 ^ 3 ≤ 3 ∧ x / 2 ^ 6 % 2 ^ 10 = 0 ∧ x / 2 ^ 57 % 2 ^ 3 = 0
  | .pgcmd k => (s.thOf k).pgcmd.todo = true ∧ (s.thOf k).pgcmd.cmd.toNat % 4 = op ∧ c = (s.thOf k).ctx ∧ x = (s.thOf k).pgcmd.cmd.toNat
  | .debug _ => False

/-- STATUS of a page command, in MSTAT plus 16 or in PGCMD (R343, R271). -/
def PageAnswer (s t : State) (src : CmdSrc) (status : Nat) : Prop :=
  match src with
  | .mgmt func => Answered s t func (16 + status) 0 false
  | .pgcmd k => (t.thOf k).pgcmd = { (s.thOf k).pgcmd with status, todo := false }
  | .debug _ => True

/-- No other window and no other thread changes, and of the thread PGCMD alone. -/
def PageOnly (s t : State) (src : CmdSrc) : Prop :=
  (∀ g, src ≠ .mgmt g → t.fn g = s.fn g) ∧ ∀ k, t.thOf k = { s.thOf k with pgcmd := (t.thOf k).pgcmd } ∧ (src ≠ .pgcmd k → t.thOf k = s.thOf k)

/-- 64 KiB pages that a SIZE covers (R271). -/
def sizePages (n : Nat) : Nat := if n = 0 then 1 else if n = 1 then 32 else 16384

/-- The page lies in the range of SIZE and VA (R271). -/
def covers (x page : Nat) : Bool :=
  let n := x / 2 ^ 3 % 2 ^ 3
  let base := x / 2 ^ 16 % 2 ^ 41
  n == 3 || (decide (base ≤ page) && decide (page < base + sizePages n))

/-- VA is not aligned to SIZE (R271). -/
def Unaligned (x : Nat) : Prop := x / 2 ^ 3 % 2 ^ 3 ≠ 3 ∧ x / 2 ^ 16 % 2 ^ 41 % sizePages (x / 2 ^ 3 % 2 ^ 3) ≠ 0

/-- The cached translations of a range are gone from every core and unit, and so are the lines of its pages from the near caches (R267). -/
def Discarded (c x : Nat) (s t : State) : Prop :=
  t.tlb = s.tlb.filter (fun e => !(e.ctx == c && covers x e.page))
    ∧ t.nearLines = s.nearLines.filter fun l => !s.rangeMeets c (rangeOf x) [l / 1024]

/-- The 32 bytes of a fault record (R273). -/
def recordBytes (f : FaultRec) (seq : Nat) : List Byte :=
  leBytes 8 (word [(f.ctx, 0), (f.owner, 12), (f.path, 18), (f.kind, 21), (one f.migw, 23)]).toNat
    ++ leBytes 8 f.va.toNat ++ leBytes 8 (word [(f.core, 0), (f.thr, 11)]).toNat ++ leBytes 8 seq

/-- The fields of a record fit. -/
def RecordFits (f : FaultRec) : Prop :=
  f.ctx < 2 ^ 12 ∧ f.owner < 2 ^ 6 ∧ f.path < 8 ∧ f.kind < 4 ∧ f.core < 2 ^ 11 ∧ f.thr < 4

end Sys2Proof.Claim

/-- R271, R268, R272, R343: INVAL and PAGEDONE, from the window or from PGCMD, are refused where VA is not aligned (2) or a page of the
range is lent (1), from the window for a reserved field (19), and then change nothing; INVAL discards the range's translations; PAGEDONE
does too, removes the range's fault records and marks its waited-for pages arrived, and a context that waits for no page more is saved. -/
def Obligations.PagesDiscarded : Prop :=
  ∀ (s : State) (src : CmdSrc) (op c x : Nat),
    let i := if op = 1 then Instr.inval src else .pagedone src
    let r := rangeOf x
    let refused (status : Nat) := ∃ t, exec i s = .next t ∧ Claim.PageAnswer s t src status ∧ Claim.PageOnly s t src
      ∧ t = { s with funcs := t.funcs, threads := t.threads, agenda := s.agenda ++ [.event (.commandComplete src)] }
    (∀ func p, src = .mgmt func → op = 1 ∨ op = 2 → s.partOf func = some p → Claim.Begun s func (op + 5) →
        let y := (s.fn func).marg.toNat
        (¬Claim.InRange s p (Claim.named s func) → Claim.OnlyAnswers s i func 1)
        ∧ (Claim.InRange s p (Claim.named s func) → 3 < y / 2 ^ 3 % 2 ^ 3 ∨ y / 2 ^ 6 % 2 ^ 10 ≠ 0 ∨ y / 2 ^ 57 % 2 ^ 3 ≠ 0 →
          Claim.OnlyAnswers s i func 19))
      ∧ (op = 1 ∨ op = 2 → Claim.PageCmd s src op c x →
        (Claim.Unaligned x → refused 2) ∧ (¬Claim.Unaligned x → s.rangeLent c r = true → refused 1))
      ∧ ((∀ o ∈ s.origins, o.st.live = false) → s.rangeLent c r = false)
      ∧ (op = 1 → Claim.PageCmd s src op c x → ¬Claim.Unaligned x → s.rangeLent c r = false → ∃ t, exec i s = .next t
        ∧ Claim.PageAnswer s t src 0 ∧ Claim.PageOnly s t src ∧ Claim.Discarded c x s t
        ∧ t = { s with tlb := t.tlb, nearLines := t.nearLines, funcs := t.funcs, threads := t.threads
                       agenda := s.agenda ++ [.event (.commandComplete src)] })
      ∧ (op = 2 → Claim.PageCmd s src op c x → ¬Claim.Unaligned x → s.rangeLent c r = false → ∃ t, exec i s = .next t
        ∧ Claim.PageAnswer s t src 0 ∧ Claim.Discarded c x s t
        ∧ t.faults = s.faults.filter (fun f => !(f.ctx == c && Claim.covers x (Claim.page f.va)))
        ∧ (t.ctx c).waits = (s.ctx c).waits.map (fun w =>
            if w.arrived = none ∧ Claim.covers x w.page = true then { w with arrived := some (decide (x / 4 % 2 = 1)) } else w)
        ∧ ((s.ctx c).st = .faulted → (∃ g ∈ s.groups, g.ctx = c) → (∀ g ∈ s.groups, g.ctx = c → g.st = .saved) →
          (∀ w ∈ (t.ctx c).waits, w.arrived ≠ none) → (t.ctx c).st = .saved ∧ .event (.placeGroup (s.ctx c).part) ∈ t.agenda)
        ∧ ((s.ctx c).st = .frozen → (t.ctx c).st = .frozen)
        ∧ .event (.commandComplete src) ∈ t.agenda ∧ ((∀ e ∈ s.funcs, e.2.waiting = []) → t.mem = s.mem) ∧ t.groups = s.groups ∧ t.queues = s.queues)

/-- R269, R272, R273, R345, R267: a miss of a core is filled from its die's translation unit, or by a walk whose leaf both cache; a
malformed entry is logged. A die's oldest record that is not posted is posted with the unit's next sequence number, while fewer than 1,024
stand: into the function's event ring, or to wait for room there, or behind an earlier record of the unit. An evicted near-cache line is dropped. -/
def Sys2Proof.Claim.FaultsPosted : Prop :=
  (∀ (s : State) (core c : Nat) (va : W64),
      let i := Instr.pageWalk ⟨core, c⟩ va
      let unit := if core < 1536 then 1536 + core / 384 else 1540
      let here (u : Nat) (e : TlbEnt) : Bool := e.unit == u && e.ctx == c && e.page == Claim.page va
      let has (u : Nat) := ∃ e ∈ s.tlb, here u e = true
      let walk := s.walk c (va.toNat % 2 ^ 57)
      let new (u : Nat) (leaf : W64) (lvl : Nat) : List TlbEnt := [{ unit := u, ctx := c, page := Claim.page va, leaf, lvl }]
      let asks (t : State) := { s with arbs := t.arbs, budgets := t.budgets }
      ((s.ctx c).st = .dead ∨ (core < 1536 ∧ has core) ∨ (1536 ≤ core ∧ has unit) → exec i s = .next s)
      ∧ ((s.ctx c).st ≠ .dead → core < 1536 → ¬has core → ∀ e, s.tlb.find? (here unit) = some e →
        exec i s = .next { s with tlb := s.tlb ++ new core e.leaf e.lvl })
      ∧ ((s.ctx c).st ≠ .dead → ¬(core < 1536 ∧ has core) → ¬has unit →
        (∀ e lo, walk = .leaf e lo → ∃ t, exec i s = .next t
          ∧ t = { asks t with tlb := s.tlb ++ new unit (BitVec.ofNat 64 e) lo ++ if core < 1536 then new core (BitVec.ofNat 64 e) lo else [] })
        ∧ (walk = .invalid → ∃ t, exec i s = .next t ∧ t = asks t)
        ∧ ∀ a, walk = .malformed a → ∃ t, exec i s = .next t ∧ Claim.Logged (s.part (s.ctx c).part).func 3 s t
          ∧ t = { asks t with funcs := t.funcs, mem := t.mem, threads := t.threads, unitSeq := t.unitSeq }))
    ∧ (∀ (s : State) (d : Nat),
        let unposted (f : FaultRec) : Bool := f.core / 384 == d && !f.posted
        let standing := (s.faults.filter fun f => f.core / 384 == d && f.posted).length
        (s.faults.find? unposted = none ∨ 1024 ≤ standing → exec (.faultRecordPost d) s = .next s)
        ∧ ∀ f, s.faults.find? unposted = some f → standing < 1024 → Claim.RecordFits f →
          let q := s.unitSeq.get 0 d + 1
          let func := (s.part f.part).func
          let w := s.fn func
          let ring := w.evctl.toNat % 32
          let open_ := w.waiting = [] ∧ bit w.evctl.toNat 5 = true ∧ w.evwr - w.evrd < 2 ^ ring
            ∧ ∀ e ∈ s.funcs, ∀ x ∈ e.2.waiting, x.core / 384 = f.core / 384 → q ≤ x.seq
          ∃ t, exec (.faultRecordPost d) s = .next t
            ∧ t = { s with faults := t.faults, unitSeq := t.unitSeq, funcs := t.funcs, mem := t.mem, threads := t.threads }
            ∧ t.unitSeq.get 0 d = q ∧ t.faults = s.faults.map (fun g => if g = f then { f with seq := q, posted := true } else g)
            ∧ (∀ g, g ≠ func → t.fn g = s.fn g)
            ∧ (open_ → t.fn func = { w with evwr := w.evwr + 1 }
              ∧ Claim.Stored (hostFlat (w.evbase.toNat + 32 * (w.evwr % 2 ^ ring))) (Claim.recordBytes f q) s t)
            ∧ (¬open_ → t.mem = s.mem ∧ t.fn func = { w with waiting := w.waiting ++ [{ f with seq := q, posted := true }] }))
    ∧ ∀ (s : State) (line : Nat), exec (.nearCacheEvict line) s = .next { s with nearLines := s.nearLines.filter (· != line) }

/-- A page fault swaps its context out, and its record is posted. -/
def Obligations.FaultsSwapOutAndPost : Prop :=
  Claim.FetchPageFaultsSwapOut ∧ Claim.FaultsPosted

/-! ## Strings, power and harm -/

namespace Sys2Proof.Claim

/-- The trace ring of a function takes a record, or counts it as lost (R358): `byte` is its byte at `off`. -/
def Traced (func off byte : Nat) (s t : State) : Prop :=
  let a := s.fn func
  let b := t.fn func
  let room := bit a.trctl.toNat 5 = true ∧ a.trwr - a.trrd < 2 ^ (a.trctl.toNat % 32)
  (room → b.trwr = a.trwr + 1 ∧ b.trlost = a.trlost
      ∧ t.byte (hostFlat (a.trbase.toNat + 128 * (a.trwr % 2 ^ (a.trctl.toNat % 32))) + off) = BitVec.ofNat 8 byte)
    ∧ (¬room → b.trwr = a.trwr ∧ b.trlost = a.trlost + 1 ∧ t.mem = s.mem)

/-- Half of a cap or limit, at least 8. -/
def halved (x : Nat) : Nat := max (x / 2) 8

/-- One eighth of DRAIN toward DRAIN. -/
def restored (x drain : Nat) : Nat := min (x + (drain + 7) / 8) drain

/-- The ceiling, the cap and whether a row applied after rows 1 to 3 of R336, from the cluster's step, cap and claim. -/
def rows (hot exceeds : Bool) (watts allot : Nat) (c : ClSt) (cap : Nat) : Nat × Nat × Bool :=
  let a := if hot then (0, halved cap, true) else (c.req, cap, false)
  let b := if exceeds then (min a.1 (c.cur - 1), if c.cur = 0 then halved a.2.1 else a.2.1, true) else a
  if allot < watts then (0, max (b.2.1 * allot / watts) 8, true) else b

/-- Whether requests `x` and `y` of R314: `x` goes before `y`. -/
def goesFirst (a : Arb) (x y : Req) : Bool :=
  let d := vtDiff (a.vtOf x.key) (a.vtOf y.key)
  decide (d < 0) || (d == 0 && (decide (y.age < x.age) || (x.age == y.age &&
    (decide (x.key % 64 < y.key % 64) || (x.key % 64 == y.key % 64 && decide (x.key / 64 ≤ y.key / 64))))))

/-- The remainder and the whole part of harm at a key, in 1/64 (R314). -/
def harmUp (s : State) (a : Arb) (k : Nat) : Nat := a.hsUp.get 0 k * s.pen (k / 64) + a.hxUp.get 0 k * s.ppen + a.remU.get 0 k
/-- As `harmUp`, for harm suffered. -/
def harmDn (s : State) (a : Arb) (k : Nat) : Nat := a.hsDn.get 0 k * s.rep (k / 64) + a.hxDn.get 0 k * s.prep + a.remD.get 0 k

end Sys2Proof.Claim

/-- R327, R328, R325, R333: the end of a string's interval bounds L by DRAIN, halves it for a cause or restores an eighth, forms the
deficits, publishes the record and zeroes the charges. A lane cycle with nothing at the gate issues wash while the level's deficit lasts
and the bucket takes it, and books it: to the key that last held an idle core, or to the environment where a reset cleaned it. -/
def Sys2Proof.Claim.StringsBalanced : Prop :=
  (∀ (s : State) (str : Nat),
      let cl := str / 96 * 12 + str % 96 / 8
      let r := s.str str
      let drain := s.drain8 cl
      let imb := (s.imb ((s.partOfCluster cl).getD 0)).toNat
      let win := imb % 2 ^ 16
      let ub := imb / 2 ^ 16 % 2 ^ 16
      let core (l : Nat) := str / 96 * 384 + str % 96 * 4 + l
      let c := [(s.core (core 0)).charge, (s.core (core 1)).charge, (s.core (core 2)).charge, (s.core (core 3)).charge]
      let m := c.foldl max 0
      let mn := c.foldl min m
      let off := r.offPend.getD r.off
      let cause := (∃ d ∈ r.deficit, 0 < d) ∨ ub < m ∨ (off = true ∧ mn + win < m)
      let l0 := min r.limit drain
      let half := s.shalf str
      ∃ t l, exec (.stringIntervalEnd str) s = .next t
        ∧ t = { s with strs := t.strs, cores := t.cores, funcs := t.funcs, mem := t.mem, threads := t.threads }
        ∧ (cause → l = max (l0 / 2) 8) ∧ (¬cause → l0 < drain → l = Claim.restored l0 drain) ∧ (¬cause → ¬l0 < drain → l = l0)
        ∧ t.str str =
          { r with limit := l, off, offPend := none, deficit := c.map (fun x => if off = true then 0 else min m (l * 256) - win - x)
                   lastC := c, lastSpread := m - mn, lastWash := r.washNow, lastL := l, lastHalf := r.half
                   thrcnt := if l < drain then (r.thrcnt + 1) % 2 ^ 32 else r.thrcnt, half, washNow := 0
                   seq := (t.str str).seq, icount := (r.icount + 1) % 2 ^ 32 }
        ∧ (∀ j, j ≠ str → t.str j = s.str j)
        ∧ (∀ d, t.core d = if d = core 0 ∨ d = core 1 ∨ d = core 2 ∨ d = core 3 then { s.core d with charge := 0 } else s.core d)
        ∧ (l = r.limit → half = r.half → t.mem = s.mem ∧ t.funcs = s.funcs ∧ (t.str str).seq = r.seq)
        ∧ ∀ p, l ≠ r.limit → half = r.half → s.partOfCluster cl = some p → (t.str str).seq = (r.seq + 1) % 2 ^ 32
          ∧ (cause → Claim.Traced (s.part p).func 16 (4 + 2 * 16) s t) ∧ (¬cause → Claim.Traced (s.part p).func 16 (7 + 2 * 16) s t))
    ∧ ∀ (s : State) (c : Nat),
        let str := c / 384 * 96 + c % 384 / 4
        let r := s.str str
        let d := r.deficit.getD (c % 4) 0
        let ch := 64 * s.wtab 18
        let level := (s.core c).bucket - s.drainOf c
        (d = 0 ∨ r.off = true ∨ s.contenders c ≠ [] → exec (.washIssue c) s = .next s)
        ∧ (d ≠ 0 → r.off = false → s.contenders c = [] → ∃ t, exec (.washIssue c) s = .next t
          ∧ (∀ j, j ≠ c → t.core j = s.core j) ∧ t = { s with cores := t.cores, strs := t.strs, parts := t.parts }
          ∧ (level + ch ≤ 4096 ∨ level = 0 → t.core c = { s.core c with bucket := min (level + ch) (2 ^ 21 - 1), charge := (s.core c).charge + ch }
            ∧ t.str str = { r with deficit := r.deficit.set (c % 4) (d - ch), washNow := r.washNow + ch }
            ∧ ((∀ g ∈ s.groups, g.st = .loaded → ∀ y ∈ g.mems, y.1 ≠ c) →
              (∀ p o x, (s.core c).wiped = false → (s.core c).last = some (p, o, x) → p < 16 → o < 64 →
                (t.part p).washu.get 0 o = min ((s.part p).washu.get 0 o + ch) (2 ^ 48 - 1))
              ∧ ∀ p, (s.core c).wiped = true → s.partOfCluster (c / 384 * 12 + c % 384 / 32) = some p →
                (t.part p).washu.get 0 64 = min ((s.part p).washu.get 0 64 + ch) (2 ^ 48 - 1)))
          ∧ (¬(level + ch ≤ 4096 ∨ level = 0) → t = { s with cores := t.cores } ∧ t.core c = { s.core c with bucket := level }))

/-- R330, R335, R336, R337: a power interval sets each cluster's cap by the rows of R336, from C bounded by DRAIN, and its step by the
boost allocation: never above its ceiling but where B2 falls to B1. A sole claimant takes the highest step that its ceiling and the
permits allow, and pays for it. A supply droop halves the cap at once, and nothing is restored in that interval. -/
def Sys2Proof.Claim.PowerDecided : Prop :=
  (∀ (s : State) (die : Nat) (inp : PowerInputs), ∃ t, exec (.powerInterval die inp) s = .next t
      ∧ t = { s with cls := t.cls, parts := t.parts, funcs := t.funcs, mem := t.mem, threads := t.threads }
      ∧ (∀ j, ¬(12 * die ≤ j ∧ j < 12 * die + 12) → t.clu j = s.clu j)
      ∧ (∀ p, t.part p = { s.part p with permits := (t.part p).permits })
      ∧ ∀ cl, 12 * die ≤ cl → cl < 12 * die + 12 →
        let c := s.clu cl
        let drain := s.drain8 cl
        let watts := match s.partOfCluster cl with
          | some p => ((inp.watts.find? (·.1 == p)).map (·.2)).getD 0
          | none => 0
        let x := Claim.rows inp.hot (inp.amps.any fun r => r.cluster == cl && r.overCurrent) watts (s.allot cl) c (min c.cap drain)
        let u := t.clu cl
        u = { c with cap := if x.2.2 = false ∧ c.droop = false ∧ x.2.1 < drain then Claim.restored x.2.1 drain else x.2.1
                     cur := u.cur, droop := false, asked := decide (c.req ≠ 0), icount := (c.icount + 1) % 2 ^ 32, seq := u.seq }
        ∧ (s.partOfCluster cl = none → u.cur = 0) ∧ ((∀ p, s.partOfCluster cl = some p → p < 16) → u.cur ≤ x.1 ∨ (c.cur = 2 ∧ u.cur = 1))
        ∧ ∀ p, s.partOfCluster cl = some p → p < 16 → x.1 ≠ 0 →
          (∀ j, 12 * die ≤ j → j < 12 * die + 12 → j ≠ cl → s.partOfCluster j = some p → (s.clu j).req = 0 ∧ (s.clu j).asked = true) →
          let a := min x.1 (min 2 (s.part p).permits)
          (c.cur = 2 → a = 0 → u.cur = 1 ∧ (t.part p).permits = (s.part p).permits)
            ∧ (c.cur ≠ 2 ∨ a ≠ 0 → u.cur = a ∧ (t.part p).permits = (s.part p).permits - a))
    ∧ ∀ (s : State) (cl : Nat), ∃ t, exec (.supplyDroop cl) s = .next t
        ∧ t = { s with cls := t.cls, funcs := t.funcs, mem := t.mem, threads := t.threads } ∧ (∀ j, j ≠ cl → t.clu j = s.clu j)
        ∧ t.clu cl = { s.clu cl with cap := Claim.halved (s.clu cl).cap, droop := true, seq := (t.clu cl).seq }
        ∧ (Claim.halved (s.clu cl).cap = (s.clu cl).cap → t.mem = s.mem ∧ t.funcs = s.funcs)
        ∧ ∀ p, Claim.halved (s.clu cl).cap ≠ (s.clu cl).cap → s.partOfCluster cl = some p → Claim.Traced (s.part p).func 16 (2 + 2 * 16 + 64) s t

/-- String and power intervals. -/
def Obligations.StringsAndPowerDecided : Prop :=
  Claim.StringsBalanced ∧ Claim.PowerDecided

/-- R314, R309, R311, R315, R317, R15: a grant settles the harm posted at its arbiter, chooses the smaller VT, then the longer wait, then
the lower owner and partition, and charges the winner; a pass-through queue (R16) grants its head, keeps no virtual time and settles
nothing; a quantum is recorded in the victim's row under its current blame, and counted
toward settlement unless it is self-harm or the environment's; refresh holds a channel. An interval renews a link's budgets, less what an
oversize request still takes; a request that waited for it passes when it fits, or takes the whole interval and what it needs of the
next ones. -/
def Obligations.HarmSettled : Prop :=
  (∀ (s : State) (n : Nat),
      let a := s.arb n
      let i := Instr.arbiterGrant n
      let passesThrough := n / 2 ^ 20 = 3 ∧ 2 ^ 19 ≤ n % 2 ^ 20
      let free := a.env = false ∧ ∀ r m l, a.serving = some r → r.next = m :: l →
        (s.arb m).env = false ∧ (s.arb m).serving = none ∧ ∀ x ∈ (s.arb m).waiting, x.need ≠ 0
      (¬free → exec i s = .next s)
      ∧ (free → ¬passesThrough → (∀ w ∈ a.waiting, n ∉ w.next) → ∃ t, exec i s = .next t
        ∧ t = { s with arbs := t.arbs, threads := t.threads, agenda := t.agenda }
        ∧ (∀ j, j ≠ n → (∀ w ∈ a.waiting, j ∉ w.next) → t.arb j = s.arb j)
        ∧ ((∀ w ∈ a.waiting, w.strip = none) → t.threads = s.threads ∧ t.agenda = s.agenda)
        ∧ (∀ w k ch, a.waiting = [w] → w.need = 0 → w.strip = some (k, ch) → ch < 2 → t.agenda = s.agenda ++ [.event (.stripStart k ch)]
          ∧ (t.thOf k).chan ch = { (s.thOf k).chan ch with go := ((s.thOf k).chan ch).asked })
        ∧ ((∀ r ∈ a.waiting, r.need ≠ 0) → t.arb n = { a with serving := none })
        ∧ ((∃ r ∈ a.waiting, r.need = 0) → ∃ w ∈ a.waiting, w.need = 0 ∧ (t.arb n).serving = some w ∧ (t.arb n).waiting = a.waiting.erase w ∧ (t.arb n).env = false
          ∧ (t.arb n).remV.get 0 w.key = (w.beats * 4096 + a.remV.get 0 w.key) % s.weight w.key
          ∧ (∀ k, (t.arb n).hsUp.get 0 k = 0 ∧ (t.arb n).hxUp.get 0 k = 0 ∧ (t.arb n).hsDn.get 0 k = 0 ∧ (t.arb n).hxDn.get 0 k = 0)
          ∧ ∀ k ∈ a.harmed, (t.arb n).remU.get 0 k = Claim.harmUp s a k % 64 ∧ (t.arb n).remD.get 0 k = Claim.harmDn s a k % 64)
        ∧ (∀ w, a.waiting = [w] → w.need = 0 → w.key ∈ a.harmed ∨ (a.remU.get 0 w.key < 64 ∧ a.remD.get 0 w.key < 64) →
          (t.arb n).vtOf w.key = vtAdd (vtAdd (a.vtOf w.key) ((Claim.harmUp s a w.key / 64 : Nat) - (Claim.harmDn s a w.key / 64 : Nat)))
            ((w.beats * 4096 + a.remV.get 0 w.key) / s.weight w.key : Nat))
        ∧ ∀ x y, a.waiting = [x, y] → x.need = 0 → y.need = 0 → a.harmed = [] → vtDiff (a.vtOf x.key) (a.vtOf y.key) < 2 ^ 23 → -(2 ^ 23) < vtDiff (a.vtOf x.key) (a.vtOf y.key) →
          (t.arb n).serving = some (if Claim.goesFirst a x y = true then x else y))
      ∧ (free → passesThrough → (∀ w ∈ a.waiting, n ∉ w.next) → ∃ t, exec i s = .next t
        ∧ t = { s with arbs := t.arbs, threads := t.threads, agenda := t.agenda }
        ∧ ∀ w rest, a.waiting = w :: rest → w.need = 0 → t.arb n = { a with waiting := rest, serving := some w }))
    ∧ (∀ (s : State) (n : Nat) (r : Req), arbCls n ≠ 8 → (s.arb n).waiting = [r] →
        let c := blameAt s n r
        let v := r.key
        let old := (s.arb n).frac.get 0 (v * 1025 + c)
        let units := s.cellUnits n v c
        let q := units / 256
        let p := v / 64
        let o := v % 64
        let cell (col : Nat) := (arbCls n * 64 + o) * 65 + col
        let pkg (col : Nat) := (arbCls n * 16 + p) * 17 + col
        let up (x : Nat) := min (x + q) (2 ^ 48 - 1)
        let passesThrough := n / 2 ^ 20 = 3 ∧ 2 ^ 19 ≤ n % 2 ^ 20
        (arbCls n ≠ 1 → units = old + 256)
        ∧ (arbCls n = 1 →
          let core := n % 2 ^ 20 / 64
          let step := (s.clu (core / 384 * 12 + core % 384 / 32)).cur
          let f := if step = 0 then 2400 else if step = 1 then 2640 else 2880
          let one := 2400 * 256 * if (s.str (core / 384 * 96 + core % 384 / 4)).half then 2 else 1
          units = old + one / f ∨ (one % f ≠ 0 ∧ units = old + one / f + 1))
        ∧ (r.need ≠ 0 → c = v)
        ∧ ((s.arb n).env = true → r.need = 0 → c = 1024)
        ∧ (∀ g, r.need = 0 → (s.arb n).env = false → (s.arb n).serving = some g → g.next = [] → c = g.key)
        ∧ ∃ t, exec (.quantumPost n) s = .next t ∧ t = { s with parts := t.parts, pkgDelay := t.pkgDelay, arbs := t.arbs }
          ∧ (t.arb n).waiting = [{ r with age := r.age + 1, blame := c }] ∧ (t.arb n).vt = (s.arb n).vt ∧ (t.arb n).serving = (s.arb n).serving
          ∧ (t.arb n).frac.get 0 (v * 1025 + c) = units % 256 ∧ (∀ j, j ≠ n → t.arb j = s.arb j) ∧ (∀ z, z ≠ p → t.part z = s.part z)
          ∧ (∀ j, j ≠ cell (if c = 1024 then 64 else c % 64) → (t.part p).delay.get 0 j = (s.part p).delay.get 0 j)
          ∧ (c = v ∨ c = 1024 → (t.arb n).hsUp = (s.arb n).hsUp ∧ (t.arb n).hxUp = (s.arb n).hxUp)
          ∧ (c ≠ 1024 → c / 64 = p → (t.part p).delay.get 0 (cell (c % 64)) = up ((s.part p).delay.get 0 (cell (c % 64))) ∧ t.pkgDelay = s.pkgDelay
            ∧ (c ≠ v → ¬passesThrough → (t.arb n).hsUp.get 0 c = (s.arb n).hsUp.get 0 c + q ∧ (t.arb n).hsDn.get 0 v = (s.arb n).hsDn.get 0 v + q))
          ∧ (c ≠ 1024 → c / 64 ≠ p → (t.pkgDelay).get 0 (pkg (c / 64)) = up (s.pkgDelay.get 0 (pkg (c / 64))) ∧ t.parts = s.parts
            ∧ (¬passesThrough → (t.arb n).hxUp.get 0 c = (s.arb n).hxUp.get 0 c + q ∧ (t.arb n).hxDn.get 0 v = (s.arb n).hxDn.get 0 v + q))
          ∧ (passesThrough → (t.arb n).hsUp = (s.arb n).hsUp ∧ (t.arb n).hxUp = (s.arb n).hxUp ∧ (t.arb n).hsDn = (s.arb n).hsDn
            ∧ (t.arb n).hxDn = (s.arb n).hxDn)
          ∧ (c = 1024 → (t.part p).delay.get 0 (cell 64) = up ((s.part p).delay.get 0 (cell 64))
            ∧ t.pkgDelay.get 0 (pkg 16) = up (s.pkgDelay.get 0 (pkg 16))))
    ∧ (∀ (s : State) (n : Nat) (on : Bool),
        (n / 2 ^ 20 ≠ 4 → exec (.hbmRefresh n on) s = .next s)
        ∧ (n / 2 ^ 20 = 4 → ∃ t, exec (.hbmRefresh n on) s = .next t ∧ t = { s with arbs := t.arbs }
          ∧ t.arb n = { s.arb n with env := on } ∧ ∀ j, j ≠ n → t.arb j = s.arb j))
    ∧ ∀ (s : State) (link : Nat),
        let up := 6 * 2 ^ 20 + 2 * link
        let lim (p : Nat) (wr : Bool) := (s.mgrReg (0x9A0 + p)).toNat / (if wr then 2 ^ 16 else 1) % 2 ^ 16 * 4096
        let old (p : Nat) := s.budgets.get {} (16 * link + p)
        let left (p : Nat) (wr : Bool) := lim p wr - min (lim p wr) (if wr then (old p).wrDue else (old p).rdDue)
        let due (p : Nat) (wr : Bool) := if lim p wr = 0 then 0 else (if wr then (old p).wrDue else (old p).rdDue) - lim p wr
        let fresh (p : Nat) : Budget :=
          { rd := left p false, wr := left p true, tr := (s.mgrReg (0x9A0 + p)).toNat / 2 ^ 32 % 2 ^ 16 * 4096
            rdDue := due p false, wrDue := due p true }
        ((∀ n, n = up ∨ n = up + 1 → ∀ r ∈ (s.arb n).waiting, r.need = 0) →
          ∃ t, exec (.budgetInterval link) s = .next t ∧ t = { s with budgets := t.budgets, arbs := t.arbs } ∧ (∀ n, t.arb n = s.arb n)
            ∧ (∀ p, p < 16 → t.budgets.get {} (16 * link + p) = fresh p)
            ∧ ∀ j, ¬(16 * link ≤ j ∧ j < 16 * link + 16) → t.budgets.get {} j = s.budgets.get {} j)
        ∧ ∀ r, (s.arb up).waiting = [r] → (s.arb (up + 1)).waiting = [] → r.need ≠ 0 → r.key < 1024 →
          let p := r.key / 64
          let b := if r.wr then (fresh p).wr else (fresh p).rd
          let l := lim p r.wr
          ∃ t, exec (.budgetInterval link) s = .next t ∧ t = { s with budgets := t.budgets, arbs := t.arbs }
            ∧ (let x := t.budgets.get {} (16 * link + p)
              let now := if r.wr then x.wr else x.rd
              let later := if r.wr then x.wrDue else x.rdDue
              (l = 0 ∨ r.need ≤ b ∨ b = l → (t.arb up).waiting = [{ r with need := 0 }])
              ∧ (l ≠ 0 → b < r.need → b ≠ l → (t.arb up).waiting = [r] ∧ x = fresh p)
              ∧ (l ≠ 0 → r.need ≤ b → now = b - r.need)
              ∧ (l ≠ 0 → b < r.need → b = l → now = 0 ∧ later = r.need - l))

/-! ## The host, Urnyx and the fabric -/

namespace Sys2Proof.Claim

/-- The write is ignored whole and logged with this code (R343, R345). -/
def IgnoredAndLogged (s : State) (i : Instr) (func code : Nat) : Prop :=
  ∃ t, exec i s = .next t ∧ Logged func code s t ∧ t = { s with funcs := t.funcs, mem := t.mem, threads := t.threads, unitSeq := t.unitSeq }

/-- A violation freezes the function, and is logged with CODE 7 (R342). -/
def Violates (s : State) (i : Instr) (func : Nat) (out : List (List Byte) := []) : Prop :=
  ∃ t, exec i s = .next t ∧ (t.fn func).frozen = true ∧ Logged func 7 s t
    ∧ t = { s with funcs := t.funcs, mem := t.mem, threads := t.threads, unitSeq := t.unitSeq, hostOut := s.hostOut ++ out }

/-- The write changes the function's window to `f`, and nothing else. -/
def WindowBecomes (s : State) (i : Instr) (func : Nat) (f : FuncSt) (turns : List Turn := []) : Prop :=
  ∃ t, exec i s = .next t ∧ t.fn func = f ∧ (∀ g, g ≠ func → t.fn g = s.fn g) ∧ t = { s with funcs := t.funcs, agenda := s.agenda ++ turns }

/-- The event of a command (R343). -/
def commandEvent (func op : Nat) : Instr :=
  if op = 1 then .create func else if op = 2 then .setslice func else if op = 3 then .freeze func else if op = 4 then .teardown func
  else if op = 5 then .query func else if op = 6 then .inval (.mgmt func) else if op = 7 then .pagedone (.mgmt func) else .attest func

/-- The event of a debug operation (R353). -/
def debugTurn (op : Nat) : Instr :=
  if op = 1 then .halt else if op = 2 then .resume else if op = 3 then .srrd else if op = 4 then .srwr else if op = 5 then .sregrd
  else if op = 6 then .sregwr else if op = 7 then .memrd else if op = 8 then .memwr else if op = 9 then .brkhalt else .stoprd

/-- A ring control value within its ranges (R343). -/
def RingCtl (v : Nat) : Prop := 6 ≤ v % 32 ∧ v % 32 ≤ 16 ∧ v / 2 ^ 6 = 0

/-- The manager register takes `x` (R49). -/
def Takes (s : State) (num p : Nat) (w : W64) (x : Nat) : Prop :=
  ∃ t, exec (.registerWrite (.manager num p) w) s = .next t ∧ t = { s with mgr := t.mgr }
    ∧ t.mgrReg num = BitVec.ofNat 64 x ∧ ∀ j, j ≠ num → t.mgrReg j = s.mgrReg j

/-- Every byte of the range lies in the function's own slices (R205, R340). -/
def OwnRange (s : State) (func a n : Nat) : Prop :=
  ∃ p, s.partOf func = some p ∧ 0 < n ∧ a + n ≤ 2 ^ 39 ∧ ∀ b, a ≤ b → b < a + n → b / 2 ^ 33 ∈ (s.part p).slices

/-- A byte of the range lies in a lent page (R288). -/
def LentIn (s : State) (a n : Nat) : Prop := ∃ b, a ≤ b ∧ b < a + n ∧ s.isLent b = true

/-- Bytes and new value of an AtomicOp (R201). -/
def hostNew (op : HostOp) (old : Nat) : Nat × Nat :=
  match op with
  | .fetchAdd n x => (n, (old + x) % 2 ^ (8 * n))
  | .swap n x => (n, x % 2 ^ (8 * n))
  | .cas n x e => (n, if old = e % 2 ^ (8 * n) then x % 2 ^ (8 * n) else old)

/-- A partition may be set up: it is new, in range, and shares no function, cluster, slice, context or queue (R205, R222). -/
def MaySetUp (s : State) (c : PartCfg) : Prop :=
  c.id < 16 ∧ (s.part c.id).up = false ∧ c.func ≤ 16 ∧ c.clusters ≠ [] ∧ (∀ k ∈ c.clusters, k < 48) ∧ c.slices ≠ [] ∧ (∀ k ∈ c.slices, k < 64)
    ∧ c.ctxBase + c.ctxCount ≤ 4096 ∧ c.qBase + c.qCount ≤ 16384
    ∧ ∀ e ∈ s.parts, e.2.up = true → e.2.func ≠ c.func ∧ (∀ k ∈ e.2.clusters, k ∉ c.clusters) ∧ (∀ k ∈ e.2.slices, k ∉ c.slices)
      ∧ (∀ k, e.2.ctxBase ≤ k → k < e.2.ctxBase + e.2.ctxCount → ¬(c.ctxBase ≤ k ∧ k < c.ctxBase + c.ctxCount))
      ∧ ∀ k, e.2.qBase ≤ k → k < e.2.qBase + e.2.qCount → ¬(c.qBase ≤ k ∧ k < c.qBase + c.qCount)

/-- A core of a cluster. -/
def InCluster (cl core : Nat) : Prop := core < 1536 ∧ core / 384 * 12 + core % 384 / 32 = cl

/-- The reply of a remote access. -/
def Replies (s : State) (i : Instr) (pkg : Nat) (va : W64) (o : RemoteOutcome) (u : State → Prop) : Prop :=
  ∃ t, exec i s = .next t ∧ t.fabricOut = s.fabricOut ++ [.remoteReply pkg va o] ∧ u t
    ∧ t = { s with mem := t.mem, threads := t.threads, arbs := t.arbs, budgets := t.budgets, nearLines := t.nearLines, fabricOut := t.fabricOut }

end Sys2Proof.Claim

/-- R343, R342, R352, R358, R49, R222, R316, R326, R330: what a write of the host or of Urnyx does. MCMD starts a command unless one
runs; a misaligned base, a ring control out of range or a reserved bit of MCMD is ignored and logged; read-only offsets take nothing; an
offset with no register freezes the function; DCMD starts a debug request here or at its package; a manager register takes every value
but a reserved one; a queue's base changes while it is disabled; Urnyx clears the package matrix (R312; that it is one event is assumption
69). A write of a function's host stands behind an earlier one of it that waits (R204). -/
def Obligations.WindowsWritten : Prop :=
  ∀ (s : State) (func off n p : Nat) (w : W64),
    let f := s.fn func
    let v := w.toNat
    let i := Instr.registerWrite (.mgmt func off) w
    let j := Instr.registerWrite (.queue func n off) w
    let d := Instr.registerWrite (.mgmt 0 off) w
    let pkg := v / 2 ^ 4 % 2 ^ 6
    let dbg (i : Instr) (x : DebugWin) (turns : List Turn) (out : List FabMsg) :=
      exec i s = .next { s with dbg := x, agenda := s.agenda ++ turns, fabricOut := s.fabricOut ++ out }
    let ends := [Turn.event (.commandComplete (.debug none))]
    let dcmd := BitVec.ofNat 64 (v % 2 ^ 35)
    let unheld := ∀ h ∈ s.hostHeld, h.func ≠ func
    ((∃ h ∈ s.hostHeld, h.func = func) → exec i s = .next { s with hostHeld := s.hostHeld ++ [{ func, ev := some i }] }
        ∧ exec j s = .next { s with hostHeld := s.hostHeld ++ [{ func, ev := some j }] })
      ∧ exec (.registerWrite .packageMatrix w) s = .next { s with pkgDelay := [] }
      ∧ (unheld → f.frozen = true → exec i s = .next s ∧ exec j s = .next s)
      ∧ (unheld → f.frozen = false →
        (off = 0x00 → f.mstat.getLsbD 63 = true → exec i s = .next s)
        ∧ (off = 0x00 → f.mstat.getLsbD 63 = false →
          (v / 2 ^ 16 ≠ 0 → Claim.IgnoredAndLogged s i func 9)
          ∧ (v / 2 ^ 16 = 0 → v % 16 = 0 → Claim.WindowBecomes s i func { f with mcmd := w })
          ∧ (v / 2 ^ 16 = 0 → v % 16 ≠ 0 → v % 16 ≤ 8 → Claim.WindowBecomes s i func { f with mcmd := w, mstat := Claim.word [(1, 63)], todo := true }
            [.event (Claim.commandEvent func (v % 16))])
          ∧ (v / 2 ^ 16 = 0 → 8 < v % 16 → Claim.WindowBecomes s i func { f with mcmd := w, mstat := Claim.word [(6, 0), (1, 63)], todo := false }
            [.event (.commandComplete (.mgmt func))]))
        ∧ (off = 0x08 → Claim.WindowBecomes s i func { f with marg := w })
        ∧ (off = 0x20 → if v % 4096 = 0 then Claim.WindowBecomes s i func { f with evbase := w } else Claim.IgnoredAndLogged s i func 9)
        ∧ (off = 0x48 → if v % 4096 = 0 then Claim.WindowBecomes s i func { f with trbase := w } else Claim.IgnoredAndLogged s i func 9)
        ∧ (off = 0x28 ∨ off = 0x50 → ¬Claim.RingCtl v → Claim.IgnoredAndLogged s i func 9)
        ∧ (off = 0x28 → Claim.RingCtl v → (∀ e ∈ s.funcs, e.2.waiting = []) → Claim.WindowBecomes s i func { f with evctl := w })
        ∧ (off = 0x50 → Claim.RingCtl v → Claim.WindowBecomes s i func { f with trctl := w })
        ∧ (off = 0x38 → (∀ e ∈ s.funcs, e.2.waiting = []) → Claim.WindowBecomes s i func { f with evrd := v })
        ∧ (off = 0x60 → Claim.WindowBecomes s i func { f with trrd := v })
        ∧ (off ∈ [0x18, 0x30, 0x40, 0x58, 0x68] → exec i s = .next s)
        ∧ (off ∉ [0x00, 0x08, 0x18, 0x20, 0x28, 0x30, 0x38, 0x40, 0x48, 0x50, 0x58, 0x60, 0x68] → func ≠ 0 ∨ off ∉ [0x100, 0x108, 0x110, 0x118] →
          Claim.Violates s i func))
      ∧ ((∀ h ∈ s.hostHeld, h.func ≠ 0) → (s.fn 0).frozen = false →
        (off = 0x108 → dbg d { s.dbg with darg := w } [] []) ∧ (off = 0x110 → dbg d { s.dbg with ddata := w } [] []) ∧ (off = 0x118 → exec d s = .next s)
        ∧ (off = 0x100 → s.dbg.busy = true → exec d s = .next s)
        ∧ (off = 0x100 → s.dbg.busy = false →
          (v % 16 = 0 → dbg d { s.dbg with dcmd } [] [])
          ∧ (10 < v % 16 → dbg d { s.dbg with dcmd, busy := true, todo := false, status := 7 } ends [])
          ∧ (v % 16 ≠ 0 → v % 16 ≤ 10 → pkg = s.urnyx.number → dbg d { s.dbg with dcmd, busy := true, todo := true } [.event (Claim.debugTurn (v % 16))] [])
          ∧ (v % 16 ≠ 0 → v % 16 ≤ 10 → pkg ≠ s.urnyx.number → s.reachable pkg = true →
            dbg d { s.dbg with dcmd, busy := true, todo := false } [] [.debug pkg dcmd s.dbg.darg s.dbg.ddata])
          ∧ (v % 16 ≠ 0 → v % 16 ≤ 10 → pkg ≠ s.urnyx.number → s.reachable pkg = false →
            dbg d { s.dbg with dcmd, busy := true, todo := false, status := 6 } ends [])))
      ∧ (let zero := ∃ k, k < 8 ∧ v / 2 ^ (8 * k) % 256 = 0
        let drain := v % 256
        let allot := v / 2 ^ 8 % 2 ^ 12
        (0x900 ≤ n → n < 0x980 → ¬zero → Claim.Takes s n p w v) ∧ (0x980 ≤ n → n ≤ 0x990 → Claim.Takes s n p w (v % 2 ^ 16))
        ∧ (0x9A0 ≤ n → n < 0x9B0 → Claim.Takes s n p w (v % 2 ^ 54))
        ∧ (n = 0x9C0 ∨ (n = 0x9C1 ∧ v / 2 ^ 8 % 16 ≠ 0) ∨ n = 0x9C2 ∨ n = 0x9C3 → Claim.Takes s n p w v)
        ∧ (0x9D0 ≤ n → n < 0x9E0 → 8 ≤ drain → allot ≠ 0 → allot ≤ 3200 → Claim.Takes s n p w (v % 2 ^ 28))
        ∧ (0x9E0 ≤ n → n < 0x9E8 → n % 2 = 0 ∨ v / 2 ^ 32 = 0 → Claim.Takes s n p w v)
        ∧ (n = 0x061 → v % 2 ^ 16 < v / 2 ^ 16 % 2 ^ 16 → ∃ t, exec (.registerWrite (.manager n p) w) s = .next t ∧ t = { s with imbwin := t.imbwin }
          ∧ t.imb p = BitVec.ofNat 64 (v % 2 ^ 32) ∧ ∀ q, q ≠ p → t.imb q = s.imb q)
        ∧ ((0x900 ≤ n ∧ n < 0x980 ∧ zero) ∨ (n = 0x9C1 ∧ v / 2 ^ 8 % 16 = 0) ∨ (0x9D0 ≤ n ∧ n < 0x9E0 ∧ (drain < 8 ∨ allot = 0 ∨ 3200 < allot))
            ∨ (n = 0x061 ∧ v / 2 ^ 16 % 2 ^ 16 ≤ v % 2 ^ 16) → exec (.registerWrite (.manager n p) w) s = .next s))
      ∧ (unheld → Claim.OwnQueue s func n p →
        (off = 0x00 → (s.q n).st ≠ .disabled → exec j s = .next s)
        ∧ (off = 0x00 → (s.q n).st = .disabled → v % 4096 ≠ 0 → Claim.IgnoredAndLogged s j func 4)
        ∧ (off = 0x00 → (s.q n).st = .disabled → v % 4096 = 0 → ∃ t, exec j s = .next t ∧ t = { s with queues := t.queues }
          ∧ t.q n = { s.q n with base := w } ∧ ∀ m, m ≠ n → t.q m = s.q m)
        ∧ (off = 0x08 → v / 2 ^ 27 % 2 = 1 → exec j s = exec (.queueEnable func n w) s)
        ∧ (off = 0x10 → exec j s = exec (.qtailWrite func n w) s)
        ∧ (off ∈ [0x18, 0x20, 0x28] → exec j s = .next s)
        ∧ (off ∉ [0x00, 0x08, 0x10, 0x18, 0x20, 0x28] → Claim.Violates s j func))

namespace Sys2Proof.Claim

/-- The host receives the bytes `bs`, and nothing else happens. -/
def Receives (s : State) (i : Instr) (bs : List Byte) : Prop := exec i s = .next { s with hostOut := s.hostOut ++ [bs] }

/-- QCTL as it reads (R5, R222): its RW fields as they were last written. -/
def ctlRead (q : QueueSt) : W64 :=
  word [(q.ctx, 0), (q.logd, 12), (one q.src, 17), (one q.sp, 18), (q.seqw, 19), (one q.en, 27)]

/-- QSTAT's state code (R222). -/
def statCode : QState → Nat
  | .disabled => 0 | .empty => 1 | .ready => 2 | .blocked => 3 | .draining => 4 | .errored => 5

end Sys2Proof.Claim

/-- R203, R201, R288, R340, R342, R344: a host write reaches its function's own slices, or waits while a page is lent; outside them it is
a violation; a read returns the bytes, and all ones while the function is frozen; an AtomicOp updates a page marked system-atomic and
returns the old value, and is refused and logged elsewhere; ATTEST stores its report; a flushing read leaves the machine as it is. R5,
R222, R343, R352, R49: a read of a register returns its fields, a write-only bit as zero. An access stands behind an earlier one of its
function that waits (R204). -/
def Obligations.HostAccessesServed : Prop :=
  ∀ (s : State) (func a : Nat),
    let f := s.fn func
    let unheld := ∀ h ∈ s.hostHeld, h.func ≠ func
    let behind (i : Instr) := (∃ h ∈ s.hostHeld, h.func = func) → exec i s = .next { s with hostHeld := s.hostHeld ++ [{ func, ev := some i }] }
    let only (t : State) := t = { s with
      mem := t.mem, threads := t.threads, arbs := t.arbs, budgets := t.budgets, nearLines := t.nearLines, hostOut := t.hostOut }
    (∀ bs,
      let i := Instr.hostMemoryWrite func a bs
      behind i
      ∧ (unheld → f.frozen = true ∨ bs = [] → exec i s = .next s)
      ∧ (unheld → f.frozen = false → bs ≠ [] → ¬Claim.OwnRange s func a bs.length → Claim.Violates s i func)
      ∧ (unheld → f.frozen = false → Claim.OwnRange s func a bs.length → Claim.LentIn s a bs.length →
        exec i s = .next { s with hostHeld := s.hostHeld ++ [{ func, addr := a, bytes := bs }] })
      ∧ (unheld → f.frozen = false → Claim.OwnRange s func a bs.length → ¬Claim.LentIn s a bs.length →
        ∃ t, exec i s = .next t ∧ only t ∧ Claim.Stored a bs s t ∧ t.hostOut = s.hostOut))
    ∧ (∀ n,
      let i := Instr.hostMemoryRead func (.mem a) n
      behind i
      ∧ (unheld → f.frozen = true → Claim.Receives s i (List.replicate n 0xFF))
      ∧ (unheld → f.frozen = false → ¬Claim.OwnRange s func a n → Claim.Violates s i func [[]])
      ∧ (unheld → f.frozen = false → Claim.OwnRange s func a n → ∃ t, exec i s = .next t ∧ only t ∧ t.mem = s.mem ∧ t.threads = s.threads
        ∧ t.hostOut = s.hostOut ++ [s.bytes a n]))
    ∧ (∀ op,
      let i := Instr.hostAtomicop func a op
      let n := (Claim.hostNew op 0).1
      let old := s.load a n
      behind i
      ∧ (unheld → f.frozen = true → exec i s = .next s)
      ∧ (unheld → f.frozen = false → ¬Claim.OwnRange s func a n → Claim.Violates s i func)
      ∧ (unheld → f.frozen = false → Claim.OwnRange s func a n → ∀ p, s.partOf func = some p →
        let good := (n = 4 ∨ n = 8) ∧ a % n = 0 ∧ s.systemAtomic p a = true
        (¬good → ∃ t, exec i s = .next t ∧ Claim.Logged func 1 s t ∧ t.hostOut = s.hostOut ++ [[]]
          ∧ t = { s with funcs := t.funcs, mem := t.mem, threads := t.threads, unitSeq := t.unitSeq, hostOut := t.hostOut })
        ∧ (good → Claim.LentIn s a n → exec i s = .next { s with hostHeld := s.hostHeld ++ [{ func, addr := a, op := some op }] })
        ∧ (good → ¬Claim.LentIn s a n → ∃ t, exec i s = .next t ∧ only t ∧ t.hostOut = s.hostOut ++ [leBytes n old]
          ∧ Claim.Stored a (leBytes n (Claim.hostNew op old).2) s t)))
    ∧ (∀ n off p,
      let q := s.q n
      let i := Instr.hostMemoryRead func (.queue n off) p
      let j := Instr.hostMemoryRead func (.mgmt off) p
      let d := Instr.hostMemoryRead 0 (.mgmt off) p
      let m := Instr.hostMemoryRead func (.manager n p) off
      let gives (i : Instr) (x : W64) := Claim.Receives s i (leBytes 8 x.toNat)
      let gets (i : Instr) (x : Nat) := gives i (BitVec.ofNat 64 x)
      behind i ∧ behind j
      ∧ (unheld → f.frozen = true → Claim.Receives s i (List.replicate 8 0xFF) ∧ Claim.Receives s j (List.replicate 8 0xFF))
      ∧ (unheld → Claim.OwnQueue s func n p →
        (off = 0x00 → gives i q.base) ∧ (off = 0x08 → gives i (Claim.ctlRead q)) ∧ (off = 0x10 → gets i q.tail) ∧ (off = 0x18 → gets i q.head)
        ∧ (off = 0x20 → gets i q.compl) ∧ (off = 0x28 → gives i (Claim.word [(Claim.statCode q.st, 0), (q.err % 2 ^ 8, 8)]))
        ∧ (off ∉ [0x00, 0x08, 0x10, 0x18, 0x20, 0x28] → Claim.Violates s i func [[]]))
      ∧ (unheld → f.frozen = false →
        (off = 0x00 → gives j f.mcmd) ∧ (off = 0x08 → gives j f.marg) ∧ (off = 0x18 → gives j f.mstat) ∧ (off = 0x20 → gives j f.evbase)
        ∧ (off = 0x28 → gives j f.evctl) ∧ (off = 0x30 → gets j f.evwr) ∧ (off = 0x38 → gets j f.evrd) ∧ (off = 0x40 → gets j f.evlost)
        ∧ (off = 0x48 → gives j f.trbase) ∧ (off = 0x50 → gives j f.trctl) ∧ (off = 0x58 → gets j f.trwr) ∧ (off = 0x60 → gets j f.trrd)
        ∧ (off = 0x68 → gets j f.trlost)
        ∧ (off ∉ [0x00, 0x08, 0x18, 0x20, 0x28, 0x30, 0x38, 0x40, 0x48, 0x50, 0x58, 0x60, 0x68] → func ≠ 0 ∨ off ∉ [0x100, 0x108, 0x110, 0x118] →
          Claim.Violates s j func [[]]))
      ∧ ((∀ h ∈ s.hostHeld, h.func ≠ 0) → (s.fn 0).frozen = false →
        (off = 0x100 → gives d s.dbg.dcmd) ∧ (off = 0x108 → gives d s.dbg.darg) ∧ (off = 0x110 → gives d s.dbg.ddata)
        ∧ (off = 0x118 → gives d (Claim.word [(s.dbg.status % 2 ^ 8, 0), (Claim.one s.dbg.busy, 63)])))
      ∧ (0x9D0 ≤ n → n < 0x9E0 → gets m ((s.mgrReg n).toNat % 2 ^ 28 + (s.part (n - 0x9D0)).permits % 2 ^ 8 * 2 ^ 28))
      ∧ (n = 0x061 → gives m (s.imb p)) ∧ (n ≠ 0x061 → n < 0x9D0 ∨ 0x9E0 ≤ n → gives m (s.mgrReg n)))
    ∧ (let at_ := hostFlat f.marg.toNat
      let body := s.bytes at_ 48 ++ s.urnyx.measure ++ Config.sha384 (Config.setupBytes (s.setupOf func))
      (¬Claim.Begun s func 8 → exec (.attest func) s = .next s)
      ∧ (Claim.Begun s func 8 → ∃ t, exec (.attest func) s = .next t ∧ Claim.Answered s t func 0 0 false
        ∧ t = { s with funcs := t.funcs, mem := t.mem, threads := t.threads, agenda := s.agenda ++ [.event (.commandComplete (.mgmt func))] }
        ∧ Claim.Stored (at_ + 48) ((body ++ Config.ed25519Sign body ++ Config.mldsa65Sign body).take 4096) s t))
    ∧ exec .flushReadComplete s = .next s

/-- R340, R346, R347, R349: a link or port trains at the rates the manual names and at no other; a CXL port that goes down logs CODE 8
once and stays down until it retrains; a Glasal link runs at the rate of its older end. R15: while a PCIe link is down, the environment
holds its two arbiters. -/
def Obligations.LinksTrained : Prop :=
  ∀ (s : State) (port rate width gen flit : Nat) (holds : Bool),
    let bad (i : Instr) := exec i s = .next s
    let pcie (i : Instr) (x : PortSt) (held : Bool) := ∃ t, exec i s = .next t ∧ t = { s with pcie := t.pcie, arbs := t.arbs }
      ∧ t.pcie.get {} port = x ∧ (∀ j, j ≠ port → t.pcie.get {} j = s.pcie.get {} j)
      ∧ ∀ n, t.arb n = if n = 6 * 2 ^ 20 + 2 * port ∨ n = 6 * 2 ^ 20 + 2 * port + 1 then { s.arb n with env := held } else s.arb n
    let cxl (i : Instr) (x : PortSt) := ∃ t, exec i s = .next t ∧ t = { s with cxl := t.cxl } ∧ t.cxl.get {} port = x
      ∧ ∀ j, j ≠ port → t.cxl.get {} j = s.cxl.get {} j
    let glasal (i : Instr) (x : PortSt) := ∃ t, exec i s = .next t ∧ t = { s with glasal := t.glasal } ∧ t.glasal.get {} port = x
      ∧ ∀ j, j ≠ port → t.glasal.get {} j = s.glasal.get {} j
    let trains := port < 2 ∧ (rate = 5 ∨ rate = 6 ∨ rate = 7) ∧ (width = 8 ∨ width = 16)
    let down := (s.cxl.get {} port).down
    let cxlTrains := port < 4 ∧ (rate = 128 ∨ rate = 64 ∨ rate = 32)
    let i := Instr.cxlPortDown port
    (trains → pcie (.pcieLinkTraining port rate width) { up := true, rate, width } false) ∧ (¬trains → bad (.pcieLinkTraining port rate width))
      ∧ (port < 2 → pcie (.pcieLinkDown port) { s.pcie.get {} port with up := false } true) ∧ (2 ≤ port → bad (.pcieLinkDown port))
      ∧ (cxlTrains → cxl (.cxlPortTraining port rate) { up := true, rate }) ∧ (¬cxlTrains → bad (.cxlPortTraining port rate))
      ∧ (4 ≤ port ∨ down = true → bad i)
      ∧ (port < 4 → down = false → ∃ t, exec i s = .next t
        ∧ t = { s with cxl := t.cxl, funcs := t.funcs, mem := t.mem, threads := t.threads, unitSeq := t.unitSeq }
        ∧ t.cxl.get {} port = { s.cxl.get {} port with up := false, down := true } ∧ (∀ j, j ≠ port → t.cxl.get {} j = s.cxl.get {} j)
        ∧ (∀ f, (∀ e ∈ s.parts, e.2.up = true → e.2.func ≠ f) → t.fn f = s.fn f)
        ∧ ∀ p x, s.parts = [(p, x)] → x.up = true → Claim.Logged x.func 8 s t)
      ∧ (port < 12 → gen = 2 → holds = true → glasal (.glasalLinkTraining port gen holds) { up := true, rate := 224, width := 8 })
      ∧ (port < 12 → gen = 1 ∨ (gen = 2 ∧ holds = false) → glasal (.glasalLinkTraining port gen holds) { up := true, rate := 112, width := 8 })
      ∧ (12 ≤ port ∨ (gen ≠ 1 ∧ gen ≠ 2) → bad (.glasalLinkTraining port gen holds))
      ∧ (port < 12 → glasal (.glasalFlitRetry port flit) { s.glasal.get {} port with retry := some flit })
      ∧ (12 ≤ port → bad (.glasalFlitRetry port flit))

/-- R193, R199, R231, R270, R288, R350: a peer's access is translated in the peer context's tables, accepts global and far leaves, is
performed there, and is answered with its bytes or its fault; an acquire gather's element that misses its scope is neither checked nor
read; one that meets a lent page or an unpulled segment waits; a capp is checked and performed as one. A reply reaches the access that
asked, a write's marking the watches on its block, and one of a lost package is discarded. -/
def Obligations.PeersServed : Prop :=
  (∀ (s : State) (from_ c n : Nat) (va : W64) (user : Bool) (op : RemoteOp),
      let i := Instr.remoteAccessRequest from_ c va user n op
      let st := (s.ctx c).st
      let kind : AKind := match op with
        | .read _ => .read
        | .write _ | .nib .. => .write
        | .atomic .. | .famo .. => .atomic
        | .capp _ => .read
      let tr := s.translate ioCore c user kind [0, 1] va.toNat
      let missing := ∃ sc leaf lo, op = .read (some sc) ∧ s.lookup ioCore c va.toNat = .leaf leaf lo ∧ leaf / 2 ^ 9 % 2 = 1
        ∧ sc < leaf / 2 ^ 10 % 2 ^ 3
      let up (flat : Nat) := flat < 2 ^ 60 ∨ (s.cxl.get {} (flat / 2 ^ 40 % 4)).down = false
      let held := s.remoteHeld ++ [{ from_, ctx := c, va, user, n, op }]
      (st = .dead ∨ st = .tearing → Claim.Replies s i from_ va .prot fun t => t.mem = s.mem)
      ∧ (st ≠ .dead → st ≠ .tearing → missing → Claim.Replies s i from_ va .miss fun t => t.mem = s.mem)
      ∧ (st ≠ .dead → st ≠ .tearing → ¬missing →
        (∀ m, tr = .notPresent m → Claim.Replies s i from_ va (.notPresent m) fun t => t.mem = s.mem)
        ∧ (tr = .prot ∨ tr = .severed → Claim.Replies s i from_ va .prot fun t => t.mem = s.mem)
        ∧ (∀ a, tr = .malformed a → ∃ t, exec i s = .next t ∧ t.fabricOut = s.fabricOut ++ [.remoteReply from_ va .prot]
          ∧ Claim.Logged (s.part (s.ctx c).part).func 3 s t
          ∧ t = { s with funcs := t.funcs, mem := t.mem, threads := t.threads, unitSeq := t.unitSeq, arbs := t.arbs, fabricOut := t.fabricOut })
        ∧ (∀ a, tr = .lent a ∨ (∃ sid seg, tr = .unpulled sid seg true) → ∃ t, exec i s = .next t ∧ t = { s with remoteHeld := held, arbs := t.arbs })
        ∧ (∀ sid seg, tr = .unpulled sid seg false → ∃ t, exec i s = .next t
          ∧ t = { s with remoteHeld := held, arbs := t.arbs, holders := t.holders
                         fabricOut := s.fabricOut ++ [.pullReq (sid.toNat / 2 ^ 58) sid seg (s.ctx c).part (s.ctx c).owner] }
          ∧ t.holders = s.holders.map fun h => if h.ctx = c ∧ h.stub.sid = sid then
              { h with flight := h.flight ++ [seg], st := if h.st = .delivered then .pulling else h.st } else h)
        ∧ ∀ flat leaf, tr = .ok flat leaf →
          (up flat →
            (∀ x, op = .read x → Claim.Replies s i from_ va (.data (s.bytes flat n)) fun t => t.mem = s.mem)
            ∧ (∀ bs, op = .write bs → Claim.Replies s i from_ va (.data []) (Claim.Stored flat bs s))
            ∧ (∀ hi x, op = .nib hi x → x < 16 → n = 1 → Claim.Replies s i from_ va (.data []) (Claim.Stored flat
              [BitVec.ofNat 8 (if hi = true then (s.byte flat).toNat % 16 + 16 * x else (s.byte flat).toNat / 16 * 16 + x)] s))
            ∧ (∀ fp rm ftz daz x, op = .famo fp rm ftz daz x → Claim.Replies s i from_ va (.data (s.bytes flat n))
              (Claim.Stored flat (leBytes n (fAdd ((tagOfCode fp).getD .fp64) (rmOfCode rm) ftz daz (s.load flat n) x).1) s))
            ∧ (∀ k x e, op = .atomic k x e → 0 < n → x < 2 ^ (8 * n) → e < 2 ^ (8 * n) → Claim.Replies s i from_ va (.data (s.bytes flat n))
              (Claim.Stored flat (((Claim.amoValue (amoOfCode k) n (s.load flat n) x e).map (leBytes n)).getD []) s))
            ∧ ∀ idx, op = .capp idx →
              let plan := cappPlan (s.bytes flat 32) idx
              let puts := (plan.ring.map fun w => (BitVec.ofNat 64 (w.1.toNat % 2 ^ 54), w.2)) ++ [(va + 16, plan.wr)]
              (plan.bad ≠ none → Claim.Replies s i from_ va (.data (s.bytes flat 32)) fun t => t.mem = s.mem)
              ∧ ∀ at_ : W64 → Nat, plan.bad = none →
                (∀ w ∈ puts, up (at_ w.1) ∧ ∃ leaf, s.translate ioCore c user .write [0, 1] w.1.toNat = .ok (at_ w.1) leaf) →
                Claim.Replies s i from_ va (.data (s.bytes flat 32)) fun t =>
                  t.mem = (puts.foldl (fun u w => u.storeBytes none (at_ w.1) w.2) s).mem)
          ∧ (¬up flat → Claim.Replies s i from_ va .prot fun t => t.mem = s.mem)))
    ∧ ∀ (s : State) (k : ThreadKey) (pkg : Nat) (va : W64) (o : RemoteOutcome),
        let i := Instr.remoteReply k pkg va o
        let t0 := s.thOf k
        let asked (q : Nat × Nat × W64 × Bool) := q.1 != 4 && q.2.1 == pkg && q.2.2.1 == va
          && !t0.replies.any fun r => r.who == q.1 && r.pkg == pkg && r.va == va && r.wr == q.2.2.2
        let seen (w : Bool) (t : Thread) :=
          if w = true ∧ t.watch = some (remoteFlat pkg va.toNat / 64) then { t.endWait with watchHit := !t.hold.waits } else t
        (t0.asked.find? asked = none → exec i s = .next s)
          ∧ ∀ q, t0.asked.find? asked = some q →
            (s.reachable pkg = false → exec i s = .next s)
            ∧ (s.reachable pkg = true → k < 22528 → ∃ t, exec i s = .next t ∧ t = { s with threads := t.threads, arbs := t.arbs, agenda := t.agenda }
              ∧ (∀ j, j ≠ k → t.thOf j = seen q.2.2.2 (s.thOf j))
              ∧ let t1 := seen (q.2.2.2 && decide (2 ≤ q.1)) t0
                t.thOf k = { t1 with replies := t1.replies ++ [⟨q.1, pkg, va, o, q.2.2.2⟩], hold := if t1.hold = .remote pkg then .none else t1.hold })

/-- R20, R205, R206, R386, R333, R348, R355: firmware runs only if both signatures verify, and a refusal is recorded; a partition is set
up once, sharing nothing, with its owners' virtual times and harm at zero; a cluster moves only while no group is on its cores, and they
are cleaned; a domain gives the package its number; a package reset returns every field to its reset value but memory, what has left the
package and what the environment brings (assumption 41). -/
def Obligations.PackageConfigured : Prop :=
  (∀ (s : State) (image ed ml : List Byte),
      let ok := Config.ed25519Verifies image ed = true ∧ Config.mldsa65Verifies image ml = true
      (ok → exec (.firmwareLoad image ed ml) s = .next { s with urnyx := { s.urnyx with image := some image, measure := Config.sha384 image } })
      ∧ (¬ok → exec (.firmwareLoad image ed ml) s = .next { s with urnyx := { s.urnyx with refusals := s.urnyx.refusals ++ [Config.sha384 image] } }))
    ∧ (∀ (s : State) (c : PartCfg),
        (¬Claim.MaySetUp s c → exec (.partitionSetup c) s = .next s)
        ∧ (Claim.MaySetUp s c → ∃ t, exec (.partitionSetup c) s = .next t ∧ t = { s with parts := t.parts, arbs := t.arbs }
          ∧ t.part c.id = { up := true, func := c.func, clusters := c.clusters, slices := c.slices, ctxBase := c.ctxBase, ctxCount := c.ctxCount
                            qBase := c.qBase, qCount := c.qCount, saveMax := c.saveMax, permits := c.perm }
          ∧ (∀ p, p ≠ c.id → t.part p = s.part p)
          ∧ ∀ n k, (k / 64 = c.id → ¬(n / 2 ^ 20 = 3 ∧ 2 ^ 19 ≤ n % 2 ^ 20) → (t.arb n).vtOf k = 0 ∧ (t.arb n).remV.get 0 k = 0 ∧ (t.arb n).hsUp.get 0 k = 0 ∧ (t.arb n).hxUp.get 0 k = 0)
            ∧ (k / 64 ≠ c.id → (t.arb n).vtOf k = (s.arb n).vtOf k)))
    ∧ (∀ (s : State) (cl p : Nat),
        let free := ∀ core, Claim.InCluster cl core → (∀ g ∈ s.groups, g.st.holds = true → ∀ m ∈ g.mems, m.1 ≠ core)
          ∧ ∀ tid, tid < 4 → (s.thOf (4 * core + tid)).exitedOf = none
        let keeps := ∀ q, s.partOfCluster cl = some q → 1 < (s.part q).clusters.length
        let may := cl < 48 ∧ (s.part p).up = true ∧ cl ∉ (s.part p).clusters ∧ free ∧ keeps
        (¬may → exec (.clusterMove cl p) s = .next s)
        ∧ (may → ∃ t, exec (.clusterMove cl p) s = .next t
          ∧ t = { s with threads := t.threads, cores := t.cores, mem := t.mem, parts := t.parts, strs := t.strs, freeCtr := t.freeCtr
                         tlb := t.tlb, pkgDelay := t.pkgDelay, agenda := s.agenda ++ [.event (.placeGroup p)] }
          ∧ (∀ e, e ∈ t.tlb ↔ e ∈ s.tlb ∧ ¬Claim.InCluster cl e.unit)
          ∧ t.part p = { s.part p with clusters := (s.part p).clusters ++ [cl] }
          ∧ (∀ q, q ≠ p → s.partOfCluster cl = some q → t.part q = { s.part q with clusters := (s.part q).clusters.filter (· != cl) })
          ∧ (∀ core, Claim.InCluster cl core → (t.core core).slots = [] ∧ (t.core core).cbs = [] ∧ (t.core core).clean = true
            ∧ (∀ tid, tid < 4 → t.thOf (4 * core + tid) = {}) ∧ (∀ off, off < 2 ^ 21 → t.byte (spadFlat core off) = 0)
            ∧ (t.str (core / 384 * 96 + core % 384 / 4)).off = false)
          ∧ ∀ core, ¬Claim.InCluster cl core → t.core core = s.core core))
    ∧ (∀ (s : State) (number master : Nat) (members : List Nat),
        let ok := number < 64 ∧ number ∈ members ∧ ∀ m ∈ members, m < 64
        (¬ok → exec (.domainSetup number members master) s = .next s)
        ∧ (ok → exec (.domainSetup number members master) s =
          .next { s with urnyx := { s.urnyx with number, members, master := some master, lostPeers := [] } }))
    ∧ ∀ (s : State), ∃ t, exec .packageReset s = .next t ∧ t.mem = s.mem
        ∧ { t with agenda := State.reset.agenda, lockstep := State.reset.lockstep, freeCtr := State.reset.freeCtr, mem := State.reset.mem
                   fabricOut := State.reset.fabricOut, hostOut := State.reset.hostOut } = State.reset
        ∧ t.fabricOut = s.fabricOut ∧ t.hostOut = s.hostOut

/-! ## Debug -/

namespace Sys2Proof.Claim

/-- The operation of DCMD, its thread and its register number (R352). -/
def dop (x : W64) : Nat := x.toNat % 16
/-- As `dop`, the thread. -/
def dkey (x : W64) : Nat := x.toNat / 2 ^ 10 % 2 ^ 11 * 4 + x.toNat / 2 ^ 21 % 4
/-- As `dop`, NUM. -/
def dnum (x : W64) : Nat := x.toNat / 2 ^ 23 % 2 ^ 12

/-- The state as thread `k` sees it. -/
def seen (s : State) (k : Nat) : State := { s with cur := k, lane := none }

/-- The thread is loaded and its context is not frozen (R353). -/
def Debuggable (s : State) (k : Nat) : Prop :=
  (∃ id g, (s.thOf k).group = some id ∧ s.grp id = some g ∧ g.st = .loaded) ∧ (s.ctx (s.thOf k).ctx).st ≠ .frozen

/-- The thread becomes `x`, but that the write of a trace record may end its wait (R119) and that its instructions may come to stand at
their gates (R229), and event `ev` is traced (R358). -/
def DebugTraced (k ev : Nat) (x : Thread) (s u : State) : Prop :=
  (∃ w a, u.thOf k = { x with watchHit := w, seqAge := a } ∨ u.thOf k = { x.endWait with watchHit := w, seqAge := a })
    ∧ Traced (s.part (s.thOf k).part).func 16 ev s u ∧ (∀ c, u.core c = { s.core c with seqClock := (u.core c).seqClock })
    ∧ u = { s with threads := u.threads, cores := u.cores, funcs := u.funcs, mem := u.mem, unitSeq := u.unitSeq }

/-- The instructions that stopped with a thread are reissued: a store stopped on a lent page from VSTART, which returns to 0 (R53). -/
def reissued (t : Thread) : Thread :=
  if t.pipe.any (·.partWay) then { t with pipe := t.pipe.map (Entry.resumeAt t.v.vstart), v := { t.v with vstart := 0 } } else t

/-- HALT and RESUME (R353, R354). -/
def RunControl (s : State) (op k : Nat) (arg : W64) (u : State) : Prop :=
  let t := s.thOf k
  (op = 1 → t.halted = true → u = s)
    ∧ (op = 1 → t.halted = false → (∀ e ∈ t.pipe, e.started = false) → (∀ p ∈ (s.core (coreOf k)).slots, p.2.st ≠ .releasing k) → t.asked = [] →
      DebugTraced k 1 { t with halted := true, haltPend := false } s u)
    ∧ (op = 2 → t.halted = false → u.thOf k = { t with haltPend := false } ∧ u = { s with threads := u.threads })
    ∧ (op = 2 → t.halted = true → t.brkStop = false → DebugTraced k 2 { reissued t with halted := false, haltPend := false } s u)
    ∧ (op = 2 → t.halted = true → t.brkStop = true → arg.getLsbD 0 = true → t.trap.info.getLsbD 56 = false →
      let go := loopEnd t.loops t.fu.nextAddr
      DebugTraced k 2 { reissued t with halted := false, haltPend := false, brkStop := false, loops := go.1, pc := go.2 } s u)
    ∧ (∀ d, op = 2 → t.halted = true → t.brkStop = true → arg.getLsbD 0 = false → d < 2 ^ 16 → t.trap.info = trapInfo cBRK d t.fu.long →
      ¬(t.sup = true ∧ t.trap.inTrap = true) →
      TrapEntered t (u.thOf k) (trapInfo cBRK d t.fu.long) 0 t.fu.addr t.fu.addr ∧ (u.thOf k).halted = false ∧ (u.thOf k).brkStop = false)

/-- Reads and writes of registers (R353): the state, the status and the data. -/
def RegisterOps (s : State) (op k n : Nat) (data : W64) (u : State) (st : Nat) (v : Option W64) : Prop :=
  let sp := special (seen s k) n
  let dst := n % 32
  (op = 3 → 0x800 ≤ n ∨ sp = none → u = s ∧ st = 3 ∧ v = none)
    ∧ (∀ old, op = 3 → n < 0x800 → sp = some old → u = s ∧ st = 0 ∧ v = some old)
    ∧ (op = 4 → 0x800 ≤ n ∨ sp = none ∨ (n = 0x420 ∧ (s.thOf k).pgcmd.busy = true) → u = s ∧ st = 3 ∧ v = none)
    ∧ (∀ old, op = 4 → n < 0x800 → sp = some old → ¬(n = 0x420 ∧ (s.thOf k).pgcmd.busy = true) → (s.thOf k).sup = true →
      (written (seen s k) n old data = none → u = s ∧ st = 3 ∧ v = none)
      ∧ (∀ new, written (seen s k) n old data = some new → st = 0 ∧ v = none ∧ u.mem = s.mem
        ∧ (∀ m, special (seen u k) m = if m = n then some new else special (seen s k) m) ∧ ∀ j, j ≠ k → u.thOf j = s.thOf j))
    ∧ (op = 5 → u = s ∧ st = 0 ∧ v = some (getScalar (s.thOf k) none dst))
    ∧ (op = 6 → st = 0 ∧ v = none ∧ u = { s with threads := u.threads } ∧ (∀ j, j ≠ k → u.thOf j = s.thOf j)
      ∧ (∀ r, r < 32 → getScalar (u.thOf k) none r = if r = dst ∧ r ≠ 0 then data else getScalar (s.thOf k) none r)
      ∧ u.thOf k = { s.thOf k with sregs := (u.thOf k).sregs, shadow := (u.thOf k).shadow })

/-- MEMRD and MEMWR (R353): one aligned 8-byte access, as supervisor, in the thread's context. -/
def MemoryOps (s : State) (op k : Nat) (a data : W64) (u : State) (st : Nat) (v : Option W64) : Prop :=
  let tgt := scalarTarget (coreOf k) a
  let c := (s.thOf k).ctx
  let at_ (flat : Nat) := (op = 7 → Access s u ∧ u.mem = s.mem ∧ u.threads = s.threads ∧ st = 0 ∧ v = some (BitVec.ofNat 64 (s.load flat 8)))
    ∧ (op = 8 → st = 0 ∧ v = none ∧ Stored flat (leBytes 8 data.toNat) s u ∧ Access s u)
  let fails (n : Nat) := u = s ∧ st = n ∧ v = none
  (a.toNat % 8 ≠ 0 ∨ tgt = .bad → fails 4)
    ∧ (∀ core off, a.toNat % 8 = 0 → tgt = .spad core off → (s.spadOk k c core off 8 = true → at_ (spadFlat core off))
      ∧ (s.spadOk k c core off 8 = false → fails 4))
    ∧ ∀ space va, a.toNat % 8 = 0 → tgt = .paged space va →
      let tr := s.translate (coreOf k) c false (if op = 7 then .read else .write) [space] va
      (∀ flat leaf, tr = .ok flat leaf → space ≠ 1 ∨ (s.cxl.get {} (flat / 2 ^ 40 % 4)).down = false → at_ flat)
        ∧ (∀ x, tr = .malformed x → st = 4 ∧ v = none ∧ Logged (s.part (s.thOf k).part).func 3 s u)
        ∧ ((∃ f, tr = .lent f) ∨ (∃ x y z, tr = .unpulled x y z) → fails 5)
        ∧ (tr = .prot ∨ tr = .severed ∨ (∃ m, tr = .notPresent m) → fails 4)

/-- BRKHALT and STOPRD (R353, R351). -/
def StopOps (s : State) (op k n : Nat) (arg : W64) (u : State) (st : Nat) (v : Option W64) : Prop :=
  let t := s.thOf k
  let rec_ := t.trap.stop ++ t.pipe
  (op = 9 → st = 0 ∧ v = none ∧ u = { s with threads := u.threads } ∧ u.thOf k = { t with haltBrk := arg.getLsbD 0 }
      ∧ ∀ j, j ≠ k → u.thOf j = s.thOf j)
    ∧ (op = 10 → u = s ∧ (n = 0xFFF → (arg.toNat = 0 → st = 0 ∧ v = some t.pc)
        ∧ (arg.toNat = 1 → st = 0 ∧ v = some ((rec_.head?.map (·.fu.addr)).getD t.pc))
        ∧ (arg.toNat = 2 → st = 0 ∧ v = some (BitVec.ofNat 64 rec_.length)) ∧ (3 < arg.toNat → st = 3 ∧ v = none)
        ∧ (arg.toNat = 3 → (∀ e ∈ rec_, e.partWay = false) → st = 0 ∧ v = some (BitVec.allOnes 64))
        ∧ ∀ a e b, arg.toNat = 3 → rec_ = a ++ e :: b → e.partWay = true → (∀ x ∈ a, x.partWay = false) → st = 0 ∧ v = some (BitVec.ofNat 64 a.length))
      ∧ (n ≠ 0xFFF → rec_.length ≤ n → st = 3 ∧ v = none)
      ∧ ∀ e, n ≠ 0xFFF → rec_[n]? = some e → st = 0 ∧ v = some ([e.fu.addr, word [(e.fu.word.toNat, 0), (e.fu.pre.toNat, 32)], e.capA, e.capB].getD
        (arg.toNat % 4) 0))

/-- What a debug operation does: the state after it, its STATUS and its data (R353). -/
def DebugDoes (s : State) (op k n : Nat) (arg data : W64) (u : State) (st : Nat) (v : Option W64) : Prop :=
  (¬Debuggable s k → u = s ∧ st = 2 ∧ v = none)
    ∧ (Debuggable s k → op ≠ 1 → op ≠ 2 → op ≠ 9 → (s.thOf k).halted = false → u = s ∧ st = 1 ∧ v = none)
    ∧ (Debuggable s k → op = 1 ∨ op = 2 → st = 0 ∧ v = none ∧ RunControl s op k arg u)
    ∧ (Debuggable s k → (s.thOf k).halted = true → RegisterOps s op k n data u st v)
    ∧ (Debuggable s k → (s.thOf k).halted = true → op = 7 ∨ op = 8 → MemoryOps s op k arg data u st v)
    ∧ (Debuggable s k → op = 9 ∨ (s.thOf k).halted = true → StopOps s op k n arg u st v)

/-- The request reaches no other package's memory. -/
def Local (op k : Nat) (arg : W64) : Prop := op = 7 ∨ op = 8 → ∀ pkg off, scalarTarget (coreOf k) arg ≠ .remote pkg off

end Sys2Proof.Claim

/-- R352, R353, R354, R351, R355: each debug operation, from the window: the started one that its event names is carried out on the thread
that DCMD names, with STATUS and DDATA, and completes. HALT, RESUME and BRKHALT take a thread that runs; the others need a halted one; a
thread that is not loaded, or whose context is frozen, gives 2. -/
def Sys2Proof.Claim.DebugOperationsRun : Prop :=
  ∀ (s : State) (op : Nat), 1 ≤ op → op ≤ 10 →
    let i := Claim.debugTurn op
    let x := s.dbg.dcmd
    (s.dbg.todo = false ∨ Claim.dop x ≠ op → exec i s = .next s)
      ∧ (s.dbg.todo = true → Claim.dop x = op → Claim.Local op (Claim.dkey x) s.dbg.darg → ∃ u st v,
        Claim.DebugDoes s op (Claim.dkey x) (Claim.dnum x) s.dbg.darg s.dbg.ddata u st v
        ∧ exec i s = .next { u with dbg := { u.dbg with todo := false, status := st, ddata := v.getD u.dbg.ddata }
                                    agenda := u.agenda ++ [.event (.commandComplete (.debug none))] })

/-- R355: a request forwarded by the debug master crosses the fabric (R15), is carried out here and answered, after those before it;
another sender gets 6. -/
def Sys2Proof.Claim.DebugRequestsForwarded : Prop :=
  ∀ (s : State) (from_ : Nat) (x arg data : W64),
    let i := Instr.debugForward from_ x arg data
    let op := Claim.dop x
    (s.urnyx.master ≠ some from_ → exec i s = .next { s with fabricOut := s.fabricOut ++ [.debugReply from_ 6 0] })
      ∧ (s.urnyx.master = some from_ → s.dbgFwd = [] → 1 ≤ op → op ≤ 10 → Claim.Local op (Claim.dkey x) arg → ∃ l u st v,
        Claim.DebugDoes { s with dbgFwd := [(from_, x, arg, data)], arbs := l } op (Claim.dkey x) (Claim.dnum x) arg data u st v
        ∧ exec i s = .next { u with dbgFwd := [], fabricOut := u.fabricOut ++ [.debugReply from_ st (v.getD 0)] })
      ∧ (s.urnyx.master = some from_ → s.dbgFwd = [] → op = 0 ∨ 10 < op →
        ∃ t, exec i s = .next t ∧ t = { s with dbgFwd := [], arbs := t.arbs, fabricOut := s.fabricOut ++ [.debugReply from_ 7 0] })

/-- Debug operations, from the window and from the debug master. -/
def Obligations.DebugRuns : Prop :=
  Claim.DebugOperationsRun ∧ Claim.DebugRequestsForwarded
end

