-- ==== Sys2Proof/Laws/Memory.lean ====
section
/-! SUPPORT. Laws of sparse tables and of memory: what a read after a write gives, and that every memory operation keeps the
canonical form. -/

namespace Sys2Proof

variable {α : Type}

/-- A read after a write of a table. -/
@[simp] theorem Tab.get_put (d : α) (t : Tab α) (k j : Nat) (v : α) :
    Tab.get d (Tab.put t k v) j = if j = k then v else Tab.get d t j := by
  induction t with
  | nil => simp [Tab.put, Tab.get]
  | cons p t ih =>
    obtain ⟨k', v'⟩ := p
    unfold Tab.put
    split
    · subst_vars; simp only [Tab.get]; split <;> simp_all
    · split
      · simp [Tab.get]
      · simp only [Tab.get, ih]
        by_cases h1 : j = k'
        · subst h1; simp_all [eq_comm]
        · simp [h1]

/-- The later of two writes of one key stands. -/
theorem Tab.put_put (t : Tab α) (k : Nat) (v w : α) : Tab.put (Tab.put t k v) k w = Tab.put t k w := by
  induction t with
  | nil => simp [Tab.put]
  | cons p t ih =>
    obtain ⟨k', v'⟩ := p
    simp only [Tab.put]
    split
    · subst_vars; simp [Tab.put]
    · split
      · simp [Tab.put]
      · simp [Tab.put, *]

/-- A read after a change of one entry. -/
@[simp] theorem Tab.get_upd (d : α) (t : Tab α) (k j : Nat) (f : α → α) :
    Tab.get d (Tab.upd d t k f) j = if j = k then f (Tab.get d t k) else Tab.get d t j := by
  simp [Tab.upd]

/-- A read after a change of every listed entry: an entry is changed, or the key is not listed and reads the default. -/
theorem Tab.get_mapV (d : α) (t : Tab α) (f : Nat → α → α) (j : Nat) :
    Tab.get d (Tab.mapV t f) j = f j (Tab.get d t j) ∨ (Tab.get d t j = d ∧ Tab.get d (Tab.mapV t f) j = d) := by
  induction t with
  | nil => exact .inr ⟨rfl, rfl⟩
  | cons p t ih =>
    obtain ⟨k', v'⟩ := p
    simp only [Tab.mapV, List.map_cons, Tab.get] at ih ⊢
    split
    · subst_vars; exact .inl rfl
    · exact ih

/-- A property of entries that a change of every entry keeps, and the default has. -/
theorem Tab.get_mapV_of (d : α) (t : Tab α) (f : Nat → α → α) (j : Nat) (P : α → Prop) (hd : P d)
    (hf : ∀ k v, P v → P (f k v)) (h : P (Tab.get d t j)) : P (Tab.get d (Tab.mapV t f) j) := by
  rcases Tab.get_mapV d t f j with h' | ⟨_, h'⟩
  · rw [h']; exact hf _ _ h
  · rw [h']; exact hd

end Sys2Proof

namespace Sys2Proof.Machine

/-! ## Reads after writes -/

theorem memGet_erase (m : List Host.Cell) (a x : Nat) : memGet (memErase m a) x = if x = a then memDefault else memGet m x := by
  induction m with
  | nil => simp [memErase, memGet]
  | cons c m ih =>
    obtain ⟨a', b⟩ := c
    simp only [memErase]
    split
    · subst_vars; rw [ih]; simp only [memGet]; split <;> rfl
    · simp only [memGet, ih]
      by_cases h : x = a'
      · subst h; simp_all [eq_comm]
      · simp [h]

theorem memGet_insert (m : List Host.Cell) (a x : Nat) (b : Byte) :
    memGet (memInsert m a b) x = if x = a then b else memGet m x := by
  induction m with
  | nil => simp [memInsert, memGet]
  | cons c m ih =>
    obtain ⟨a', b'⟩ := c
    simp only [memInsert]
    split
    · subst_vars; simp only [memGet]; split <;> simp_all
    · split
      · simp [memGet]
      · simp only [memGet, ih]
        by_cases h : x = a'
        · subst h; simp_all [eq_comm]
        · simp [h]

/-- A byte reads as written, and every other byte as before. -/
@[simp] theorem memGet_put (m : List Host.Cell) (a x : Nat) (b : Byte) :
    memGet (memPut m a b) x = if x = a then b else memGet m x := by
  unfold memPut
  split
  · subst_vars; exact memGet_erase m a x
  · exact memGet_insert m a x b

/-- Bytes written from `a` upward: those read as written, every other as before. -/
theorem memGet_puts (bs : List Byte) (m : List Host.Cell) (a x : Nat) :
    memGet (memPuts m a bs) x = if a ≤ x ∧ x < a + bs.length then bs.getD (x - a) 0 else memGet m x := by
  induction bs generalizing m a with
  | nil => simp only [memPuts, List.length_nil]; rw [if_neg (by omega)]
  | cons b bs ih =>
    simp only [memPuts, ih, memGet_put, List.length_cons]
    by_cases h : x = a
    · subst h; rw [if_neg (by omega), if_pos rfl, if_pos (by omega)]; simp
    · by_cases h2 : a + 1 ≤ x ∧ x < a + 1 + bs.length
      · rw [if_pos h2, if_pos (by omega)]
        obtain ⟨y, rfl⟩ : ∃ y, x = a + 1 + y := ⟨x - (a + 1), by omega⟩
        rw [show a + 1 + y - a = y + 1 by omega, show a + 1 + y - (a + 1) = y by omega]; simp
      · rw [if_neg h2, if_neg h, if_neg (by omega)]

/-- Writing no byte changes nothing. -/
@[simp] theorem memPuts_nil (m : List Host.Cell) (a : Nat) : memPuts m a [] = m := rfl

/-- The bytes just written are read back. -/
theorem memGets_puts (bs : List Byte) (m : List Host.Cell) (a : Nat) : memGets (memPuts m a bs) a bs.length = bs := by
  have key : ∀ n (m' : List Host.Cell) (c : Nat) (l : List Byte), l.length = n →
      (∀ i, i < n → memGet m' (c + i) = l.getD i 0) → memGets m' c n = l := by
    intro n
    induction n with
    | zero => intro m' c l hl _; cases l <;> simp_all [memGets]
    | succ n ih =>
      intro m' c l hl h
      cases l with
      | nil => simp at hl
      | cons b l =>
        simp only [memGets, List.cons.injEq]
        refine ⟨by simpa using h 0 (by omega), ih m' (c + 1) l (by simpa using hl) fun i hi => ?_⟩
        have := h (i + 1) (by omega)
        rw [show c + 1 + i = c + (i + 1) by omega, this]; simp
  exact key _ _ _ _ rfl fun i hi => by rw [memGet_puts, if_pos (by omega)]; simp

@[simp] theorem length_leBytes (n v : Nat) : (leBytes n v).length = n := by
  induction n generalizing v <;> simp_all [leBytes]

@[simp] theorem length_memGets (m : List Host.Cell) (a n : Nat) : (memGets m a n).length = n := by
  induction n generalizing a <;> simp_all [memGets]

/-- A number stored in little-endian bytes reads back modulo its width (R2). -/
theorem leNat_leBytes (n v : Nat) : leNat (leBytes n v) = v % 256 ^ n := by
  induction n generalizing v with
  | zero => simp [leBytes, leNat, Nat.mod_one]
  | succ n ih =>
    have h : (BitVec.ofNat 8 v).toNat = v % 256 := by simp
    rw [leBytes, leNat, ih, h, Nat.pow_succ, Nat.mul_comm (256 ^ n), Nat.mod_mul]

/-! ## The canonical form -/

/-- A memory in form above `lo` is in form above any lower bound. -/
theorem memWfFrom_weaken {m : List Host.Cell} {lo lo' : Option Nat} (h : memWfFrom lo m = true)
    (hl : ∀ l, lo' = some l → ∃ l', lo = some l' ∧ l ≤ l') : memWfFrom lo' m = true := by
  cases m with
  | nil => rfl
  | cons c m =>
    obtain ⟨a, b⟩ := c
    simp only [memWfFrom, Bool.and_eq_true] at h ⊢
    refine ⟨⟨?_, h.1.2⟩, h.2⟩
    cases lo' with
    | none => rfl
    | some l =>
      obtain ⟨l', rfl, hle⟩ := hl l rfl
      have := h.1.1
      simp only [decide_eq_true_eq] at this ⊢
      omega

theorem memWfFrom_erase {m : List Host.Cell} {lo : Option Nat} (a : Nat) (h : memWfFrom lo m = true) :
    memWfFrom lo (memErase m a) = true := by
  induction m generalizing lo with
  | nil => rfl
  | cons c m ih =>
    obtain ⟨a', b⟩ := c
    simp only [memWfFrom, Bool.and_eq_true] at h
    simp only [memErase]
    split
    · refine memWfFrom_weaken (ih h.2) fun l hl => ⟨a', rfl, ?_⟩
      subst hl; have := h.1.1; simp only [decide_eq_true_eq] at this; omega
    · simp only [memWfFrom, Bool.and_eq_true]; exact ⟨h.1, ih h.2⟩

/-- A cell may head a memory in form above its address. -/
theorem memWfFrom_cons {m : List Host.Cell} {lo : Option Nat} {a : Nat} {b : Byte} :
    memWfFrom lo ((a, b) :: m) = true ↔ (∀ l, lo = some l → l < a) ∧ b ≠ memDefault ∧ memWfFrom (some a) m = true := by
  cases lo <;> simp [memWfFrom, and_assoc]

theorem memWfFrom_insert {m : List Host.Cell} {lo : Option Nat} (a : Nat) (b : Byte) (hb : b ≠ memDefault)
    (ha : ∀ l, lo = some l → l < a) (h : memWfFrom lo m = true) : memWfFrom lo (memInsert m a b) = true := by
  induction m generalizing lo with
  | nil => exact memWfFrom_cons.2 ⟨ha, hb, rfl⟩
  | cons c m ih =>
    obtain ⟨a', b'⟩ := c
    obtain ⟨h1, h2, h3⟩ := memWfFrom_cons.1 h
    simp only [memInsert]
    split
    · subst_vars; exact memWfFrom_cons.2 ⟨ha, hb, h3⟩
    · split
      · exact memWfFrom_cons.2 ⟨ha, hb, memWfFrom_cons.2 ⟨fun l hl => by cases hl; assumption, h2, h3⟩⟩
      · exact memWfFrom_cons.2 ⟨h1, h2, ih (fun l hl => by cases hl; omega) h3⟩

/-- Writing a byte keeps the canonical form. -/
theorem wf_memPut {m : List Host.Cell} (a : Nat) (b : Byte) (h : Memory.wf m = true) : Memory.wf (memPut m a b) = true := by
  unfold memPut
  split
  · exact memWfFrom_erase a h
  · exact memWfFrom_insert a b ‹_› (fun l hl => by cases hl) h

/-- Writing bytes keeps the canonical form. -/
theorem wf_memPuts (bs : List Byte) {m : List Host.Cell} (a : Nat) (h : Memory.wf m = true) : Memory.wf (memPuts m a bs) = true := by
  induction bs generalizing m a with
  | nil => exact h
  | cons b bs ih => exact ih (a + 1) (wf_memPut a b h)

/-- Dropping cells keeps the canonical form. -/
theorem memWfFrom_filter {m : List Host.Cell} {lo : Option Nat} (p : Host.Cell → Bool) (h : memWfFrom lo m = true) :
    memWfFrom lo (m.filter p) = true := by
  induction m generalizing lo with
  | nil => rfl
  | cons c m ih =>
    obtain ⟨a, b⟩ := c
    simp only [memWfFrom, Bool.and_eq_true] at h
    simp only [List.filter_cons]
    split
    · simp only [memWfFrom, Bool.and_eq_true]; exact ⟨h.1, ih h.2⟩
    · refine memWfFrom_weaken (ih h.2) fun l hl => ⟨a, rfl, ?_⟩
      subst hl; have := h.1.1; simp only [decide_eq_true_eq] at this; omega

/-- Zeroing a range of memory keeps the canonical form. -/
theorem wf_filter {m : List Host.Cell} (p : Host.Cell → Bool) (h : Memory.wf m = true) : Memory.wf (m.filter p) = true :=
  memWfFrom_filter p h

/-! ## Filling a range -/

/-- A read after cells of some addresses are dropped. -/
theorem memGet_drop (p : Nat → Bool) (m : List Host.Cell) (x : Nat) :
    memGet (m.filter fun c => p c.1) x = if p x then memGet m x else memDefault := by
  induction m with
  | nil => simp [memGet]
  | cons c m ih =>
    obtain ⟨a, b⟩ := c
    by_cases hp : p a
    · simp only [List.filter_cons, hp, if_true, memGet, ih]
      by_cases hx : x = a
      · subst hx; simp [hp]
      · simp [hx]
    · rw [List.filter_cons_of_neg (by simpa using hp), ih]
      by_cases hx : x = a
      · subst hx; simp [hp]
      · simp [memGet, hx]

/-- A read of two lists of cells: the first answers where it lists the address. -/
theorem memGet_append (l r : List Host.Cell) (x : Nat) :
    memGet (l ++ r) x = if x ∈ l.map (·.1) then memGet l x else memGet r x := by
  induction l with
  | nil => simp
  | cons c l ih =>
    obtain ⟨a, b⟩ := c
    simp only [List.cons_append, memGet, ih, List.map_cons, List.mem_cons]
    by_cases h : x = a <;> simp [h]

/-- An address that no cell lists reads as the default. -/
theorem memGet_unlisted {l : List Host.Cell} {x : Nat} (h : x ∉ l.map (·.1)) : memGet l x = memDefault := by
  induction l with
  | nil => rfl
  | cons c l ih =>
    obtain ⟨a, b⟩ := c
    simp only [List.map_cons, List.mem_cons, not_or] at h
    simp [memGet, h.1, ih h.2]

/-- The cells of bytes read as the bytes. -/
theorem memGet_cells (bs : List Byte) (a x : Nat) :
    memGet (cellsOf a bs) x = if a ≤ x ∧ x < a + bs.length then bs.getD (x - a) 0 else memDefault := by
  induction bs generalizing a with
  | nil => simp only [cellsOf, List.length_nil]; rw [if_neg (by omega)]; rfl
  | cons b bs ih =>
    have hm : memGet (cellsOf a (b :: bs)) x = if x = a ∧ b ≠ memDefault then b else memGet (cellsOf (a + 1) bs) x := by
      rw [cellsOf]
      split
      · next h => rw [if_neg fun c => c.2 h]
      · next h => simp only [memGet]; by_cases hx : x = a <;> simp [h, hx]
    rw [hm, ih]
    simp only [List.length_cons]
    by_cases h : x = a
    · subst h; rw [if_pos (c := x ≤ x ∧ _) (by omega), if_neg (c := x + 1 ≤ x ∧ _) (by omega)]
      by_cases hb : b = memDefault <;> simp [hb]
    · rw [if_neg fun c => h c.1]
      by_cases h2 : a + 1 ≤ x ∧ x < a + 1 + bs.length
      · rw [if_pos h2, if_pos (by omega)]
        obtain ⟨y, rfl⟩ : ∃ y, x = a + 1 + y := ⟨x - (a + 1), by omega⟩
        rw [show a + 1 + y - a = y + 1 by omega, show a + 1 + y - (a + 1) = y by omega]; simp
      · rw [if_neg h2, if_neg (by omega)]

/-- Filling a range reads as writing its bytes does. -/
theorem memGet_fill (bs : List Byte) (m : List Host.Cell) (a x : Nat) : memGet (memFill m a bs) x = memGet (memPuts m a bs) x := by
  have low : ∀ (p : Nat → Bool) (r : List Host.Cell), memGet ((m.filter fun c => p c.1) ++ r) x
      = if x ∈ (m.filter fun c => p c.1).map (·.1) then memGet m x else memGet r x := by
    intro p r
    rw [memGet_append]
    split
    · next h =>
      have hp : p x = true := by
        obtain ⟨c, hc, rfl⟩ := List.mem_map.1 h
        exact (List.mem_filter.1 hc).2
      rw [memGet_drop, if_pos hp]
    · rfl
  have cell : ∀ b y, y ∈ (cellsOf b bs).map (·.1) → b ≤ y ∧ y < b + bs.length := by
    intro b y
    induction bs generalizing b with
    | nil => simp [cellsOf]
    | cons d ds ih =>
      unfold cellsOf
      split
      · intro h; have := ih (b + 1) h; simp only [List.length_cons]; omega
      · intro h
        simp only [List.map_cons, List.mem_cons] at h
        rcases h with rfl | h
        · simp
        · have := ih (b + 1) h; simp only [List.length_cons]; omega
  rw [memGet_puts]
  unfold memFill
  rw [low fun y => decide (y < a)]
  by_cases h1 : x < a
  · rw [if_neg (c := a ≤ x ∧ _) (by omega)]
    split
    · rfl
    · next h =>
      have hd := memGet_drop (fun y => decide (y < a)) m x
      rw [memGet_unlisted h] at hd
      simp only [h1, decide_true, if_true] at hd
      rw [memGet_append, if_neg fun c => by have := cell a x c; omega, memGet_drop fun y => decide (a + bs.length ≤ y), ← hd]
      rw [if_neg]; simp only [decide_eq_true_eq]; omega
  · rw [if_neg fun c => by
      obtain ⟨c', hc, rfl⟩ := List.mem_map.1 c
      exact h1 (by simpa using (List.mem_filter.1 hc).2)]
    rw [memGet_append, memGet_cells, memGet_drop fun y => decide (a + bs.length ≤ y)]
    by_cases h2 : x < a + bs.length
    · rw [if_pos (c := a ≤ x ∧ _) ⟨by omega, h2⟩, if_pos (c := a ≤ x ∧ _) ⟨by omega, h2⟩]
      split
      · rfl
      · next h =>
        have hc := memGet_cells bs a x
        rw [memGet_unlisted h, if_pos ⟨by omega, h2⟩] at hc
        rw [if_neg, hc]; simp only [decide_eq_true_eq]; omega
    · rw [if_neg fun c => h2 (cell a x c).2, if_neg (c := a ≤ x ∧ _) (by omega), if_pos]
      simp only [decide_eq_true_eq]; omega

/-- Canonical lists one above the other make a canonical list. -/
theorem memWfFrom_append {l r : List Host.Cell} {lo : Option Nat} (a : Nat) (h : memWfFrom lo l = true) (hl : ∀ c ∈ l, c.1 < a)
    (ho : ∀ x, lo = some x → x < a) (hr : ∀ o : Option Nat, (∀ x, o = some x → x < a) → memWfFrom o r = true) :
    memWfFrom lo (l ++ r) = true := by
  induction l generalizing lo with
  | nil => exact hr lo ho
  | cons c l ih =>
    obtain ⟨x, b⟩ := c
    obtain ⟨h1, h2, h3⟩ := memWfFrom_cons.1 h
    exact memWfFrom_cons.2 ⟨h1, h2, ih h3 (fun c hc => hl c (List.mem_cons_of_mem _ hc))
      fun y hy => by cases hy; exact hl (x, b) (List.mem_cons_self ..)⟩

/-- Filling a range keeps the canonical form. -/
theorem wf_memFill (bs : List Byte) {m : List Host.Cell} (a : Nat) (h : Memory.wf m = true) : Memory.wf (memFill m a bs) = true := by
  have top : ∀ (b : Nat) (o : Option Nat), (∀ x, o = some x → x < b) → memWfFrom o (m.filter fun c => decide (b ≤ c.1)) = true := by
    intro b o ho
    have hf : memWfFrom none (m.filter fun c => decide (b ≤ c.1)) = true := wf_filter _ h
    generalize hl : (m.filter fun c => decide (b ≤ c.1)) = l at hf
    cases l with
    | nil => rfl
    | cons c l =>
      obtain ⟨x, d⟩ := c
      have hx : b ≤ x := by
        have : (x, d) ∈ m.filter fun c => decide (b ≤ c.1) := by rw [hl]; exact List.mem_cons_self ..
        simpa using (List.mem_filter.1 this).2
      obtain ⟨-, h2, h3⟩ := memWfFrom_cons.1 hf
      exact memWfFrom_cons.2 ⟨fun y hy => by have := ho y hy; omega, h2, h3⟩
  have mid : ∀ (bs : List Byte) (b : Nat) (o : Option Nat), (∀ x, o = some x → x < b) →
      memWfFrom o (cellsOf b bs ++ m.filter fun c => decide (b + bs.length ≤ c.1)) = true := by
    intro bs
    induction bs with
    | nil => intro b o ho; simpa [cellsOf] using top b o ho
    | cons d ds ih =>
      intro b o ho
      have e : b + (d :: ds).length = b + 1 + ds.length := by simp only [List.length_cons]; omega
      rw [e]
      unfold cellsOf
      split
      · exact ih (b + 1) o fun x hx => by have := ho x hx; omega
      · exact memWfFrom_cons.2 ⟨ho, ‹_›, ih (b + 1) _ fun x hx => by cases hx; omega⟩
  refine memWfFrom_append a (wf_filter _ h) (fun c hc => by simpa using (List.mem_filter.1 hc).2) (fun x hx => by cases hx) fun o ho => mid bs a o ho

end Sys2Proof.Machine
end

