-- ==== Sys2Proof/Laws/State.lean ====
section
/-! SUPPORT. The state's record updates: for each named update, what it leaves of every field, once; and what the accessors read
after it. -/

namespace Sys2Proof.Machine

/-- The fields after `setTh`. -/
@[simp] theorem setTh_fields (s : State) (k : ThreadKey) (t : Thread) :
    (s.setTh k t).cur = s.cur ∧ (s.setTh k t).lane = s.lane ∧ (s.setTh k t).agenda = s.agenda ∧
    (s.setTh k t).lockstep = s.lockstep ∧ (s.setTh k t).freeCtr = s.freeCtr ∧ (s.setTh k t).mem = s.mem ∧
    (s.setTh k t).threads = s.threads.put k t ∧ (s.setTh k t).cores = s.cores ∧ (s.setTh k t).strs = s.strs ∧
    (s.setTh k t).cls = s.cls ∧ (s.setTh k t).mgr = s.mgr ∧ (s.setTh k t).imbwin = s.imbwin ∧ (s.setTh k t).urnyx = s.urnyx ∧
    (s.setTh k t).parts = s.parts ∧ (s.setTh k t).funcs = s.funcs ∧ (s.setTh k t).ctxs = s.ctxs ∧
    (s.setTh k t).queues = s.queues ∧ (s.setTh k t).launches = s.launches ∧ (s.setTh k t).groups = s.groups ∧
    (s.setTh k t).nextId = s.nextId ∧ (s.setTh k t).pend = s.pend ∧ (s.setTh k t).bars = s.bars ∧ (s.setTh k t).tlb = s.tlb ∧
    (s.setTh k t).faults = s.faults ∧ (s.setTh k t).unitSeq = s.unitSeq ∧ (s.setTh k t).nearLines = s.nearLines ∧
    (s.setTh k t).origins = s.origins ∧ (s.setTh k t).holders = s.holders ∧ (s.setTh k t).serial = s.serial ∧
    (s.setTh k t).transit = s.transit ∧ (s.setTh k t).hostHeld = s.hostHeld ∧ (s.setTh k t).remoteHeld = s.remoteHeld ∧
    (s.setTh k t).landings = s.landings ∧
    (s.setTh k t).blanks = s.blanks ∧ (s.setTh k t).fabricOut = s.fabricOut ∧ (s.setTh k t).hostOut = s.hostOut ∧
    (s.setTh k t).arbs = s.arbs ∧ (s.setTh k t).pkgDelay = s.pkgDelay ∧ (s.setTh k t).pcie = s.pcie ∧
    (s.setTh k t).cxl = s.cxl ∧ (s.setTh k t).glasal = s.glasal ∧ (s.setTh k t).budgets = s.budgets ∧
    (s.setTh k t).dbg = s.dbg ∧ (s.setTh k t).dbgFwd = s.dbgFwd :=
  ⟨rfl, rfl, rfl, rfl, rfl, rfl, rfl, rfl, rfl, rfl, rfl, rfl, rfl, rfl, rfl, rfl, rfl, rfl, rfl, rfl, rfl, rfl, rfl, rfl, rfl, rfl, rfl, rfl, rfl, rfl, rfl, rfl, rfl, rfl, rfl, rfl, rfl, rfl, rfl, rfl, rfl, rfl, rfl, rfl⟩

/-- The fields after `modTh`. -/
@[simp] theorem modTh_fields (s : State) (k : ThreadKey) (f : Thread → Thread) :
    (s.modTh k f).cur = s.cur ∧ (s.modTh k f).lane = s.lane ∧ (s.modTh k f).agenda = s.agenda ∧
    (s.modTh k f).lockstep = s.lockstep ∧ (s.modTh k f).freeCtr = s.freeCtr ∧ (s.modTh k f).mem = s.mem ∧
    (s.modTh k f).threads = s.threads.put k (f (s.thOf k)) ∧ (s.modTh k f).cores = s.cores ∧ (s.modTh k f).strs = s.strs ∧
    (s.modTh k f).cls = s.cls ∧ (s.modTh k f).mgr = s.mgr ∧ (s.modTh k f).imbwin = s.imbwin ∧ (s.modTh k f).urnyx = s.urnyx ∧
    (s.modTh k f).parts = s.parts ∧ (s.modTh k f).funcs = s.funcs ∧ (s.modTh k f).ctxs = s.ctxs ∧
    (s.modTh k f).queues = s.queues ∧ (s.modTh k f).launches = s.launches ∧ (s.modTh k f).groups = s.groups ∧
    (s.modTh k f).nextId = s.nextId ∧ (s.modTh k f).pend = s.pend ∧ (s.modTh k f).bars = s.bars ∧ (s.modTh k f).tlb = s.tlb ∧
    (s.modTh k f).faults = s.faults ∧ (s.modTh k f).unitSeq = s.unitSeq ∧ (s.modTh k f).nearLines = s.nearLines ∧
    (s.modTh k f).origins = s.origins ∧ (s.modTh k f).holders = s.holders ∧ (s.modTh k f).serial = s.serial ∧
    (s.modTh k f).transit = s.transit ∧ (s.modTh k f).hostHeld = s.hostHeld ∧ (s.modTh k f).remoteHeld = s.remoteHeld ∧
    (s.modTh k f).landings = s.landings ∧
    (s.modTh k f).blanks = s.blanks ∧ (s.modTh k f).fabricOut = s.fabricOut ∧ (s.modTh k f).hostOut = s.hostOut ∧
    (s.modTh k f).arbs = s.arbs ∧ (s.modTh k f).pkgDelay = s.pkgDelay ∧ (s.modTh k f).pcie = s.pcie ∧
    (s.modTh k f).cxl = s.cxl ∧ (s.modTh k f).glasal = s.glasal ∧ (s.modTh k f).budgets = s.budgets ∧
    (s.modTh k f).dbg = s.dbg ∧ (s.modTh k f).dbgFwd = s.dbgFwd :=
  ⟨rfl, rfl, rfl, rfl, rfl, rfl, rfl, rfl, rfl, rfl, rfl, rfl, rfl, rfl, rfl, rfl, rfl, rfl, rfl, rfl, rfl, rfl, rfl, rfl, rfl, rfl, rfl, rfl, rfl, rfl, rfl, rfl, rfl, rfl, rfl, rfl, rfl, rfl, rfl, rfl, rfl, rfl, rfl, rfl⟩

/-- The fields after `mod`. -/
@[simp] theorem mod_fields (s : State) (f : Thread → Thread) :
    (s.mod f).cur = s.cur ∧ (s.mod f).lane = s.lane ∧ (s.mod f).agenda = s.agenda ∧ (s.mod f).lockstep = s.lockstep ∧
    (s.mod f).freeCtr = s.freeCtr ∧ (s.mod f).mem = s.mem ∧ (s.mod f).threads = s.threads.put s.cur (f s.th) ∧
    (s.mod f).cores = s.cores ∧ (s.mod f).strs = s.strs ∧ (s.mod f).cls = s.cls ∧ (s.mod f).mgr = s.mgr ∧
    (s.mod f).imbwin = s.imbwin ∧ (s.mod f).urnyx = s.urnyx ∧ (s.mod f).parts = s.parts ∧ (s.mod f).funcs = s.funcs ∧
    (s.mod f).ctxs = s.ctxs ∧ (s.mod f).queues = s.queues ∧ (s.mod f).launches = s.launches ∧ (s.mod f).groups = s.groups ∧
    (s.mod f).nextId = s.nextId ∧ (s.mod f).pend = s.pend ∧ (s.mod f).bars = s.bars ∧ (s.mod f).tlb = s.tlb ∧
    (s.mod f).faults = s.faults ∧ (s.mod f).unitSeq = s.unitSeq ∧ (s.mod f).nearLines = s.nearLines ∧
    (s.mod f).origins = s.origins ∧ (s.mod f).holders = s.holders ∧ (s.mod f).serial = s.serial ∧
    (s.mod f).transit = s.transit ∧ (s.mod f).hostHeld = s.hostHeld ∧ (s.mod f).remoteHeld = s.remoteHeld ∧
    (s.mod f).landings = s.landings ∧
    (s.mod f).blanks = s.blanks ∧ (s.mod f).fabricOut = s.fabricOut ∧ (s.mod f).hostOut = s.hostOut ∧
    (s.mod f).arbs = s.arbs ∧ (s.mod f).pkgDelay = s.pkgDelay ∧ (s.mod f).pcie = s.pcie ∧ (s.mod f).cxl = s.cxl ∧
    (s.mod f).glasal = s.glasal ∧ (s.mod f).budgets = s.budgets ∧ (s.mod f).dbg = s.dbg ∧ (s.mod f).dbgFwd = s.dbgFwd :=
  ⟨rfl, rfl, rfl, rfl, rfl, rfl, rfl, rfl, rfl, rfl, rfl, rfl, rfl, rfl, rfl, rfl, rfl, rfl, rfl, rfl, rfl, rfl, rfl, rfl, rfl, rfl, rfl, rfl, rfl, rfl, rfl, rfl, rfl, rfl, rfl, rfl, rfl, rfl, rfl, rfl, rfl, rfl, rfl, rfl⟩

/-- The fields after `modCore`. -/
@[simp] theorem modCore_fields (s : State) (c : Nat) (f : CoreSt → CoreSt) :
    (s.modCore c f).cur = s.cur ∧ (s.modCore c f).lane = s.lane ∧ (s.modCore c f).agenda = s.agenda ∧
    (s.modCore c f).lockstep = s.lockstep ∧ (s.modCore c f).freeCtr = s.freeCtr ∧ (s.modCore c f).mem = s.mem ∧
    (s.modCore c f).threads = s.threads ∧ (s.modCore c f).cores = s.cores.put c (f (s.core c)) ∧ (s.modCore c f).strs = s.strs ∧
    (s.modCore c f).cls = s.cls ∧ (s.modCore c f).mgr = s.mgr ∧ (s.modCore c f).imbwin = s.imbwin ∧
    (s.modCore c f).urnyx = s.urnyx ∧ (s.modCore c f).parts = s.parts ∧ (s.modCore c f).funcs = s.funcs ∧
    (s.modCore c f).ctxs = s.ctxs ∧ (s.modCore c f).queues = s.queues ∧ (s.modCore c f).launches = s.launches ∧
    (s.modCore c f).groups = s.groups ∧ (s.modCore c f).nextId = s.nextId ∧ (s.modCore c f).pend = s.pend ∧
    (s.modCore c f).bars = s.bars ∧ (s.modCore c f).tlb = s.tlb ∧ (s.modCore c f).faults = s.faults ∧
    (s.modCore c f).unitSeq = s.unitSeq ∧ (s.modCore c f).nearLines = s.nearLines ∧ (s.modCore c f).origins = s.origins ∧
    (s.modCore c f).holders = s.holders ∧ (s.modCore c f).serial = s.serial ∧ (s.modCore c f).transit = s.transit ∧
    (s.modCore c f).hostHeld = s.hostHeld ∧ (s.modCore c f).remoteHeld = s.remoteHeld ∧ (s.modCore c f).landings = s.landings ∧
    (s.modCore c f).blanks = s.blanks ∧
    (s.modCore c f).fabricOut = s.fabricOut ∧ (s.modCore c f).hostOut = s.hostOut ∧ (s.modCore c f).arbs = s.arbs ∧
    (s.modCore c f).pkgDelay = s.pkgDelay ∧ (s.modCore c f).pcie = s.pcie ∧ (s.modCore c f).cxl = s.cxl ∧
    (s.modCore c f).glasal = s.glasal ∧ (s.modCore c f).budgets = s.budgets ∧ (s.modCore c f).dbg = s.dbg ∧
    (s.modCore c f).dbgFwd = s.dbgFwd :=
  ⟨rfl, rfl, rfl, rfl, rfl, rfl, rfl, rfl, rfl, rfl, rfl, rfl, rfl, rfl, rfl, rfl, rfl, rfl, rfl, rfl, rfl, rfl, rfl, rfl, rfl, rfl, rfl, rfl, rfl, rfl, rfl, rfl, rfl, rfl, rfl, rfl, rfl, rfl, rfl, rfl, rfl, rfl, rfl, rfl⟩

/-- The fields after `modCtx`. -/
@[simp] theorem modCtx_fields (s : State) (c : Nat) (f : CtxSt → CtxSt) :
    (s.modCtx c f).cur = s.cur ∧ (s.modCtx c f).lane = s.lane ∧ (s.modCtx c f).agenda = s.agenda ∧
    (s.modCtx c f).lockstep = s.lockstep ∧ (s.modCtx c f).freeCtr = s.freeCtr ∧ (s.modCtx c f).mem = s.mem ∧
    (s.modCtx c f).threads = s.threads ∧ (s.modCtx c f).cores = s.cores ∧ (s.modCtx c f).strs = s.strs ∧
    (s.modCtx c f).cls = s.cls ∧ (s.modCtx c f).mgr = s.mgr ∧ (s.modCtx c f).imbwin = s.imbwin ∧
    (s.modCtx c f).urnyx = s.urnyx ∧ (s.modCtx c f).parts = s.parts ∧ (s.modCtx c f).funcs = s.funcs ∧
    (s.modCtx c f).ctxs = s.ctxs.put c (f (s.ctx c)) ∧ (s.modCtx c f).queues = s.queues ∧ (s.modCtx c f).launches = s.launches ∧
    (s.modCtx c f).groups = s.groups ∧ (s.modCtx c f).nextId = s.nextId ∧ (s.modCtx c f).pend = s.pend ∧
    (s.modCtx c f).bars = s.bars ∧ (s.modCtx c f).tlb = s.tlb ∧ (s.modCtx c f).faults = s.faults ∧
    (s.modCtx c f).unitSeq = s.unitSeq ∧ (s.modCtx c f).nearLines = s.nearLines ∧ (s.modCtx c f).origins = s.origins ∧
    (s.modCtx c f).holders = s.holders ∧ (s.modCtx c f).serial = s.serial ∧ (s.modCtx c f).transit = s.transit ∧
    (s.modCtx c f).hostHeld = s.hostHeld ∧ (s.modCtx c f).remoteHeld = s.remoteHeld ∧ (s.modCtx c f).landings = s.landings ∧
    (s.modCtx c f).blanks = s.blanks ∧
    (s.modCtx c f).fabricOut = s.fabricOut ∧ (s.modCtx c f).hostOut = s.hostOut ∧ (s.modCtx c f).arbs = s.arbs ∧
    (s.modCtx c f).pkgDelay = s.pkgDelay ∧ (s.modCtx c f).pcie = s.pcie ∧ (s.modCtx c f).cxl = s.cxl ∧
    (s.modCtx c f).glasal = s.glasal ∧ (s.modCtx c f).budgets = s.budgets ∧ (s.modCtx c f).dbg = s.dbg ∧
    (s.modCtx c f).dbgFwd = s.dbgFwd :=
  ⟨rfl, rfl, rfl, rfl, rfl, rfl, rfl, rfl, rfl, rfl, rfl, rfl, rfl, rfl, rfl, rfl, rfl, rfl, rfl, rfl, rfl, rfl, rfl, rfl, rfl, rfl, rfl, rfl, rfl, rfl, rfl, rfl, rfl, rfl, rfl, rfl, rfl, rfl, rfl, rfl, rfl, rfl, rfl, rfl⟩

/-- The fields after `modPart`. -/
@[simp] theorem modPart_fields (s : State) (c : Nat) (f : PartSt → PartSt) :
    (s.modPart c f).cur = s.cur ∧ (s.modPart c f).lane = s.lane ∧ (s.modPart c f).agenda = s.agenda ∧
    (s.modPart c f).lockstep = s.lockstep ∧ (s.modPart c f).freeCtr = s.freeCtr ∧ (s.modPart c f).mem = s.mem ∧
    (s.modPart c f).threads = s.threads ∧ (s.modPart c f).cores = s.cores ∧ (s.modPart c f).strs = s.strs ∧
    (s.modPart c f).cls = s.cls ∧ (s.modPart c f).mgr = s.mgr ∧ (s.modPart c f).imbwin = s.imbwin ∧
    (s.modPart c f).urnyx = s.urnyx ∧ (s.modPart c f).parts = s.parts.put c (f (s.part c)) ∧ (s.modPart c f).funcs = s.funcs ∧
    (s.modPart c f).ctxs = s.ctxs ∧ (s.modPart c f).queues = s.queues ∧ (s.modPart c f).launches = s.launches ∧
    (s.modPart c f).groups = s.groups ∧ (s.modPart c f).nextId = s.nextId ∧ (s.modPart c f).pend = s.pend ∧
    (s.modPart c f).bars = s.bars ∧ (s.modPart c f).tlb = s.tlb ∧ (s.modPart c f).faults = s.faults ∧
    (s.modPart c f).unitSeq = s.unitSeq ∧ (s.modPart c f).nearLines = s.nearLines ∧ (s.modPart c f).origins = s.origins ∧
    (s.modPart c f).holders = s.holders ∧ (s.modPart c f).serial = s.serial ∧ (s.modPart c f).transit = s.transit ∧
    (s.modPart c f).hostHeld = s.hostHeld ∧ (s.modPart c f).remoteHeld = s.remoteHeld ∧ (s.modPart c f).landings = s.landings ∧
    (s.modPart c f).blanks = s.blanks ∧
    (s.modPart c f).fabricOut = s.fabricOut ∧ (s.modPart c f).hostOut = s.hostOut ∧ (s.modPart c f).arbs = s.arbs ∧
    (s.modPart c f).pkgDelay = s.pkgDelay ∧ (s.modPart c f).pcie = s.pcie ∧ (s.modPart c f).cxl = s.cxl ∧
    (s.modPart c f).glasal = s.glasal ∧ (s.modPart c f).budgets = s.budgets ∧ (s.modPart c f).dbg = s.dbg ∧
    (s.modPart c f).dbgFwd = s.dbgFwd :=
  ⟨rfl, rfl, rfl, rfl, rfl, rfl, rfl, rfl, rfl, rfl, rfl, rfl, rfl, rfl, rfl, rfl, rfl, rfl, rfl, rfl, rfl, rfl, rfl, rfl, rfl, rfl, rfl, rfl, rfl, rfl, rfl, rfl, rfl, rfl, rfl, rfl, rfl, rfl, rfl, rfl, rfl, rfl, rfl, rfl⟩

/-- The fields after `modFn`. -/
@[simp] theorem modFn_fields (s : State) (c : Nat) (f : FuncSt → FuncSt) :
    (s.modFn c f).cur = s.cur ∧ (s.modFn c f).lane = s.lane ∧ (s.modFn c f).agenda = s.agenda ∧
    (s.modFn c f).lockstep = s.lockstep ∧ (s.modFn c f).freeCtr = s.freeCtr ∧ (s.modFn c f).mem = s.mem ∧
    (s.modFn c f).threads = s.threads ∧ (s.modFn c f).cores = s.cores ∧ (s.modFn c f).strs = s.strs ∧
    (s.modFn c f).cls = s.cls ∧ (s.modFn c f).mgr = s.mgr ∧ (s.modFn c f).imbwin = s.imbwin ∧ (s.modFn c f).urnyx = s.urnyx ∧
    (s.modFn c f).parts = s.parts ∧ (s.modFn c f).funcs = s.funcs.put c (f (s.fn c)) ∧ (s.modFn c f).ctxs = s.ctxs ∧
    (s.modFn c f).queues = s.queues ∧ (s.modFn c f).launches = s.launches ∧ (s.modFn c f).groups = s.groups ∧
    (s.modFn c f).nextId = s.nextId ∧ (s.modFn c f).pend = s.pend ∧ (s.modFn c f).bars = s.bars ∧ (s.modFn c f).tlb = s.tlb ∧
    (s.modFn c f).faults = s.faults ∧ (s.modFn c f).unitSeq = s.unitSeq ∧ (s.modFn c f).nearLines = s.nearLines ∧
    (s.modFn c f).origins = s.origins ∧ (s.modFn c f).holders = s.holders ∧ (s.modFn c f).serial = s.serial ∧
    (s.modFn c f).transit = s.transit ∧ (s.modFn c f).hostHeld = s.hostHeld ∧ (s.modFn c f).remoteHeld = s.remoteHeld ∧
    (s.modFn c f).landings = s.landings ∧
    (s.modFn c f).blanks = s.blanks ∧ (s.modFn c f).fabricOut = s.fabricOut ∧ (s.modFn c f).hostOut = s.hostOut ∧
    (s.modFn c f).arbs = s.arbs ∧ (s.modFn c f).pkgDelay = s.pkgDelay ∧ (s.modFn c f).pcie = s.pcie ∧
    (s.modFn c f).cxl = s.cxl ∧ (s.modFn c f).glasal = s.glasal ∧ (s.modFn c f).budgets = s.budgets ∧
    (s.modFn c f).dbg = s.dbg ∧ (s.modFn c f).dbgFwd = s.dbgFwd :=
  ⟨rfl, rfl, rfl, rfl, rfl, rfl, rfl, rfl, rfl, rfl, rfl, rfl, rfl, rfl, rfl, rfl, rfl, rfl, rfl, rfl, rfl, rfl, rfl, rfl, rfl, rfl, rfl, rfl, rfl, rfl, rfl, rfl, rfl, rfl, rfl, rfl, rfl, rfl, rfl, rfl, rfl, rfl, rfl, rfl⟩

/-- The fields after `modQ`. -/
@[simp] theorem modQ_fields (s : State) (c : Nat) (f : QueueSt → QueueSt) :
    (s.modQ c f).cur = s.cur ∧ (s.modQ c f).lane = s.lane ∧ (s.modQ c f).agenda = s.agenda ∧
    (s.modQ c f).lockstep = s.lockstep ∧ (s.modQ c f).freeCtr = s.freeCtr ∧ (s.modQ c f).mem = s.mem ∧
    (s.modQ c f).threads = s.threads ∧ (s.modQ c f).cores = s.cores ∧ (s.modQ c f).strs = s.strs ∧ (s.modQ c f).cls = s.cls ∧
    (s.modQ c f).mgr = s.mgr ∧ (s.modQ c f).imbwin = s.imbwin ∧ (s.modQ c f).urnyx = s.urnyx ∧ (s.modQ c f).parts = s.parts ∧
    (s.modQ c f).funcs = s.funcs ∧ (s.modQ c f).ctxs = s.ctxs ∧ (s.modQ c f).queues = s.queues.put c (f (s.q c)) ∧
    (s.modQ c f).launches = s.launches ∧ (s.modQ c f).groups = s.groups ∧ (s.modQ c f).nextId = s.nextId ∧
    (s.modQ c f).pend = s.pend ∧ (s.modQ c f).bars = s.bars ∧ (s.modQ c f).tlb = s.tlb ∧ (s.modQ c f).faults = s.faults ∧
    (s.modQ c f).unitSeq = s.unitSeq ∧ (s.modQ c f).nearLines = s.nearLines ∧ (s.modQ c f).origins = s.origins ∧
    (s.modQ c f).holders = s.holders ∧ (s.modQ c f).serial = s.serial ∧ (s.modQ c f).transit = s.transit ∧
    (s.modQ c f).hostHeld = s.hostHeld ∧ (s.modQ c f).remoteHeld = s.remoteHeld ∧ (s.modQ c f).landings = s.landings ∧
    (s.modQ c f).blanks = s.blanks ∧
    (s.modQ c f).fabricOut = s.fabricOut ∧ (s.modQ c f).hostOut = s.hostOut ∧ (s.modQ c f).arbs = s.arbs ∧
    (s.modQ c f).pkgDelay = s.pkgDelay ∧ (s.modQ c f).pcie = s.pcie ∧ (s.modQ c f).cxl = s.cxl ∧
    (s.modQ c f).glasal = s.glasal ∧ (s.modQ c f).budgets = s.budgets ∧ (s.modQ c f).dbg = s.dbg ∧
    (s.modQ c f).dbgFwd = s.dbgFwd :=
  ⟨rfl, rfl, rfl, rfl, rfl, rfl, rfl, rfl, rfl, rfl, rfl, rfl, rfl, rfl, rfl, rfl, rfl, rfl, rfl, rfl, rfl, rfl, rfl, rfl, rfl, rfl, rfl, rfl, rfl, rfl, rfl, rfl, rfl, rfl, rfl, rfl, rfl, rfl, rfl, rfl, rfl, rfl, rfl, rfl⟩

/-- The fields after `modStr`. -/
@[simp] theorem modStr_fields (s : State) (c : Nat) (f : StrSt → StrSt) :
    (s.modStr c f).cur = s.cur ∧ (s.modStr c f).lane = s.lane ∧ (s.modStr c f).agenda = s.agenda ∧
    (s.modStr c f).lockstep = s.lockstep ∧ (s.modStr c f).freeCtr = s.freeCtr ∧ (s.modStr c f).mem = s.mem ∧
    (s.modStr c f).threads = s.threads ∧ (s.modStr c f).cores = s.cores ∧ (s.modStr c f).strs = s.strs.put c (f (s.str c)) ∧
    (s.modStr c f).cls = s.cls ∧ (s.modStr c f).mgr = s.mgr ∧ (s.modStr c f).imbwin = s.imbwin ∧
    (s.modStr c f).urnyx = s.urnyx ∧ (s.modStr c f).parts = s.parts ∧ (s.modStr c f).funcs = s.funcs ∧
    (s.modStr c f).ctxs = s.ctxs ∧ (s.modStr c f).queues = s.queues ∧ (s.modStr c f).launches = s.launches ∧
    (s.modStr c f).groups = s.groups ∧ (s.modStr c f).nextId = s.nextId ∧ (s.modStr c f).pend = s.pend ∧
    (s.modStr c f).bars = s.bars ∧ (s.modStr c f).tlb = s.tlb ∧ (s.modStr c f).faults = s.faults ∧
    (s.modStr c f).unitSeq = s.unitSeq ∧ (s.modStr c f).nearLines = s.nearLines ∧ (s.modStr c f).origins = s.origins ∧
    (s.modStr c f).holders = s.holders ∧ (s.modStr c f).serial = s.serial ∧ (s.modStr c f).transit = s.transit ∧
    (s.modStr c f).hostHeld = s.hostHeld ∧ (s.modStr c f).remoteHeld = s.remoteHeld ∧ (s.modStr c f).landings = s.landings ∧
    (s.modStr c f).blanks = s.blanks ∧
    (s.modStr c f).fabricOut = s.fabricOut ∧ (s.modStr c f).hostOut = s.hostOut ∧ (s.modStr c f).arbs = s.arbs ∧
    (s.modStr c f).pkgDelay = s.pkgDelay ∧ (s.modStr c f).pcie = s.pcie ∧ (s.modStr c f).cxl = s.cxl ∧
    (s.modStr c f).glasal = s.glasal ∧ (s.modStr c f).budgets = s.budgets ∧ (s.modStr c f).dbg = s.dbg ∧
    (s.modStr c f).dbgFwd = s.dbgFwd :=
  ⟨rfl, rfl, rfl, rfl, rfl, rfl, rfl, rfl, rfl, rfl, rfl, rfl, rfl, rfl, rfl, rfl, rfl, rfl, rfl, rfl, rfl, rfl, rfl, rfl, rfl, rfl, rfl, rfl, rfl, rfl, rfl, rfl, rfl, rfl, rfl, rfl, rfl, rfl, rfl, rfl, rfl, rfl, rfl, rfl⟩

/-- The fields after `modClu`. -/
@[simp] theorem modClu_fields (s : State) (c : Nat) (f : ClSt → ClSt) :
    (s.modClu c f).cur = s.cur ∧ (s.modClu c f).lane = s.lane ∧ (s.modClu c f).agenda = s.agenda ∧
    (s.modClu c f).lockstep = s.lockstep ∧ (s.modClu c f).freeCtr = s.freeCtr ∧ (s.modClu c f).mem = s.mem ∧
    (s.modClu c f).threads = s.threads ∧ (s.modClu c f).cores = s.cores ∧ (s.modClu c f).strs = s.strs ∧
    (s.modClu c f).cls = s.cls.put c (f (s.clu c)) ∧ (s.modClu c f).mgr = s.mgr ∧ (s.modClu c f).imbwin = s.imbwin ∧
    (s.modClu c f).urnyx = s.urnyx ∧ (s.modClu c f).parts = s.parts ∧ (s.modClu c f).funcs = s.funcs ∧
    (s.modClu c f).ctxs = s.ctxs ∧ (s.modClu c f).queues = s.queues ∧ (s.modClu c f).launches = s.launches ∧
    (s.modClu c f).groups = s.groups ∧ (s.modClu c f).nextId = s.nextId ∧ (s.modClu c f).pend = s.pend ∧
    (s.modClu c f).bars = s.bars ∧ (s.modClu c f).tlb = s.tlb ∧ (s.modClu c f).faults = s.faults ∧
    (s.modClu c f).unitSeq = s.unitSeq ∧ (s.modClu c f).nearLines = s.nearLines ∧ (s.modClu c f).origins = s.origins ∧
    (s.modClu c f).holders = s.holders ∧ (s.modClu c f).serial = s.serial ∧ (s.modClu c f).transit = s.transit ∧
    (s.modClu c f).hostHeld = s.hostHeld ∧ (s.modClu c f).remoteHeld = s.remoteHeld ∧ (s.modClu c f).landings = s.landings ∧
    (s.modClu c f).blanks = s.blanks ∧
    (s.modClu c f).fabricOut = s.fabricOut ∧ (s.modClu c f).hostOut = s.hostOut ∧ (s.modClu c f).arbs = s.arbs ∧
    (s.modClu c f).pkgDelay = s.pkgDelay ∧ (s.modClu c f).pcie = s.pcie ∧ (s.modClu c f).cxl = s.cxl ∧
    (s.modClu c f).glasal = s.glasal ∧ (s.modClu c f).budgets = s.budgets ∧ (s.modClu c f).dbg = s.dbg ∧
    (s.modClu c f).dbgFwd = s.dbgFwd :=
  ⟨rfl, rfl, rfl, rfl, rfl, rfl, rfl, rfl, rfl, rfl, rfl, rfl, rfl, rfl, rfl, rfl, rfl, rfl, rfl, rfl, rfl, rfl, rfl, rfl, rfl, rfl, rfl, rfl, rfl, rfl, rfl, rfl, rfl, rfl, rfl, rfl, rfl, rfl, rfl, rfl, rfl, rfl, rfl, rfl⟩

/-- The fields after `modGrp`. -/
@[simp] theorem modGrp_fields (s : State) (c : Nat) (f : Group → Group) :
    (s.modGrp c f).cur = s.cur ∧ (s.modGrp c f).lane = s.lane ∧ (s.modGrp c f).agenda = s.agenda ∧
    (s.modGrp c f).lockstep = s.lockstep ∧ (s.modGrp c f).freeCtr = s.freeCtr ∧ (s.modGrp c f).mem = s.mem ∧
    (s.modGrp c f).threads = s.threads ∧ (s.modGrp c f).cores = s.cores ∧ (s.modGrp c f).strs = s.strs ∧
    (s.modGrp c f).cls = s.cls ∧ (s.modGrp c f).mgr = s.mgr ∧ (s.modGrp c f).imbwin = s.imbwin ∧
    (s.modGrp c f).urnyx = s.urnyx ∧ (s.modGrp c f).parts = s.parts ∧ (s.modGrp c f).funcs = s.funcs ∧
    (s.modGrp c f).ctxs = s.ctxs ∧ (s.modGrp c f).queues = s.queues ∧ (s.modGrp c f).launches = s.launches ∧
    ((s.modGrp c f).groups = s.groups.map fun g => if g.id == c then f g else g) ∧ (s.modGrp c f).nextId = s.nextId ∧
    (s.modGrp c f).pend = s.pend ∧ (s.modGrp c f).bars = s.bars ∧ (s.modGrp c f).tlb = s.tlb ∧
    (s.modGrp c f).faults = s.faults ∧ (s.modGrp c f).unitSeq = s.unitSeq ∧ (s.modGrp c f).nearLines = s.nearLines ∧
    (s.modGrp c f).origins = s.origins ∧ (s.modGrp c f).holders = s.holders ∧ (s.modGrp c f).serial = s.serial ∧
    (s.modGrp c f).transit = s.transit ∧ (s.modGrp c f).hostHeld = s.hostHeld ∧ (s.modGrp c f).remoteHeld = s.remoteHeld ∧
    (s.modGrp c f).landings = s.landings ∧
    (s.modGrp c f).blanks = s.blanks ∧ (s.modGrp c f).fabricOut = s.fabricOut ∧ (s.modGrp c f).hostOut = s.hostOut ∧
    (s.modGrp c f).arbs = s.arbs ∧ (s.modGrp c f).pkgDelay = s.pkgDelay ∧ (s.modGrp c f).pcie = s.pcie ∧
    (s.modGrp c f).cxl = s.cxl ∧ (s.modGrp c f).glasal = s.glasal ∧ (s.modGrp c f).budgets = s.budgets ∧
    (s.modGrp c f).dbg = s.dbg ∧ (s.modGrp c f).dbgFwd = s.dbgFwd :=
  ⟨rfl, rfl, rfl, rfl, rfl, rfl, rfl, rfl, rfl, rfl, rfl, rfl, rfl, rfl, rfl, rfl, rfl, rfl, rfl, rfl, rfl, rfl, rfl, rfl, rfl, rfl, rfl, rfl, rfl, rfl, rfl, rfl, rfl, rfl, rfl, rfl, rfl, rfl, rfl, rfl, rfl, rfl, rfl, rfl⟩

/-- The fields after `modLau`. -/
@[simp] theorem modLau_fields (s : State) (c : Nat) (f : Launch → Launch) :
    (s.modLau c f).cur = s.cur ∧ (s.modLau c f).lane = s.lane ∧ (s.modLau c f).agenda = s.agenda ∧
    (s.modLau c f).lockstep = s.lockstep ∧ (s.modLau c f).freeCtr = s.freeCtr ∧ (s.modLau c f).mem = s.mem ∧
    (s.modLau c f).threads = s.threads ∧ (s.modLau c f).cores = s.cores ∧ (s.modLau c f).strs = s.strs ∧
    (s.modLau c f).cls = s.cls ∧ (s.modLau c f).mgr = s.mgr ∧ (s.modLau c f).imbwin = s.imbwin ∧
    (s.modLau c f).urnyx = s.urnyx ∧ (s.modLau c f).parts = s.parts ∧ (s.modLau c f).funcs = s.funcs ∧
    (s.modLau c f).ctxs = s.ctxs ∧ (s.modLau c f).queues = s.queues ∧
    ((s.modLau c f).launches = s.launches.map fun l => if l.id == c then f l else l) ∧ (s.modLau c f).groups = s.groups ∧
    (s.modLau c f).nextId = s.nextId ∧ (s.modLau c f).pend = s.pend ∧ (s.modLau c f).bars = s.bars ∧
    (s.modLau c f).tlb = s.tlb ∧ (s.modLau c f).faults = s.faults ∧ (s.modLau c f).unitSeq = s.unitSeq ∧
    (s.modLau c f).nearLines = s.nearLines ∧ (s.modLau c f).origins = s.origins ∧ (s.modLau c f).holders = s.holders ∧
    (s.modLau c f).serial = s.serial ∧ (s.modLau c f).transit = s.transit ∧ (s.modLau c f).hostHeld = s.hostHeld ∧
    (s.modLau c f).remoteHeld = s.remoteHeld ∧ (s.modLau c f).landings = s.landings ∧
    (s.modLau c f).blanks = s.blanks ∧ (s.modLau c f).fabricOut = s.fabricOut ∧
    (s.modLau c f).hostOut = s.hostOut ∧ (s.modLau c f).arbs = s.arbs ∧ (s.modLau c f).pkgDelay = s.pkgDelay ∧
    (s.modLau c f).pcie = s.pcie ∧ (s.modLau c f).cxl = s.cxl ∧ (s.modLau c f).glasal = s.glasal ∧
    (s.modLau c f).budgets = s.budgets ∧ (s.modLau c f).dbg = s.dbg ∧ (s.modLau c f).dbgFwd = s.dbgFwd :=
  ⟨rfl, rfl, rfl, rfl, rfl, rfl, rfl, rfl, rfl, rfl, rfl, rfl, rfl, rfl, rfl, rfl, rfl, rfl, rfl, rfl, rfl, rfl, rfl, rfl, rfl, rfl, rfl, rfl, rfl, rfl, rfl, rfl, rfl, rfl, rfl, rfl, rfl, rfl, rfl, rfl, rfl, rfl, rfl, rfl⟩

/-- The fields after `later`. -/
@[simp] theorem later_fields (s : State) (i : Instr) :
    (s.later i).cur = s.cur ∧ (s.later i).lane = s.lane ∧ (s.later i).agenda = s.agenda ++ [.event i] ∧
    (s.later i).lockstep = s.lockstep ∧ (s.later i).freeCtr = s.freeCtr ∧ (s.later i).mem = s.mem ∧
    (s.later i).threads = s.threads ∧ (s.later i).cores = s.cores ∧ (s.later i).strs = s.strs ∧ (s.later i).cls = s.cls ∧
    (s.later i).mgr = s.mgr ∧ (s.later i).imbwin = s.imbwin ∧ (s.later i).urnyx = s.urnyx ∧ (s.later i).parts = s.parts ∧
    (s.later i).funcs = s.funcs ∧ (s.later i).ctxs = s.ctxs ∧ (s.later i).queues = s.queues ∧
    (s.later i).launches = s.launches ∧ (s.later i).groups = s.groups ∧ (s.later i).nextId = s.nextId ∧
    (s.later i).pend = s.pend ∧ (s.later i).bars = s.bars ∧ (s.later i).tlb = s.tlb ∧ (s.later i).faults = s.faults ∧
    (s.later i).unitSeq = s.unitSeq ∧ (s.later i).nearLines = s.nearLines ∧ (s.later i).origins = s.origins ∧
    (s.later i).holders = s.holders ∧ (s.later i).serial = s.serial ∧ (s.later i).transit = s.transit ∧
    (s.later i).hostHeld = s.hostHeld ∧ (s.later i).remoteHeld = s.remoteHeld ∧ (s.later i).landings = s.landings ∧
    (s.later i).blanks = s.blanks ∧
    (s.later i).fabricOut = s.fabricOut ∧ (s.later i).hostOut = s.hostOut ∧ (s.later i).arbs = s.arbs ∧
    (s.later i).pkgDelay = s.pkgDelay ∧ (s.later i).pcie = s.pcie ∧ (s.later i).cxl = s.cxl ∧ (s.later i).glasal = s.glasal ∧
    (s.later i).budgets = s.budgets ∧ (s.later i).dbg = s.dbg ∧ (s.later i).dbgFwd = s.dbgFwd :=
  ⟨rfl, rfl, rfl, rfl, rfl, rfl, rfl, rfl, rfl, rfl, rfl, rfl, rfl, rfl, rfl, rfl, rfl, rfl, rfl, rfl, rfl, rfl, rfl, rfl, rfl, rfl, rfl, rfl, rfl, rfl, rfl, rfl, rfl, rfl, rfl, rfl, rfl, rfl, rfl, rfl, rfl, rfl, rfl, rfl⟩

/-- The fields after `soon`. -/
@[simp] theorem soon_fields (s : State) (i : Instr) :
    (s.soon i).cur = s.cur ∧ (s.soon i).lane = s.lane ∧ (s.soon i).agenda = .event i :: s.agenda ∧
    (s.soon i).lockstep = s.lockstep ∧ (s.soon i).freeCtr = s.freeCtr ∧ (s.soon i).mem = s.mem ∧
    (s.soon i).threads = s.threads ∧ (s.soon i).cores = s.cores ∧ (s.soon i).strs = s.strs ∧ (s.soon i).cls = s.cls ∧
    (s.soon i).mgr = s.mgr ∧ (s.soon i).imbwin = s.imbwin ∧ (s.soon i).urnyx = s.urnyx ∧ (s.soon i).parts = s.parts ∧
    (s.soon i).funcs = s.funcs ∧ (s.soon i).ctxs = s.ctxs ∧ (s.soon i).queues = s.queues ∧ (s.soon i).launches = s.launches ∧
    (s.soon i).groups = s.groups ∧ (s.soon i).nextId = s.nextId ∧ (s.soon i).pend = s.pend ∧ (s.soon i).bars = s.bars ∧
    (s.soon i).tlb = s.tlb ∧ (s.soon i).faults = s.faults ∧ (s.soon i).unitSeq = s.unitSeq ∧
    (s.soon i).nearLines = s.nearLines ∧ (s.soon i).origins = s.origins ∧ (s.soon i).holders = s.holders ∧
    (s.soon i).serial = s.serial ∧ (s.soon i).transit = s.transit ∧ (s.soon i).hostHeld = s.hostHeld ∧
    (s.soon i).remoteHeld = s.remoteHeld ∧ (s.soon i).landings = s.landings ∧
    (s.soon i).blanks = s.blanks ∧ (s.soon i).fabricOut = s.fabricOut ∧
    (s.soon i).hostOut = s.hostOut ∧ (s.soon i).arbs = s.arbs ∧ (s.soon i).pkgDelay = s.pkgDelay ∧ (s.soon i).pcie = s.pcie ∧
    (s.soon i).cxl = s.cxl ∧ (s.soon i).glasal = s.glasal ∧ (s.soon i).budgets = s.budgets ∧ (s.soon i).dbg = s.dbg ∧
    (s.soon i).dbgFwd = s.dbgFwd :=
  ⟨rfl, rfl, rfl, rfl, rfl, rfl, rfl, rfl, rfl, rfl, rfl, rfl, rfl, rfl, rfl, rfl, rfl, rfl, rfl, rfl, rfl, rfl, rfl, rfl, rfl, rfl, rfl, rfl, rfl, rfl, rfl, rfl, rfl, rfl, rfl, rfl, rfl, rfl, rfl, rfl, rfl, rfl, rfl, rfl⟩

/-- The fields after `send`. -/
@[simp] theorem send_fields (s : State) (m : FabMsg) :
    (s.send m).cur = s.cur ∧ (s.send m).lane = s.lane ∧ (s.send m).agenda = s.agenda ∧ (s.send m).lockstep = s.lockstep ∧
    (s.send m).freeCtr = s.freeCtr ∧ (s.send m).mem = s.mem ∧ (s.send m).threads = s.threads ∧ (s.send m).cores = s.cores ∧
    (s.send m).strs = s.strs ∧ (s.send m).cls = s.cls ∧ (s.send m).mgr = s.mgr ∧ (s.send m).imbwin = s.imbwin ∧
    (s.send m).urnyx = s.urnyx ∧ (s.send m).parts = s.parts ∧ (s.send m).funcs = s.funcs ∧ (s.send m).ctxs = s.ctxs ∧
    (s.send m).queues = s.queues ∧ (s.send m).launches = s.launches ∧ (s.send m).groups = s.groups ∧
    (s.send m).nextId = s.nextId ∧ (s.send m).pend = s.pend ∧ (s.send m).bars = s.bars ∧ (s.send m).tlb = s.tlb ∧
    (s.send m).faults = s.faults ∧ (s.send m).unitSeq = s.unitSeq ∧ (s.send m).nearLines = s.nearLines ∧
    (s.send m).origins = s.origins ∧ (s.send m).holders = s.holders ∧ (s.send m).serial = s.serial ∧
    (s.send m).transit = s.transit ∧ (s.send m).hostHeld = s.hostHeld ∧ (s.send m).remoteHeld = s.remoteHeld ∧
    (s.send m).landings = s.landings ∧
    (s.send m).blanks = s.blanks ∧ (s.send m).fabricOut = s.fabricOut ++ [m] ∧ (s.send m).hostOut = s.hostOut ∧
    (s.send m).arbs = s.arbs ∧ (s.send m).pkgDelay = s.pkgDelay ∧ (s.send m).pcie = s.pcie ∧ (s.send m).cxl = s.cxl ∧
    (s.send m).glasal = s.glasal ∧ (s.send m).budgets = s.budgets ∧ (s.send m).dbg = s.dbg ∧ (s.send m).dbgFwd = s.dbgFwd :=
  ⟨rfl, rfl, rfl, rfl, rfl, rfl, rfl, rfl, rfl, rfl, rfl, rfl, rfl, rfl, rfl, rfl, rfl, rfl, rfl, rfl, rfl, rfl, rfl, rfl, rfl, rfl, rfl, rfl, rfl, rfl, rfl, rfl, rfl, rfl, rfl, rfl, rfl, rfl, rfl, rfl, rfl, rfl, rfl, rfl⟩

/-- The fields after `storeBytes`. -/
@[simp] theorem storeBytes_fields (s : State) (w : Option ThreadKey) (a : Nat) (bs : List Byte) :
    (s.storeBytes w a bs).cur = s.cur ∧ (s.storeBytes w a bs).lane = s.lane ∧ (s.storeBytes w a bs).agenda = s.agenda ∧
    (s.storeBytes w a bs).lockstep = s.lockstep ∧ (s.storeBytes w a bs).freeCtr = s.freeCtr ∧
    (s.storeBytes w a bs).mem = memPuts s.mem a bs ∧ (s.storeBytes w a bs).threads = s.threads.mapV (watchMark w a bs.length) ∧
    (s.storeBytes w a bs).cores = s.cores ∧ (s.storeBytes w a bs).strs = s.strs ∧ (s.storeBytes w a bs).cls = s.cls ∧
    (s.storeBytes w a bs).mgr = s.mgr ∧ (s.storeBytes w a bs).imbwin = s.imbwin ∧ (s.storeBytes w a bs).urnyx = s.urnyx ∧
    (s.storeBytes w a bs).parts = s.parts ∧ (s.storeBytes w a bs).funcs = s.funcs ∧ (s.storeBytes w a bs).ctxs = s.ctxs ∧
    (s.storeBytes w a bs).queues = s.queues ∧ (s.storeBytes w a bs).launches = s.launches ∧
    (s.storeBytes w a bs).groups = s.groups ∧ (s.storeBytes w a bs).nextId = s.nextId ∧ (s.storeBytes w a bs).pend = s.pend ∧
    (s.storeBytes w a bs).bars = s.bars ∧ (s.storeBytes w a bs).tlb = s.tlb ∧ (s.storeBytes w a bs).faults = s.faults ∧
    (s.storeBytes w a bs).unitSeq = s.unitSeq ∧ (s.storeBytes w a bs).nearLines = s.nearLines ∧
    (s.storeBytes w a bs).origins = s.origins ∧ (s.storeBytes w a bs).holders = s.holders ∧
    (s.storeBytes w a bs).serial = s.serial ∧ (s.storeBytes w a bs).transit = s.transit ∧
    (s.storeBytes w a bs).hostHeld = s.hostHeld ∧ (s.storeBytes w a bs).remoteHeld = s.remoteHeld ∧
    (s.storeBytes w a bs).landings = s.landings ∧
    (s.storeBytes w a bs).blanks = s.blanks ∧ (s.storeBytes w a bs).fabricOut = s.fabricOut ∧
    (s.storeBytes w a bs).hostOut = s.hostOut ∧ (s.storeBytes w a bs).arbs = s.arbs ∧
    (s.storeBytes w a bs).pkgDelay = s.pkgDelay ∧ (s.storeBytes w a bs).pcie = s.pcie ∧ (s.storeBytes w a bs).cxl = s.cxl ∧
    (s.storeBytes w a bs).glasal = s.glasal ∧ (s.storeBytes w a bs).budgets = s.budgets ∧ (s.storeBytes w a bs).dbg = s.dbg ∧
    (s.storeBytes w a bs).dbgFwd = s.dbgFwd :=
  ⟨rfl, rfl, rfl, rfl, rfl, rfl, rfl, rfl, rfl, rfl, rfl, rfl, rfl, rfl, rfl, rfl, rfl, rfl, rfl, rfl, rfl, rfl, rfl, rfl, rfl, rfl, rfl, rfl, rfl, rfl, rfl, rfl, rfl, rfl, rfl, rfl, rfl, rfl, rfl, rfl, rfl, rfl, rfl, rfl⟩

/-! ## Accessors after updates -/

@[simp] theorem thOf_setTh (s : State) (k j : Nat) (t : Thread) : (s.setTh k t).thOf j = if j = k then t else s.thOf j := by
  simp [State.thOf]

@[simp] theorem thOf_modTh (s : State) (k j : Nat) (f : Thread → Thread) : (s.modTh k f).thOf j = if j = k then f (s.thOf k) else s.thOf j := by
  simp [State.thOf]

@[simp] theorem core_modCore (s : State) (k j : Nat) (f : CoreSt → CoreSt) : (s.modCore k f).core j = if j = k then f (s.core k) else s.core j := by
  simp [State.core]

@[simp] theorem ctx_modCtx (s : State) (k j : Nat) (f : CtxSt → CtxSt) : (s.modCtx k f).ctx j = if j = k then f (s.ctx k) else s.ctx j := by
  simp [State.ctx]

@[simp] theorem part_modPart (s : State) (k j : Nat) (f : PartSt → PartSt) : (s.modPart k f).part j = if j = k then f (s.part k) else s.part j := by
  simp [State.part]

@[simp] theorem fn_modFn (s : State) (k j : Nat) (f : FuncSt → FuncSt) : (s.modFn k f).fn j = if j = k then f (s.fn k) else s.fn j := by
  simp [State.fn]

@[simp] theorem q_modQ (s : State) (k j : Nat) (f : QueueSt → QueueSt) : (s.modQ k f).q j = if j = k then f (s.q k) else s.q j := by
  simp [State.q]

@[simp] theorem str_modStr (s : State) (k j : Nat) (f : StrSt → StrSt) : (s.modStr k f).str j = if j = k then f (s.str k) else s.str j := by
  simp [State.str]

@[simp] theorem clu_modClu (s : State) (k j : Nat) (f : ClSt → ClSt) : (s.modClu k f).clu j = if j = k then f (s.clu k) else s.clu j := by
  simp [State.clu]

@[simp] theorem th_mod (s : State) (f : Thread → Thread) : (s.mod f).th = f s.th := by simp [State.th, State.thOf]

@[simp] theorem thOf_mod (s : State) (f : Thread → Thread) (j : Nat) : (s.mod f).thOf j = if j = s.cur then f s.th else s.thOf j := by
  simp [State.thOf]

@[simp] theorem byte_storeBytes (s : State) (w : Option ThreadKey) (a x : Nat) (bs : List Byte) :
    (s.storeBytes w a bs).byte x = if a ≤ x ∧ x < a + bs.length then bs.getD (x - a) 0 else s.byte x := by
  simp [State.byte, memGet_puts]

/-- What the accessors read after `setTh`. -/
@[simp] theorem setTh_reads (s : State) (k : ThreadKey) (t : Thread) :
    (∀ j, (s.setTh k t).core j = s.core j) ∧ (∀ j, (s.setTh k t).ctx j = s.ctx j) ∧ (∀ j, (s.setTh k t).part j = s.part j) ∧
    (∀ j, (s.setTh k t).fn j = s.fn j) ∧ (∀ j, (s.setTh k t).q j = s.q j) ∧ (∀ j, (s.setTh k t).str j = s.str j) ∧
    (∀ j, (s.setTh k t).clu j = s.clu j) ∧ (∀ j, (s.setTh k t).byte j = s.byte j) ∧ (∀ j, (s.setTh k t).grp j = s.grp j) ∧
    (∀ j, (s.setTh k t).lau j = s.lau j) ∧ (∀ j, (s.setTh k t).mgrReg j = s.mgrReg j) :=
  ⟨fun _ => rfl, fun _ => rfl, fun _ => rfl, fun _ => rfl, fun _ => rfl, fun _ => rfl, fun _ => rfl, fun _ => rfl, fun _ => rfl, fun _ => rfl, fun _ => rfl⟩

/-- What the accessors read after `modTh`. -/
@[simp] theorem modTh_reads (s : State) (k : ThreadKey) (f : Thread → Thread) :
    (∀ j, (s.modTh k f).core j = s.core j) ∧ (∀ j, (s.modTh k f).ctx j = s.ctx j) ∧ (∀ j, (s.modTh k f).part j = s.part j) ∧
    (∀ j, (s.modTh k f).fn j = s.fn j) ∧ (∀ j, (s.modTh k f).q j = s.q j) ∧ (∀ j, (s.modTh k f).str j = s.str j) ∧
    (∀ j, (s.modTh k f).clu j = s.clu j) ∧ (∀ j, (s.modTh k f).byte j = s.byte j) ∧ (∀ j, (s.modTh k f).grp j = s.grp j) ∧
    (∀ j, (s.modTh k f).lau j = s.lau j) ∧ (∀ j, (s.modTh k f).mgrReg j = s.mgrReg j) :=
  ⟨fun _ => rfl, fun _ => rfl, fun _ => rfl, fun _ => rfl, fun _ => rfl, fun _ => rfl, fun _ => rfl, fun _ => rfl, fun _ => rfl, fun _ => rfl, fun _ => rfl⟩

/-- What the accessors read after `mod`. -/
@[simp] theorem mod_reads (s : State) (f : Thread → Thread) :
    (∀ j, (s.mod f).core j = s.core j) ∧ (∀ j, (s.mod f).ctx j = s.ctx j) ∧ (∀ j, (s.mod f).part j = s.part j) ∧
    (∀ j, (s.mod f).fn j = s.fn j) ∧ (∀ j, (s.mod f).q j = s.q j) ∧ (∀ j, (s.mod f).str j = s.str j) ∧
    (∀ j, (s.mod f).clu j = s.clu j) ∧ (∀ j, (s.mod f).byte j = s.byte j) ∧ (∀ j, (s.mod f).grp j = s.grp j) ∧
    (∀ j, (s.mod f).lau j = s.lau j) ∧ (∀ j, (s.mod f).mgrReg j = s.mgrReg j) :=
  ⟨fun _ => rfl, fun _ => rfl, fun _ => rfl, fun _ => rfl, fun _ => rfl, fun _ => rfl, fun _ => rfl, fun _ => rfl, fun _ => rfl, fun _ => rfl, fun _ => rfl⟩

/-- What the accessors read after `modCore`. -/
@[simp] theorem modCore_reads (s : State) (c : Nat) (f : CoreSt → CoreSt) :
    (∀ j, (s.modCore c f).thOf j = s.thOf j) ∧ (∀ j, (s.modCore c f).ctx j = s.ctx j) ∧
    (∀ j, (s.modCore c f).part j = s.part j) ∧ (∀ j, (s.modCore c f).fn j = s.fn j) ∧ (∀ j, (s.modCore c f).q j = s.q j) ∧
    (∀ j, (s.modCore c f).str j = s.str j) ∧ (∀ j, (s.modCore c f).clu j = s.clu j) ∧ (∀ j, (s.modCore c f).byte j = s.byte j) ∧
    (∀ j, (s.modCore c f).grp j = s.grp j) ∧ (∀ j, (s.modCore c f).lau j = s.lau j) ∧
    (∀ j, (s.modCore c f).mgrReg j = s.mgrReg j) ∧ (s.modCore c f).th = s.th :=
  ⟨fun _ => rfl, fun _ => rfl, fun _ => rfl, fun _ => rfl, fun _ => rfl, fun _ => rfl, fun _ => rfl, fun _ => rfl, fun _ => rfl, fun _ => rfl, fun _ => rfl, rfl⟩

/-- What the accessors read after `modCtx`. -/
@[simp] theorem modCtx_reads (s : State) (c : Nat) (f : CtxSt → CtxSt) :
    (∀ j, (s.modCtx c f).thOf j = s.thOf j) ∧ (∀ j, (s.modCtx c f).core j = s.core j) ∧
    (∀ j, (s.modCtx c f).part j = s.part j) ∧ (∀ j, (s.modCtx c f).fn j = s.fn j) ∧ (∀ j, (s.modCtx c f).q j = s.q j) ∧
    (∀ j, (s.modCtx c f).str j = s.str j) ∧ (∀ j, (s.modCtx c f).clu j = s.clu j) ∧ (∀ j, (s.modCtx c f).byte j = s.byte j) ∧
    (∀ j, (s.modCtx c f).grp j = s.grp j) ∧ (∀ j, (s.modCtx c f).lau j = s.lau j) ∧
    (∀ j, (s.modCtx c f).mgrReg j = s.mgrReg j) ∧ (s.modCtx c f).th = s.th :=
  ⟨fun _ => rfl, fun _ => rfl, fun _ => rfl, fun _ => rfl, fun _ => rfl, fun _ => rfl, fun _ => rfl, fun _ => rfl, fun _ => rfl, fun _ => rfl, fun _ => rfl, rfl⟩

/-- What the accessors read after `modPart`. -/
@[simp] theorem modPart_reads (s : State) (c : Nat) (f : PartSt → PartSt) :
    (∀ j, (s.modPart c f).thOf j = s.thOf j) ∧ (∀ j, (s.modPart c f).core j = s.core j) ∧
    (∀ j, (s.modPart c f).ctx j = s.ctx j) ∧ (∀ j, (s.modPart c f).fn j = s.fn j) ∧ (∀ j, (s.modPart c f).q j = s.q j) ∧
    (∀ j, (s.modPart c f).str j = s.str j) ∧ (∀ j, (s.modPart c f).clu j = s.clu j) ∧ (∀ j, (s.modPart c f).byte j = s.byte j) ∧
    (∀ j, (s.modPart c f).grp j = s.grp j) ∧ (∀ j, (s.modPart c f).lau j = s.lau j) ∧
    (∀ j, (s.modPart c f).mgrReg j = s.mgrReg j) ∧ (s.modPart c f).th = s.th :=
  ⟨fun _ => rfl, fun _ => rfl, fun _ => rfl, fun _ => rfl, fun _ => rfl, fun _ => rfl, fun _ => rfl, fun _ => rfl, fun _ => rfl, fun _ => rfl, fun _ => rfl, rfl⟩

/-- What the accessors read after `modFn`. -/
@[simp] theorem modFn_reads (s : State) (c : Nat) (f : FuncSt → FuncSt) :
    (∀ j, (s.modFn c f).thOf j = s.thOf j) ∧ (∀ j, (s.modFn c f).core j = s.core j) ∧ (∀ j, (s.modFn c f).ctx j = s.ctx j) ∧
    (∀ j, (s.modFn c f).part j = s.part j) ∧ (∀ j, (s.modFn c f).q j = s.q j) ∧ (∀ j, (s.modFn c f).str j = s.str j) ∧
    (∀ j, (s.modFn c f).clu j = s.clu j) ∧ (∀ j, (s.modFn c f).byte j = s.byte j) ∧ (∀ j, (s.modFn c f).grp j = s.grp j) ∧
    (∀ j, (s.modFn c f).lau j = s.lau j) ∧ (∀ j, (s.modFn c f).mgrReg j = s.mgrReg j) ∧ (s.modFn c f).th = s.th :=
  ⟨fun _ => rfl, fun _ => rfl, fun _ => rfl, fun _ => rfl, fun _ => rfl, fun _ => rfl, fun _ => rfl, fun _ => rfl, fun _ => rfl, fun _ => rfl, fun _ => rfl, rfl⟩

/-- What the accessors read after `modQ`. -/
@[simp] theorem modQ_reads (s : State) (c : Nat) (f : QueueSt → QueueSt) :
    (∀ j, (s.modQ c f).thOf j = s.thOf j) ∧ (∀ j, (s.modQ c f).core j = s.core j) ∧ (∀ j, (s.modQ c f).ctx j = s.ctx j) ∧
    (∀ j, (s.modQ c f).part j = s.part j) ∧ (∀ j, (s.modQ c f).fn j = s.fn j) ∧ (∀ j, (s.modQ c f).str j = s.str j) ∧
    (∀ j, (s.modQ c f).clu j = s.clu j) ∧ (∀ j, (s.modQ c f).byte j = s.byte j) ∧ (∀ j, (s.modQ c f).grp j = s.grp j) ∧
    (∀ j, (s.modQ c f).lau j = s.lau j) ∧ (∀ j, (s.modQ c f).mgrReg j = s.mgrReg j) ∧ (s.modQ c f).th = s.th :=
  ⟨fun _ => rfl, fun _ => rfl, fun _ => rfl, fun _ => rfl, fun _ => rfl, fun _ => rfl, fun _ => rfl, fun _ => rfl, fun _ => rfl, fun _ => rfl, fun _ => rfl, rfl⟩

/-- What the accessors read after `modStr`. -/
@[simp] theorem modStr_reads (s : State) (c : Nat) (f : StrSt → StrSt) :
    (∀ j, (s.modStr c f).thOf j = s.thOf j) ∧ (∀ j, (s.modStr c f).core j = s.core j) ∧ (∀ j, (s.modStr c f).ctx j = s.ctx j) ∧
    (∀ j, (s.modStr c f).part j = s.part j) ∧ (∀ j, (s.modStr c f).fn j = s.fn j) ∧ (∀ j, (s.modStr c f).q j = s.q j) ∧
    (∀ j, (s.modStr c f).clu j = s.clu j) ∧ (∀ j, (s.modStr c f).byte j = s.byte j) ∧ (∀ j, (s.modStr c f).grp j = s.grp j) ∧
    (∀ j, (s.modStr c f).lau j = s.lau j) ∧ (∀ j, (s.modStr c f).mgrReg j = s.mgrReg j) ∧ (s.modStr c f).th = s.th :=
  ⟨fun _ => rfl, fun _ => rfl, fun _ => rfl, fun _ => rfl, fun _ => rfl, fun _ => rfl, fun _ => rfl, fun _ => rfl, fun _ => rfl, fun _ => rfl, fun _ => rfl, rfl⟩

/-- What the accessors read after `modClu`. -/
@[simp] theorem modClu_reads (s : State) (c : Nat) (f : ClSt → ClSt) :
    (∀ j, (s.modClu c f).thOf j = s.thOf j) ∧ (∀ j, (s.modClu c f).core j = s.core j) ∧ (∀ j, (s.modClu c f).ctx j = s.ctx j) ∧
    (∀ j, (s.modClu c f).part j = s.part j) ∧ (∀ j, (s.modClu c f).fn j = s.fn j) ∧ (∀ j, (s.modClu c f).q j = s.q j) ∧
    (∀ j, (s.modClu c f).str j = s.str j) ∧ (∀ j, (s.modClu c f).byte j = s.byte j) ∧ (∀ j, (s.modClu c f).grp j = s.grp j) ∧
    (∀ j, (s.modClu c f).lau j = s.lau j) ∧ (∀ j, (s.modClu c f).mgrReg j = s.mgrReg j) ∧ (s.modClu c f).th = s.th :=
  ⟨fun _ => rfl, fun _ => rfl, fun _ => rfl, fun _ => rfl, fun _ => rfl, fun _ => rfl, fun _ => rfl, fun _ => rfl, fun _ => rfl, fun _ => rfl, fun _ => rfl, rfl⟩

/-- What the accessors read after `modGrp`. -/
@[simp] theorem modGrp_reads (s : State) (c : Nat) (f : Group → Group) :
    (∀ j, (s.modGrp c f).thOf j = s.thOf j) ∧ (∀ j, (s.modGrp c f).core j = s.core j) ∧ (∀ j, (s.modGrp c f).ctx j = s.ctx j) ∧
    (∀ j, (s.modGrp c f).part j = s.part j) ∧ (∀ j, (s.modGrp c f).fn j = s.fn j) ∧ (∀ j, (s.modGrp c f).q j = s.q j) ∧
    (∀ j, (s.modGrp c f).str j = s.str j) ∧ (∀ j, (s.modGrp c f).clu j = s.clu j) ∧ (∀ j, (s.modGrp c f).byte j = s.byte j) ∧
    (∀ j, (s.modGrp c f).lau j = s.lau j) ∧ (∀ j, (s.modGrp c f).mgrReg j = s.mgrReg j) ∧ (s.modGrp c f).th = s.th :=
  ⟨fun _ => rfl, fun _ => rfl, fun _ => rfl, fun _ => rfl, fun _ => rfl, fun _ => rfl, fun _ => rfl, fun _ => rfl, fun _ => rfl, fun _ => rfl, fun _ => rfl, rfl⟩

/-- What the accessors read after `modLau`. -/
@[simp] theorem modLau_reads (s : State) (c : Nat) (f : Launch → Launch) :
    (∀ j, (s.modLau c f).thOf j = s.thOf j) ∧ (∀ j, (s.modLau c f).core j = s.core j) ∧ (∀ j, (s.modLau c f).ctx j = s.ctx j) ∧
    (∀ j, (s.modLau c f).part j = s.part j) ∧ (∀ j, (s.modLau c f).fn j = s.fn j) ∧ (∀ j, (s.modLau c f).q j = s.q j) ∧
    (∀ j, (s.modLau c f).str j = s.str j) ∧ (∀ j, (s.modLau c f).clu j = s.clu j) ∧ (∀ j, (s.modLau c f).byte j = s.byte j) ∧
    (∀ j, (s.modLau c f).grp j = s.grp j) ∧ (∀ j, (s.modLau c f).mgrReg j = s.mgrReg j) ∧ (s.modLau c f).th = s.th :=
  ⟨fun _ => rfl, fun _ => rfl, fun _ => rfl, fun _ => rfl, fun _ => rfl, fun _ => rfl, fun _ => rfl, fun _ => rfl, fun _ => rfl, fun _ => rfl, fun _ => rfl, rfl⟩

/-- What the accessors read after `later`. -/
@[simp] theorem later_reads (s : State) (i : Instr) :
    (∀ j, (s.later i).thOf j = s.thOf j) ∧ (∀ j, (s.later i).core j = s.core j) ∧ (∀ j, (s.later i).ctx j = s.ctx j) ∧
    (∀ j, (s.later i).part j = s.part j) ∧ (∀ j, (s.later i).fn j = s.fn j) ∧ (∀ j, (s.later i).q j = s.q j) ∧
    (∀ j, (s.later i).str j = s.str j) ∧ (∀ j, (s.later i).clu j = s.clu j) ∧ (∀ j, (s.later i).byte j = s.byte j) ∧
    (∀ j, (s.later i).grp j = s.grp j) ∧ (∀ j, (s.later i).lau j = s.lau j) ∧ (∀ j, (s.later i).mgrReg j = s.mgrReg j) ∧
    (s.later i).th = s.th :=
  ⟨fun _ => rfl, fun _ => rfl, fun _ => rfl, fun _ => rfl, fun _ => rfl, fun _ => rfl, fun _ => rfl, fun _ => rfl, fun _ => rfl, fun _ => rfl, fun _ => rfl, fun _ => rfl, rfl⟩

/-- What the accessors read after `soon`. -/
@[simp] theorem soon_reads (s : State) (i : Instr) :
    (∀ j, (s.soon i).thOf j = s.thOf j) ∧ (∀ j, (s.soon i).core j = s.core j) ∧ (∀ j, (s.soon i).ctx j = s.ctx j) ∧
    (∀ j, (s.soon i).part j = s.part j) ∧ (∀ j, (s.soon i).fn j = s.fn j) ∧ (∀ j, (s.soon i).q j = s.q j) ∧
    (∀ j, (s.soon i).str j = s.str j) ∧ (∀ j, (s.soon i).clu j = s.clu j) ∧ (∀ j, (s.soon i).byte j = s.byte j) ∧
    (∀ j, (s.soon i).grp j = s.grp j) ∧ (∀ j, (s.soon i).lau j = s.lau j) ∧ (∀ j, (s.soon i).mgrReg j = s.mgrReg j) ∧
    (s.soon i).th = s.th :=
  ⟨fun _ => rfl, fun _ => rfl, fun _ => rfl, fun _ => rfl, fun _ => rfl, fun _ => rfl, fun _ => rfl, fun _ => rfl, fun _ => rfl, fun _ => rfl, fun _ => rfl, fun _ => rfl, rfl⟩

/-- What the accessors read after `send`. -/
@[simp] theorem send_reads (s : State) (m : FabMsg) :
    (∀ j, (s.send m).thOf j = s.thOf j) ∧ (∀ j, (s.send m).core j = s.core j) ∧ (∀ j, (s.send m).ctx j = s.ctx j) ∧
    (∀ j, (s.send m).part j = s.part j) ∧ (∀ j, (s.send m).fn j = s.fn j) ∧ (∀ j, (s.send m).q j = s.q j) ∧
    (∀ j, (s.send m).str j = s.str j) ∧ (∀ j, (s.send m).clu j = s.clu j) ∧ (∀ j, (s.send m).byte j = s.byte j) ∧
    (∀ j, (s.send m).grp j = s.grp j) ∧ (∀ j, (s.send m).lau j = s.lau j) ∧ (∀ j, (s.send m).mgrReg j = s.mgrReg j) ∧
    (s.send m).th = s.th :=
  ⟨fun _ => rfl, fun _ => rfl, fun _ => rfl, fun _ => rfl, fun _ => rfl, fun _ => rfl, fun _ => rfl, fun _ => rfl, fun _ => rfl, fun _ => rfl, fun _ => rfl, fun _ => rfl, rfl⟩

/-- What the accessors read after `storeBytes`. -/
@[simp] theorem storeBytes_reads (s : State) (w : Option ThreadKey) (a : Nat) (bs : List Byte) :
    (∀ j, (s.storeBytes w a bs).core j = s.core j) ∧ (∀ j, (s.storeBytes w a bs).ctx j = s.ctx j) ∧
    (∀ j, (s.storeBytes w a bs).part j = s.part j) ∧ (∀ j, (s.storeBytes w a bs).fn j = s.fn j) ∧
    (∀ j, (s.storeBytes w a bs).q j = s.q j) ∧ (∀ j, (s.storeBytes w a bs).str j = s.str j) ∧
    (∀ j, (s.storeBytes w a bs).clu j = s.clu j) ∧ (∀ j, (s.storeBytes w a bs).grp j = s.grp j) ∧
    (∀ j, (s.storeBytes w a bs).lau j = s.lau j) ∧ (∀ j, (s.storeBytes w a bs).mgrReg j = s.mgrReg j) :=
  ⟨fun _ => rfl, fun _ => rfl, fun _ => rfl, fun _ => rfl, fun _ => rfl, fun _ => rfl, fun _ => rfl, fun _ => rfl, fun _ => rfl, fun _ => rfl⟩

end Sys2Proof.Machine
end

