-- ==== Sys2Proof/Laws/Ops.lean ====
section
/-! SUPPORT. What each shared operation does: a write of a scalar, going on, a jump, a wait, a trap, a release at a gate. -/

namespace Sys2Proof.Machine

/-- A change of the current thread touches nothing else. -/
theorem onlyThread_mod (s : State) (f : Thread → Thread) : OnlyThread s.cur s (s.mod f) :=
  ⟨rfl, fun j h => by simp [h]⟩

/-- `OnlyThread` composes. -/
theorem OnlyThread.trans {k : ThreadKey} {s t u : State} (h : OnlyThread k s t) (g : OnlyThread k t u) : OnlyThread k s u := by
  refine ⟨?_, fun j hj => (g.2 j hj).trans (h.2 j hj)⟩
  rw [g.1, h.1]

@[simp] theorem mod_cur (s : State) (f : Thread → Thread) : (s.mod f).cur = s.cur := rfl
@[simp] theorem mod_lane (s : State) (f : Thread → Thread) : (s.mod f).lane = s.lane := rfl

/-- Two changes of the current thread are one. -/
theorem mod_mod (s : State) (f g : Thread → Thread) : (s.mod f).mod g = s.mod (g ∘ f) := by
  simp only [State.mod, State.modTh, State.setTh, Tab.put_put, State.thOf, Tab.get_put, if_true, Function.comp]

/-- Advancing the control front. -/
theorem advance_front {s : State} (h : s.lane = none) :
    s.advance = s.mod fun t => { t.seqTo t.fu.nextAddr with hold := .none } := by
  simp only [State.advance]; rw [h]

/-- Jumping the control front. -/
theorem jump_front {s : State} (h : s.lane = none) (pc : W64) :
    s.jump pc = s.mod fun t => { t.jumpTo pc with hold := .none } := by
  simp only [State.jump]; rw [h]

/-- The front goes on, and nothing else changes. -/
theorem advance_passes {s : State} (h : s.lane = none) : FrontPasses s s.advance := by
  rw [advance_front h]
  exact ⟨onlyThread_mod _ _, by rw [th_mod]; rfl, by rw [th_mod]; rfl⟩

/-- The front goes on at a target, and nothing else changes. -/
theorem jump_jumps {s : State} (h : s.lane = none) (pc : W64) : FrontJumps pc s (s.jump pc) := by
  rw [jump_front h]
  exact ⟨onlyThread_mod _ _, by rw [th_mod]; rfl, by rw [th_mod]; exact ⟨rfl, rfl⟩⟩

/-- A scalar read after a scalar write, by a control front (R43, R44). -/
theorem getScalar_setScalar (t : Thread) (d n : Nat) (x : W64) :
    getScalar (setScalar t none d x) none n = if n = d ∧ n ≠ 0 then x else getScalar t none n := by
  unfold getScalar setScalar
  by_cases hd : d = 0
  · simp only [hd, if_true]; rw [if_neg (c := n = 0 ∧ n ≠ 0) (by omega)]
  · by_cases hn : n = 0
    · simp [hn]
    · simp only [hd, hn, if_false, ne_eq, not_false_eq_true, and_true]
      cases hi : t.ui.inn <;> simp only [Bool.false_and, Bool.true_and, Bool.false_eq_true, if_false, decide_eq_true_eq]
      · simp only [hi, Bool.false_and, Bool.false_eq_true, if_false, Tab.get_put]
      · by_cases h1 : 24 ≤ d <;> by_cases h2 : 24 ≤ n <;> simp [hi, h1, h2] <;> omega

/-- The set of scalars that a front's write does not touch (R44). -/
theorem setScalar_other (t : Thread) (d : Nat) (x : W64) :
    if t.ui.inn ∧ 24 ≤ d then (setScalar t none d x).sregs = t.sregs else (setScalar t none d x).shadow = t.shadow := by
  unfold setScalar
  by_cases hd : d = 0
  · simp [hd]
  · by_cases h : t.ui.inn = true ∧ 24 ≤ d
    · simp [hd, h.1, h.2]
    · rw [if_neg h, if_neg hd]; simp only; split
      · rename_i h'; simp only [Bool.and_eq_true, decide_eq_true_eq] at h'; exact absurd h' h
      · rfl

/-- A front's write touches scalars alone. -/
theorem setScalar_frame (t : Thread) (d : Nat) (x : W64) :
    setScalar t none d x = { t with sregs := (setScalar t none d x).sregs, shadow := (setScalar t none d x).shadow } := by
  unfold setScalar; split <;> (try simp only) <;> (try split) <;> rfl

/-- A write of a scalar by the front, which then goes on: the whole effect. -/
theorem setS_advance {s : State} (h : s.lane = none) (d : SReg) (x : W64) : FrontWrites d x s ((s.setS d x).advance) := by
  have hl : (s.setS d x).lane = none := h
  rw [advance_front hl, State.setS, mod_mod, h]
  have hth : (s.mod ((fun t => { t.seqTo t.fu.nextAddr with hold := .none }) ∘ fun t => setScalar t none d.toNat x)).th =
      (fun t => { t.seqTo t.fu.nextAddr with hold := .none }) (setScalar s.th none d.toNat x) := th_mod _ _
  have hfr := setScalar_frame s.th d.toNat x
  refine ⟨onlyThread_mod _ _, ?_, ?_, ?_, ?_⟩
  · rw [hth, OnlyScalarsAndPc, hfr]; rfl
  · rw [hth, GoesOn, hfr]; rfl
  · intro n
    have : ∀ t u : Thread, t.sregs = u.sregs → t.shadow = u.shadow → t.ui = u.ui → getScalar t none n.toNat = getScalar u none n.toNat := by
      intro t u h1 h2 h3; simp only [getScalar, h1, h2, h3]
    simp only [State.getS, hth, mod_lane, h]
    refine (this _ (setScalar s.th none d.toNat x) rfl rfl rfl).trans ((getScalar_setScalar _ _ _ _).trans ?_)
    have e : n.toNat = d.toNat ∧ n.toNat ≠ 0 ↔ n = d ∧ n ≠ 0 :=
      and_congr ⟨fun h => BitVec.eq_of_toNat_eq h, fun h => by rw [h]⟩
        (not_congr ⟨fun e => BitVec.eq_of_toNat_eq (by simpa using e), fun e => by rw [e]; rfl⟩)
    simp only [e]
  · rw [hth]; exact setScalar_other s.th d.toNat x

/-- Waiting changes the hold alone. -/
theorem holdOn_front {s : State} (h : s.lane = none) (x : Hold) : s.holdOn x = s.mod fun t => { t with hold := x } := by
  simp [State.holdOn, h]

/-- A trap of the front's instruction, outside a handler that has not returned, when no routed instruction that has started is incomplete:
R114 steps 1 to 6, and nothing else. -/
theorem trap_front {s : State} (h : s.lane = none) (hs : s.th.canStop = true) (hn : ¬(s.th.sup = true ∧ s.th.trap.inTrap = true)) (cause detail : Nat) (va : W64) :
    FrontTraps cause detail va s (s.trap cause detail va) := by
  have hd : s.trapDesc cause detail va = { cause, detail, va, fu := s.th.fu, resume := s.th.fu.addr } := by
    simp only [State.trapDesc]; rw [h]
  have hc : ((s.thOf s.cur).sup && (s.thOf s.cur).trap.inTrap) = false := by
    rw [Bool.and_eq_false_iff]; rcases Decidable.not_and_iff_or_not.1 hn with h | h
    · exact .inl (by simpa [State.th] using h)
    · exact .inr (by simpa [State.th] using h)
  have ht : s.trap cause detail va = s.mod (enterTrap · { cause, detail, va, fu := s.th.fu, resume := s.th.fu.addr }) := by
    simp only [State.trap, State.takeTrap, hs, hd, hc, Bool.false_eq_true, if_false, if_true]; rfl
  rw [ht]
  refine ⟨onlyThread_mod _ _, ?_⟩
  rw [th_mod]
  refine ⟨?_, rfl, rfl, rfl, rfl, rfl, rfl, rfl, rfl, rfl, rfl, rfl, rfl, rfl, rfl, rfl, rfl⟩
  simp only [enterTrap, TrapDesc.info, trapInfo]; congr 1

/-! ## The gate (R325) -/

/-- A release at a gate changes a core's bucket and a partition's GATEU alone. -/
theorem passGate_frame (s : State) (c part owner charge : Nat) :
    ∃ x y, s.passGate c part owner charge = { s with cores := x, parts := y } := by
  unfold State.passGate
  split
  · exact ⟨s.cores, s.parts, rfl⟩
  · exact ⟨_, _, rfl⟩

/-- The control front's scalar instructions charge no gate. -/
theorem chargeLane_front {s : State} (h : s.lane = none) (i : Instr) (t : State) : s.chargeLane i t = t := by
  simp [State.chargeLane, h]

/-- A lane thread's charge, if any, is a release at its core's gate (R323). -/
theorem chargeLane_frame (s : State) (i : Instr) (t : State) : ∃ x y, s.chargeLane i t = { t with cores := x, parts := y } := by
  unfold State.chargeLane
  split
  · exact ⟨t.cores, t.parts, rfl⟩
  · split
    · exact passGate_frame ..
    · exact ⟨t.cores, t.parts, rfl⟩

end Sys2Proof.Machine
end

