-- ==== Sys2Proof/Laws/Access.lean ====
section
/-! SUPPORT. What an access asks of the arbiters changes nothing a program can read: the frame of requests, of a near-cache touch
and of a performed access. -/

namespace Sys2Proof.Machine

/-- Nothing but arbiters, budgets and near-cache lines differs. -/
def AsksOnly (s t : State) : Prop := ∃ x y z, t = { s with arbs := x, budgets := y, nearLines := z }

theorem AsksOnly.refl (s : State) : AsksOnly s s := ⟨s.arbs, s.budgets, s.nearLines, rfl⟩

theorem AsksOnly.trans {s t u : State} (h : AsksOnly s t) (g : AsksOnly t u) : AsksOnly s u := by
  obtain ⟨x, y, z, rfl⟩ := h
  obtain ⟨x', y', z', rfl⟩ := g
  exact ⟨x', y', z', rfl⟩

/-- What changes arbiters alone asks alone. -/
theorem asksOnly_arbs (s : State) (t : Tab Arb) : AsksOnly s { s with arbs := t } := ⟨t, s.budgets, s.nearLines, rfl⟩

theorem asksOnly_request (s : State) (n key beats : Nat) : AsksOnly s (s.request n key beats) := asksOnly_arbs _ _
theorem asksOnly_message (s : State) (from_ dest key n : Nat) : AsksOnly s (s.message from_ dest key n) := asksOnly_arbs _ _
theorem asksOnly_crosses (s : State) (unit key pkg : Nat) (inbound : Bool) (n : Nat) : AsksOnly s (s.crosses unit key pkg inbound n) :=
  asksOnly_arbs _ _
theorem asksOnly_hostRequest (s : State) (link : Nat) (host : Bool) (key n : Nat) (wr : Bool) :
    AsksOnly s (s.hostRequest link host key n wr) := ⟨_, _, s.nearLines, rfl⟩

theorem asksOnly_foldl {α : Type} (f : State → α → State) (hf : ∀ s x, AsksOnly s (f s x)) (l : List α) (s : State) :
    AsksOnly s (l.foldl f s) := by
  induction l generalizing s with
  | nil => exact .refl s
  | cons x l ih => exact (hf s x).trans (ih _)

theorem asksOnly_accessReqs (s : State) (unit key flat n : Nat) (wr : Bool) (src : Option ThreadKey) :
    AsksOnly s (s.accessReqs unit key flat n wr src) := by
  unfold State.accessReqs
  simp only
  split
  · exact (asksOnly_arbs _ _).trans (asksOnly_hostRequest _ _ _ _ _ _)
  · exact asksOnly_arbs _ _

theorem asksOnly_elemReqs (s : State) (unit key n : Nat) (wr : Bool) (src : Option ThreadKey) (flats : List Nat) :
    AsksOnly s (s.elemReqs unit key n wr src flats) :=
  (asksOnly_arbs _ _).trans (asksOnly_foldl _ (fun _ _ => asksOnly_hostRequest _ _ _ _ _ _) _ _)

theorem asksOnly_nearTouch (s : State) (flat leaf : Nat) : AsksOnly s (s.nearTouch flat leaf) := by
  unfold State.nearTouch
  split
  · exact ⟨s.arbs, s.budgets, _, rfl⟩
  · exact .refl s

theorem asksOnly_nearReach (s : State) (p addr n : Nat) : AsksOnly s (s.nearReach p addr n) :=
  asksOnly_foldl _ (fun s l => asksOnly_nearTouch s (64 * l) (2 ^ 7)) _ s

theorem asksOnly_hostReqs (s : State) (func addr n : Nat) (wr : Bool) : AsksOnly s (s.hostReqs func addr n wr) :=
  ((asksOnly_hostRequest ..).trans (asksOnly_accessReqs ..)).trans (asksOnly_nearReach ..)

/-- Forgetting a party's stall changes that count of the thread alone. -/
theorem clearStall_frame (s : State) (k : ThreadKey) (who : Nat) :
    ∃ x, s.clearStall k who = { s with threads := x }
      ∧ ∀ j, (s.clearStall k who).thOf j = if j = k then (s.thOf j).endStall who else s.thOf j := by
  unfold State.clearStall
  split
  · rename_i h
    refine ⟨s.threads, rfl, fun j => ?_⟩
    split
    · subst_vars
      have e : (s.thOf j).stall = [] := by simpa using h
      have : (s.thOf j).endStall who = { s.thOf j with stall := (s.thOf j).stall } := by
        simp only [Thread.endStall, Tab.del, e, List.filter_nil]
      exact this.symm
    · rfl
  · exact ⟨_, rfl, fun j => by simp only [thOf_modTh]; split <;> simp_all⟩

/-- A performed access asks its arbiters and ends its party's stall; memory and every other thread are as before. -/
theorem touched_frame (s : State) (k : ThreadKey) (who flat n leaf : Nat) (wr : Bool) :
    ∃ w x y z, s.touched k who flat n leaf wr = { s with threads := w, arbs := x, budgets := y, nearLines := z }
      ∧ ∀ j, (s.touched k who flat n leaf wr).thOf j = if j = k then (s.thOf j).endStall who else s.thOf j := by
  unfold State.touched
  obtain ⟨x, y, z, h⟩ := (asksOnly_accessReqs s (unitOf k) (keyOf (s.thOf k).part (s.thOf k).owner) flat n wr
    (if who == 1 then some k else none)).trans (asksOnly_nearTouch _ flat leaf)
  simp only [h]
  obtain ⟨w, h1, h2⟩ := clearStall_frame { s with arbs := x, budgets := y, nearLines := z } k who
  refine ⟨w, x, y, z, h1, fun j => ?_⟩
  rw [h2 j]; rfl

/-- A watch that a write meets is marked, or ends its wait; no other thread differs. -/
theorem mayWake_watchMark (w : Option ThreadKey) (a n : Nat) (j : ThreadKey) (t : Thread) : MayWake t (watchMark w a n j t) := by
  unfold watchMark
  split
  · exact .inl rfl
  · split
    · exact .inl rfl
    · split
      · cases h : t.hold with
        | wait next => exact .inr (.inr (by simp [Thread.endWait, h, Hold.waits]))
        | _ => exact .inr (.inl (by simp [Thread.endWait, h, Hold.waits]))
      · exact .inl rfl

/-- A store marks the watches it meets. -/
theorem thOf_storeBytes (s : State) (w : Option ThreadKey) (a : Nat) (bs : List Byte) (j : ThreadKey) :
    MayWake (s.thOf j) ((s.storeBytes w a bs).thOf j) := by
  simp only [State.thOf, State.storeBytes]
  rcases Tab.get_mapV ({} : Thread) s.threads (watchMark w a bs.length) j with h | ⟨h1, h2⟩
  · rw [h]; exact mayWake_watchMark _ _ _ _ _
  · rw [h2, h1]; exact .inl rfl

/-- A store by the thread itself leaves the thread as it is. -/
theorem thOf_storeBytes_own (s : State) (k : ThreadKey) (a : Nat) (bs : List Byte) :
    (s.storeBytes (some k) a bs).thOf k = s.thOf k := by
  simp only [State.thOf, State.storeBytes]
  rcases Tab.get_mapV ({} : Thread) s.threads (watchMark (some k) a bs.length) k with h | ⟨h1, h2⟩
  · rw [h]; unfold watchMark; split <;> simp
  · rw [h2, h1]

end Sys2Proof.Machine
end

