-- ==== Sys2Proof/Tests/Slice0.lean ====
section
/-! SUPPORT. Tests: words of the encodings, refusals of ill-formed terms, small runs of one step, and for each statement concrete states
that meet its hypotheses. -/

open Sys2Proof Sys2Proof.Machine

namespace Sys2Proof.Tests

set_option Elab.async false

/-! ## Helpers -/

/-- Whether the words, numbered as the opcode table numbers them, decode to the instructions. -/
def readsAs (l : List (Nat × Instr)) : Bool := l.all fun p => decodeTableWord 32 p.1 == some p.2

/-- Whether an instruction answers a next state that passes a test. -/
def runs (i : Instr) (s : State) (f : State → Bool) : Bool :=
  match exec i s with
  | .next t => f t
  | _ => false

/-- A context that runs on partition 1. -/
def ctx5 : CtxSt := { st := .running, part := 1, owner := 2, weight := 1, quant := 100, tvec := 0x8000 }
/-- Partition 1: function 1, cluster 0, slice 0, contexts and queues 0 to 15. -/
def part1 : PartSt :=
  { up := true, func := 1, clusters := [0], slices := [0], ctxBase := 0, ctxCount := 16, qBase := 0, qCount := 16, saveMax := 2048 }
/-- A launch of one group with one lane group and 16 KiB of scratchpad. -/
def launch1 : Launch :=
  { id := 7, q := 3, seq := 0, ctx := 5, part := 1
    kern := { entry := 0x1000, marks := [1, 0, 0, 0], lg := 1, bks := false, sup := false, scrb := 4, palm := 0, gc := 0, cb := 0
              ltag := .n64, tags := [] }
    trip := [1, 0, 0, 0], args := 0, crec := 0, irq := false, n := 1, span := 1, placed := 1, retired := 0, seqw := 64, status := 0 }
/-- Its group, loaded on thread 0 of core 0. -/
def group1 : Group :=
  { id := 1, launch := 7, g := 0, st := .loaded, ctx := 5, part := 1, lgs := [1], mems := [(0, 0)], scrb := 4, scrOff := 0, palm := 1
    records := [0], quad := false, save := none, poisoned := false, stopAfter := false }
/-- One member with one lane group, and VL 4. -/
def vec0 : VecState :=
  { vl := 4, vlgrant := 4, maxBytes := 4096, maxNw := 8
    members := [{ core := 0, tid := 0, nw := 8, grant := 4, share := 1, attached := true, mark := none, lost := false }] }
/-- A control thread of the group at user level, its fetch unit at 0x1000. -/
def thr0 : Thread :=
  { sregs := [(5, 12), (6, 5), (7, 0xFFFFFFFFFFFFFFF9), (8, 0xF000000000000010), (9, 3), (10, 0x8000000000000000)], pc := 0x1000
    fu := { addr := 0x1000 }, v := vec0, trap := { tvec := 0x8000 }, group := some 1, ctx := 5, owner := 2, part := 1, nmem := 1 }
/-- The package with that one thread. -/
def st0 (f : Thread → Thread := id) : State :=
  { State.reset with
    threads := [(0, f thr0)], groups := [group1], launches := [launch1], ctxs := [(5, ctx5)], parts := [(1, part1)]
    cores := [(0, { lg := [1, 0, 0, 0], last := some (1, 2, 5), clean := false })], lockstep := true }
/-- As a lane thread of virtual processor 1 runs. -/
def lane1 : State :=
  { st0 (fun t => { t with fetch := some { target := 0x2000, block := false, stop := 0, k := 0, vl := 4, tags := List.replicate 32 .n64
                                           dist := t.v.members, started := true, lanes := [(1, { pc := 0x1000, blkEnd := none, inVec := false, jumped := true })] } })
    with lane := some 1 }

/-! ## Scalar instructions -/

/-- R93's example: if s5 is 0, sel copies b; here s5 is 12, so a. Division rounds toward zero, and remainders take a's sign. -/
theorem test_integers : runs (.sel 5 6 7) st0 (fun t => t.getS 5 == 5) = true ∧ runs (.div 1 7 9) st0 (fun t => t.getS 1 == -2) = true
    ∧ runs (.rem 1 7 9) st0 (fun t => t.getS 1 == -1) = true ∧ runs (.div 1 6 0) st0 (fun t => t.getS 1 == -1) = true
    ∧ runs (.rem 1 6 0) st0 (fun t => t.getS 1 == 5) = true ∧ runs (.sra 1 10 9) st0 (fun t => t.getS 1 == 0xF000000000000000) = true
    ∧ runs (.clz 1 6) st0 (fun t => t.getS 1 == 61) = true ∧ runs (.ctz 1 0) st0 (fun t => t.getS 1 == 64) = true := by decide +kernel

/-- R94's example: lih then ori make 0x1234_5678. -/
theorem test_lih_ori : runs (.lih 8 0x1234) st0 (fun t => t.getS 8 == 0x12340000
    && runs (.ori 8 8 0x5678) t (fun u => u.getS 8 == 0x12345678)) = true := by decide +kernel

theorem witness_integers : Claim.register st0.getS (.add 1 5 6) = some (1, 17) ∧ Claim.immediate st0.getS (.addi 1 5 4) = some (1, 16)
    ∧ st0.lane = none ∧ lane1.lane = some 1 ∧ Claim.register lane1.getS (.add 0 5 6) ≠ none := by decide +kernel

/-- R95, R190: a doubleword stored in the local scratchpad is read back; a byte of it is extended with its sign. -/
theorem test_store_load : runs (.sd 7 8 0) st0 (fun t => runs (.ld 1 8 0) t (fun u => u.getS 1 == 0xFFFFFFFFFFFFFFF9)
    && runs (.lb 1 8 0) t (fun u => u.getS 1 == -7) && runs (.lbu 1 8 0) t (fun u => u.getS 1 == 0xF9)) = true := by decide +kernel

/-- R97: amoadd.w wraps at 32 bits and returns the old word. -/
theorem test_amoadd : runs (.sd 7 8 0) st0 (fun t => runs (.amoadd ⟨1, 8, 9, false, 0, 0⟩) t (fun u =>
    u.getS 1 == -7 && runs (.lwu 1 8 0) u (fun w => w.getS 1 == 0xFFFFFFFC))) = true := by decide +kernel

theorem witness_accesses : Claim.load (.ld 1 8 8) = some (8, false, 1, 8, 8) ∧ Claim.store (.sd 7 8 8) = some (8, 7, 8, 8)
    ∧ (Claim.address st0 8 8).toNat % 8 = 0 ∧ st0.th.acquiring = false ∧ st0.th.descOpen = false ∧ st0.th.pending = [] ∧ st0.th.pipe = []
    ∧ Claim.atomic (.amoadd ⟨1, 8, 9, true, 0, 0⟩) = some (.add, ⟨1, 8, 9, true, 0, 0⟩) ∧ (st0.getS 8).toNat % 8 = 0
    ∧ (Claim.address st0 8 4).toNat % 8 ≠ 0 := by decide +kernel

theorem witness_reaches : Claim.ReachesAt st0 .read (Claim.address st0 8 8) 8 (.read none) (2 ^ 62 + 0x18) 0
    ∧ Claim.ReachesAt st0 .write (Claim.address st0 8 8) 8 (.write []) (2 ^ 62 + 0x18) 0
    ∧ Claim.ReachesAt st0 .atomic (st0.getS 8) 8 (.atomic 0 3 0) (2 ^ 62 + 0x10) 0 := ⟨rfl, rfl, rfl⟩

/-- R96: with scalar accesses performed by events, a store stands pending, then is performed. -/
theorem test_pending_store : runs (.sd 7 8 0) { st0 with lockstep := false } (fun t => t.byte (2 ^ 62 + 16) == 0
    && runs (.scalarAccessPerformed 0) t (fun u => u.byte (2 ^ 62 + 16) == 0xF9 && u.th.pending.isEmpty)) = true := by decide +kernel

/-- R99, R100, R101: branches go from the address of their own fetch unit; bnone m1 is taken when every tested bit is clear. -/
theorem test_branches : runs (.beq 5 5 (-4)) st0 (fun t => t.th.pc == 0xFF0) = true ∧ runs (.beq 5 6 4) st0 (fun t => t.th.pc == 0x1004) = true
    ∧ runs (.jal 3) st0 (fun t => t.th.pc == 0x100C && t.getS 1 == 0x1004) = true ∧ runs (.bnone 1 5) st0 (fun t => t.th.pc == 0x1014) = true
    ∧ runs (.ball 0 5) st0 (fun t => t.th.pc == 0x1014) = true ∧ runs (.jalr 1 6) st0 (fun t => t.th.pc == 0x8000 && t.th.trap.va == 5) = true := by
  decide +kernel

theorem witness_branches : Claim.branch st0.getS (.beq 5 5 (-4)) = some (true, -4) ∧ Claim.branch st0.getS (.beq 5 6 4) = some (false, 4)
    ∧ (st0.getS 0).toNat % 4 = 0 ∧ (st0.getS 6).toNat % 4 ≠ 0 ∧ st0.th.sup = false
    ∧ (st0.th.pipe.any fun e => e.writesMask 1) = false := by decide +kernel

/-- One active loop with one iteration left, its body from 0x1000 to 0x1004. -/
def looped (i : Nat) : State :=
  st0 fun t => { t with loops := [{ b := 0x1000, e := 0x1004, t := 3, s := 2, n := 4, l := 1, i }] }

/-- R102, R103: a loop of two iterations in three stages has N = 4; its end goes round, and the last end falls out. -/
theorem test_loops : runs (.loop 9 1 0 6) st0 (fun t => t.th.loops == [{ b := 0x1004, e := 0x101C, t := 3, s := 2, n := 4, l := 0, i := 0 }]) = true
    ∧ runs (.loop 0 1 0 6) st0 (fun t => t.th.pc == 0x101C && t.th.loops.isEmpty) = true
    ∧ runs (.loop 9 0 1 0) (looped 0) (fun t => t.th.trap.info == 0x0100 + BitVec.ofNat 64 cCTLSTATE) = true
    ∧ runs (.add 0 0 0) (looped 0) (fun t => t.th.pc == 0x1000) = true
    ∧ runs (.add 0 0 0) (looped 3) (fun t => t.th.pc == 0x1004 && t.th.loops.isEmpty) = true := by decide +kernel

theorem witness_loops : (looped 3).th.fu.nextAddr = 0x1004 ∧ (looped 3).lane = none ∧ 4 ≤ 3 + 1 ∧ (looped 0).th.loops ≠ []
    ∧ (Claim.target (looped 0) 0).toNat < 0x1004 ∧ 0x1000 ≤ (Claim.target (looped 0) 0).toNat
    ∧ 0x1004 ≤ (Claim.target (looped 0) 4).toNat ∧ (st0.th.loops = [] ∧ (st0.getS 9).toNat ≠ 0) := by decide +kernel

/-- R107 to R109: vthr hands its fetch over to a lane thread for each of the four virtual processors; vjoin then holds. -/
theorem test_vthr : runs (.vthr 0 64) st0 (fun t => t.th.pc == 0x1004 && (t.th.fetch.map fun f => f.lanes.length) == some 4
    && runs .vjoin t (fun u => u.th.pc == 0x1004 && u.th.hold == .join)) = true ∧ runs .vjoin st0 (fun t => t.th.pc == 0x1004) = true := by
  decide +kernel

/-- A page table that maps virtual page 0 onto physical page 0 through one 1 GiB leaf, and a block header at 0x1100. -/
def paged (s : State) : State :=
  { s with ctxs := [(5, { ctx5 with ptroot := 0x10000 })]
           mem := memPuts (memPuts (memPuts (memPuts [] 0x10000 (leBytes 8 0x11001)) 0x11000 (leBytes 8 0x12001)) 0x12000
             (leBytes 8 0x1F)) 0x1100 (leBytes 4 0xF4400000) }

/-- R108: vfetch hands over the block whose header stands at its target; where no header stands, ILLOP 5. -/
theorem test_vfetch : runs (.vfetch 0 64) (paged st0) (fun t => (t.th.fetch.map fun f => (f.block, f.stop, f.lanes.length)) == some (true, 0x1110, 4)) = true
    ∧ runs (.vfetch 0 65) (paged st0) (fun t => t.th.trap.info == 0x0500 + BitVec.ofNat 64 cILLOP) = true := by decide +kernel

theorem witness_vfetch : Claim.ReachesAt (paged st0) .fetch (Claim.target (paged st0) 64) 4 (.read none) 0x1100 0x1F
    ∧ headerLen (BitVec.ofNat 32 ((paged st0).load 0x1100 4)) = some 3
    ∧ Claim.ReachesAt (paged st0) .fetch (Claim.target (paged st0) 65) 4 (.read none) 0x1104 0x1F
    ∧ headerLen (BitVec.ofNat 32 ((paged st0).load 0x1104 4)) = none ∧ st0.th.fetch = none ∧ (paged st0).lane = none :=
  ⟨rfl, rfl, rfl, rfl, rfl, rfl⟩

theorem witness_lanes : lane1.lane = some 1 ∧ lane1.th.fetch.isSome = true ∧ ((lane1.th.fetch.bind (laneOf · 1)).isSome) = true := by decide +kernel

/-! ## State registers -/

/-- The thread at supervisor level. -/
def sup0 (f : Thread → Thread := id) : State := st0 fun t => f { t with sup := true }
/-- A finished vector instruction's entry, or one that waits: any entry in the queues. -/
def ent0 : Entry := { fu := { addr := 0x1000 }, op := .bin .add }

/-- R49, R51: each register, written, reads as its field map says; the values stand at the edges of the reserved ranges. -/
theorem test_registers : ([(0x003, 0x1FFFFFFFF), (0x010, 0x17F05), (0x010, 5), (0x011, 0x8), (0x011, 0x44), (0x020, 0xFFFFFFFF), (0x021, 0x8000000000000000),
    (0x021, 1), (0x030, 1), (0x030, 7), (0x040, 0x1003), (0x041, 0x1003), (0x044, 0x1000000000000000), (0x045, 0), (0x060, 0x19), (0x400, 0x1001),
    (0x401, 0x1007), (0x403, 5), (0x420, 0x1E), (0x430, 0x1FF), (0x431, 0x1FFFFFF), (0x440, 2), (0x450, 0x100), (0x000, 9), (0x402, 9)] :
    List (BitVec 12 × W64)).all (fun p =>
      let s := sup0 fun t => { t with sregs := [(5, p.2)] }
      let old := Claim.special s p.1.toNat
      (Claim.written s p.1.toNat (old.getD 0) p.2).isSome
        && runs (.srw p.1 5) s (fun t => Claim.special t p.1.toNat == Claim.written s p.1.toNat (old.getD 0) p.2
          && runs (.srr 9 p.1) t (fun u => some (u.getS 9) == Claim.special t p.1.toNat))) = true := by decide +kernel

/-- R49: reserved values trap ILLREG with the number in DETAIL. -/
theorem test_reserved_values : ([(0x010, 6), (0x010, 0x18005), (0x011, 9), (0x011, 0x81), (0x030, 8), (0x060, 0xA), (0x400, 2), (0x420, 3), (0x420, 0x21),
    (0x440, 3), (0x450, 1)] : List (BitVec 12 × W64)).all (fun p =>
      let s := sup0 fun t => { t with sregs := [(5, p.2)] }
      (Claim.special s p.1.toNat).isSome && Claim.written s p.1.toNat 0 p.2 == none
        && runs (.srw p.1 5) s (fun t => t.th.trap.info == BitVec.ofNat 64 (cILLREG + p.1.toNat * 256))) = true := by decide +kernel

theorem witness_registers : Claim.Reaches st0 0x020 ∧ (Claim.special st0 0x020).isSome = true ∧ st0.th.pipe = []
    ∧ (st0 fun t => { t with pipe := [ent0] }).th.pipe ≠ [] ∧ Claim.Reaches (sup0) 0x420 ∧ (sup0).th.pgcmd.busy = false ∧ (sup0).th.pending = []
    ∧ (sup0 fun t => { t with pgcmd := { t.pgcmd with busy := true } }).th.pgcmd.busy = true ∧ Claim.MayTrap st0 ∧ Claim.MayTrap sup0
    ∧ ¬Claim.Reaches st0 0x400 ∧ ¬Claim.Reaches sup0 0x800 ∧ Claim.Reaches st0 0x3FF ∧ Claim.special st0 0x3FF = none := by
  unfold Claim.Reaches Claim.MayTrap; decide +kernel

/-- R319, R332, R357: measures with nothing measured read 0; the row limit of rdharm stands between 63 and 64. -/
theorem test_measures : runs (.rdharm 5 6 9) st0 (fun t => t.getS 5 == 0) = true ∧ runs (.rdimb 5 6) st0 (fun t => t.getS 5 == 0) = true
    ∧ runs (.rdsamp 5 6) (st0 fun t => { t with sample := some { addr := 0x1000, seq := 3, vl := 4, lvl := 1, it := 9, lgs := [] }
                                                sregs := [(6, 1)] }) (fun t => t.getS 5 == 0x400000003) = true := by decide +kernel

/-- R333, R320: setwash and hclr at supervisor level, with values on both sides of their reserved ones. -/
theorem test_measures_cleared : runs (.setwash 9) (sup0 fun t => { t with sregs := [(9, 1)] }) (fun t => (t.str 0).offPend == some true) = true
    ∧ runs (.setwash 9) (sup0 fun t => { t with sregs := [(9, 2)] }) (fun t => t.th.trap.info == BitVec.ofNat 64 (cPWRFAULT + 256)) = true
    ∧ runs (.hclr 9) (sup0 fun t => { t with sregs := [(9, 0x80)] }) (fun t => t.th.pc == 0x1004) = true
    ∧ runs (.hclr 9) (sup0 fun t => { t with sregs := [(9, 0x3F)] }) (fun t => t.th.trap.info == BitVec.ofNat 64 (cHARMFAULT + 256)) = true
    ∧ runs (.hclr 9) (sup0 fun t => { t with sregs := [(9, 0x480)] }) (fun t => t.th.trap.info == BitVec.ofNat 64 (cHARMFAULT + 256)) = true
    ∧ runs (.setwash 9) st0 (fun t => t.th.trap.info == BitVec.ofNat 64 cPRIV) = true := by decide +kernel

theorem witness_measures : (sup0).lane = none ∧ (sup0).th.sup = true ∧ st0.th.sup = false ∧ (1 : Nat) < 2 ∧ (0x80 : Nat) < 2 ^ 10
    ∧ (0x80 : Nat) / 2 ^ 7 % 8 ≠ 0 := by decide +kernel

/-! ## Traps, returns and waits -/

/-- In a handler that has not returned. -/
def nested : State := sup0 fun t => { t with trap := { t.trap with inTrap := true } }

/-- R114, R116, R115: brk 3 enters the handler, and eret goes back to it; trap 5 goes back behind itself. -/
theorem test_traps : runs (.brk 3) st0 (fun t => t.th.trap.info == 0x304 + BitVec.ofNat 64 cBRK - 4 && t.th.pc == 0x8000 && t.th.sup
      && runs .eret t (fun u => u.th.pc == 0x1000 && !u.th.sup)) = true
    ∧ runs (.trap 5) st0 (fun t => t.th.pc == 0x8000 && runs .eret t (fun u => u.th.pc == 0x1004)) = true
    ∧ runs (.unallocatedWordFetch 5) st0 (fun t => t.th.trap.info == 0x500 + BitVec.ofNat 64 cILLOP) = true
    ∧ runs (.instructionFetchFault cPROT 0x9000 false) st0 (fun t => t.th.trap.va == 0x9000) = true
    ∧ runs .eret st0 (fun t => t.th.trap.info == BitVec.ofNat 64 cPRIV) = true := by decide +kernel

/-- R353, R219: halt on break; a trap within a handler freezes the context. -/
theorem test_brk : runs (.brk 3) (st0 fun t => { t with haltBrk := true }) (fun t => t.th.halted && t.th.pc == 0x1000) = true
    ∧ runs (.brk 3) nested (fun t => (t.ctx 5).st == .frozen && (t.groups.map (·.st)) == [.stopping]) = true := by decide +kernel

theorem witness_traps : Claim.MayTrap st0 ∧ st0.th.haltBrk = false ∧ lane1.th.haltBrk = false ∧ Claim.MayTrap lane1
    ∧ (st0 fun t => { t with haltBrk := true }).th.haltBrk = true ∧ nested.th.sup = true ∧ nested.th.trap.inTrap = true
    ∧ nested.th.haltBrk = false ∧ Claim.MayFreeze (nested.ctx nested.th.ctx).st ∧ cPROT ≠ cPAGEFAULT ∧ (st0.ctx st0.th.ctx).st = .running := by
  unfold Claim.MayTrap Claim.MayFreeze; decide +kernel

/-- R272: a fetch page fault preempts the context and posts one record. -/
theorem test_page_fault : runs (.instructionFetchFault cPAGEFAULT 0x20000 false) st0 (fun t => (t.ctx 5).st == .preempting
    && (t.faults.map (·.va)) == [0x20000] && (t.ctx 5).waits == [⟨2, 1, none⟩]) = true := by decide +kernel

theorem witness_eret : (sup0).th.fetch = none ∧ lane1.th.fetch ≠ none ∧ st0.th.pipe = []
    ∧ runs (.brk 3) st0 (fun _ => true) = true := by decide +kernel

/-- R304, R118: a pending cause enters the user handler, and uiret leaves it. -/
theorem test_user_handler : runs (.userInterruptEntry 0) (st0 fun t => { t with ui := { t.ui with vec := 0x9001, pend := 1 } }) (fun t =>
      t.th.pc == 0x9000 && t.th.ui.taken == 1 && runs .uiret t (fun u => u.th.pc == 0x1000)) = true
    ∧ runs .uiret st0 (fun t => t.th.trap.info == 0x300 + BitVec.ofNat 64 cCTLSTATE) = true := by decide +kernel

theorem witness_user_handler :
    let a := (st0 fun t => { t with ui := { t.ui with vec := 0x9001, pend := 1 } }).thOf 0
    a.group ≠ none ∧ a.halted = false ∧ a.hold = .none ∧ a.barHidden = none ∧ a.refStub = none ∧ (∀ x ∈ a.asked, x.1 ≠ 0)
      ∧ a.sup = false ∧ a.ui.vec.getLsbD 0 = true ∧ a.ui.pend ≠ 0 ∧ a.ui.inn = false := by decide +kernel

/-- R119: wait holds until another party stores to the watched block. -/
theorem test_wait : runs .wait (st0 fun t => { t with watch := some 0 }) (fun t => t.th.hold == .wait 0x1004 && t.th.pc == 0x1000
    && ((t.storeBytes none 63 [1, 2]).thOf 0).hold == .none && ((t.storeBytes none 63 [1, 2]).thOf 0).pc == 0x1004
    && ((t.storeBytes none 64 [1, 2]).thOf 0).hold == .wait 0x1004
    && runs (.waitTimeout 0) t (fun u => u.th.hold == .none && u.th.pc == 0x1004)) = true := by decide +kernel

theorem witness_wait : st0.th.watchHit = false ∧ st0.th.ui.pend = 0 ∧ (st0 fun t => { t with watchHit := true }).th.watchHit = true := by
  decide +kernel

/-- R169: a release fence waits for pending stores, an acquire fence does not. -/
theorem test_fences : runs (.fence 0 2 0) (st0 fun t => { t with pending := [(0, [1])] }) (fun t => t.th.pc == 0x1000) = true
    ∧ runs (.fence 0 1 0) (st0 fun t => { t with pending := [(0, [1])] }) (fun t => t.th.pc == 0x1004) = true
    ∧ runs (.xfence 1 0 0) (st0 fun t => { t with pending := [(0, [1])] }) (fun t => t.th.pc == 0x1000) = true
    ∧ runs (.xfence 2 0 0) st0 (fun t => t.th.pc == 0x1004) = true := by decide +kernel

theorem witness_fences : st0.lane = none ∧ (∀ e ∈ st0.th.pipe, (e.isMem && e.inAcc && !e.accDone) = true → False) ∧ st0.th.pending = [] := by
  decide +kernel

/-- R115, R239: the exit of the last group retires it and completes the launch. -/
theorem test_exit : runs (.trap 0) st0 (fun t => t.groups.isEmpty && (t.core 0).lg == [0, 0, 0, 0]
    && t.agenda.contains (.event (.launchComplete 7))) = true
    ∧ runs (.trap 0) lane1 (fun t => t.th.fetch.isNone) = true := by decide +kernel

theorem witness_exit : st0.th.fetch = none ∧ st0.th.pipe = [] ∧ st0.th.group = some 1 ∧ st0.grp 1 = some group1 ∧ group1.st = .loaded
    ∧ st0.lau 7 = some launch1 ∧ launch1.retired + 1 = launch1.n ∧ (st0 fun t => { t with pipe := [ent0] }).th.pipe ≠ [] := by decide +kernel

/-! ## Vector instructions -/

/-- Elements of `w` bits as a register. -/
def pack (w : Nat) (l : List Nat) : BitVec 32768 := BitVec.ofNat 32768 (l.foldr (fun x a => x + a * 2 ^ w) 0)

/-- v0 to v3 under a tag, with v0 to v2 filled; m1 holds bits 0 and 2; VL 4; MTR names the
local scratchpad. -/
def vecst (g : ETag) (a b c : List Nat) (f : Thread → Thread := id) : State :=
  st0 fun t => f { t with v := { t.v with
    tags := [(0, g), (1, g), (2, g), (3, g)], vregs := [(0, pack g.bits a), (1, pack g.bits b), (2, pack g.bits c)], masks := [(1, 5)], mtr := { space := 0 } } }

/-- Five 32-bit integers, the fifth above VL. -/
def ints : State := vecst .i32 [7, 0xFFFFFFF9, 0x7FFFFFFF, 1, 5] [2, 2, 1, 0, 5] [9, 9, 9, 9, 9]
/-- FP32: 1.5, −2, 0.1, +∞ and 1, 1, 0.2, −∞. -/
def floats : State := vecst .fp32 [0x3FC00000, 0xC0000000, 0x3DCCCCCD, 0x7F800000] [0x3F800000, 0x3F800000, 0x3E4CCCCD, 0xFF800000] [0, 0, 0, 0]

/-- The first five 32-bit elements of a register after an instruction. -/
def gives (i : Instr) (s : State) (n : VReg) (l : List Nat) : Bool :=
  runs i s fun t => (List.range 5).map (fun j => readElem t.th.v t.th.v.members n.toNat 32 j) == l

/-- R133, R46: results wrap, division rounds toward zero and by zero gives −1; elements at VL and above and those off the mask stay. -/
theorem test_vector_integers : gives (.vadd ⟨2, 0, 1, 0, false⟩) ints 2 [9, 0xFFFFFFFB, 0x80000000, 1, 9] = true
    ∧ gives (.vdiv ⟨2, 0, 1, 0, false⟩) ints 2 [3, 0xFFFFFFFD, 0x7FFFFFFF, 0xFFFFFFFF, 9] = true
    ∧ gives (.vrem ⟨2, 0, 1, 0, false⟩) ints 2 [1, 0xFFFFFFFF, 0, 1, 9] = true
    ∧ gives (.vsadd ⟨2, 0, 1, 1, false⟩) ints 2 [9, 9, 0x7FFFFFFF, 9, 9] = true
    ∧ gives (.vsub ⟨2, 0, 9, 0, true⟩) ints 2 [4, 0xFFFFFFF6, 0x7FFFFFFC, 0xFFFFFFFE, 9] = true
    ∧ gives (.vfma ⟨2, 0, 1, 0, false⟩) ints 2 [23, 0xFFFFFFFB, 0x80000008, 9, 9] = true
    ∧ gives (.vclz ⟨2, 0, 0⟩) ints 2 [29, 0, 1, 31, 9] = true := by decide +kernel

/-- R134, R62, R56: 0.1 + 0.2 rounds to 0x3E99999A; ∞ − ∞ raises invalid with EIX at element 3, and inexact at element 2. -/
theorem test_vector_floats : gives (.vadd ⟨2, 0, 1, 0, false⟩) floats 2 [0x40200000, 0xBF800000, 0x3E99999A, 0x7FC00000, 0] = true
    ∧ runs (.vadd ⟨2, 0, 1, 0, false⟩) floats (fun t => t.th.v.eix.get 0 0 == 0x8000000000000003 && t.th.v.eix.get 0 4 == 0x8000000000000002) = true := by
  decide +kernel

/-- R61, R57: signed overflow at element 2 and division by zero at element 3. -/
theorem test_classes : runs (.vadd ⟨2, 0, 1, 0, false⟩) ints (fun t => t.th.v.fstat == 0x2000 && t.th.v.eix.get 0 5 == 0x8000000000000002) = true
    ∧ runs (.vdiv ⟨2, 0, 1, 0, false⟩) ints (fun t => t.th.v.fstat == 0x200 && t.th.v.eix.get 0 1 == 0x8000000000000003) = true := by decide +kernel

/-- R142 to R147, R149. -/
theorem test_permutes : gives (.vslideup ⟨2, 0, 9, 0⟩) ints 2 [9, 9, 9, 7, 9] = true ∧ gives (.vslidedn ⟨2, 0, 9, 0⟩) ints 2 [1, 0, 0, 0, 9] = true
    ∧ gives (.vcompress ⟨2, 0, 1⟩) ints 2 [7, 0x7FFFFFFF, 9, 9, 9] = true ∧ gives (.vexpand ⟨2, 0, 1⟩) ints 2 [7, 9, 0xFFFFFFF9, 9, 9] = true
    ∧ gives (.viota 2 1) ints 2 [0, 1, 1, 2, 9] = true ∧ gives (.vperm ⟨2, 0, 1, 0, false⟩) ints 2 [0x7FFFFFFF, 0x7FFFFFFF, 0xFFFFFFF9, 7, 9] = true
    ∧ gives (.vmerge ⟨2, 0, 1, 1, false⟩) ints 2 [7, 2, 0x7FFFFFFF, 0, 9] = true ∧ gives (.vins 2 6 9) ints 2 [9, 9, 9, 5, 9] = true
    ∧ gives (.xch ⟨2, 0, 9, 0⟩) ints 2 [7, 0xFFFFFFF9, 0x7FFFFFFF, 1, 9] = true
    ∧ gives (.vcvt ⟨2, 0, 0⟩ 0x12) ints 2 [0x40E00000, 0xC0E00000, 0x4F000000, 0x3F800000, 9] = true := by decide +kernel

/-- R138 to R140, R146, R148: masks and scalars. -/
theorem test_masks_and_scalars : runs (.vclt ⟨2, 0, 1, 0, false⟩) ints (fun t => t.th.v.masks.get 0 2 == 2) = true
    ∧ runs (.mnot 2 1) ints (fun t => t.th.v.masks.get 0 2 == 10) = true ∧ runs (.msbf 2 1) ints (fun t => t.th.v.masks.get 0 2 == 0) = true
    ∧ runs (.msif 2 1) ints (fun t => t.th.v.masks.get 0 2 == 1) = true ∧ runs (.mpop 5 1) ints (fun t => t.getS 5 == 2) = true
    ∧ runs (.mff1 5 1) ints (fun t => t.getS 5 == 0) = true ∧ runs (.vext 5 0 9) ints (fun t => t.getS 5 == 1) = true
    ∧ runs (.vraddT ⟨5, 0, 6, 0⟩) ints (fun t => t.getS 5 == 0xFFFFFFFF80000005) = true
    ∧ runs (.vrminO ⟨5, 0, 6, 0⟩) ints (fun t => t.getS 5 == -7) = true ∧ runs (.vrand ⟨5, 0, 6, 1⟩) ints (fun t => t.getS 5 == 5) = true := by
  decide +kernel

/-- R130's example: operands of different tags trap ILLTYPE with reason 3 and detail 0x0E51. -/
theorem test_illtype : runs (.vadd ⟨2, 0, 1, 0, false⟩) (st0 fun t => { t with v := { t.v with tags := [(0, .fp32), (1, .bf16), (2, .fp32)] } })
    (fun t => t.th.trap.info == 0xE5103) = true := by decide +kernel

/-- R34: a dropped instruction writes nothing. -/
theorem test_dropped : gives (.vadd ⟨2, 0, 1, 3, false⟩) (ints.mod fun t => { t with v := { t.v with masks := [(3, 0)] } }) 2 [9, 9, 9, 9, 9] = true := by
  decide +kernel

/-- The member of the tests' vectors. -/
def mem0 : Member := { core := 0, tid := 0, nw := 8, grant := 4, share := 1, attached := true, mark := none, lost := false }

theorem at_once {i : Instr} {s : State} {r : Routing} {m : Member} (h : Claim.routing s i = some r) (l : s.lane = none)
    (b : (4 * m.core + m.tid == s.cur && s.lockstep && s.th.pipe.isEmpty && s.th.fetch.isNone && !s.th.off && (s.th.routeFault r).isNone && r.pops.isEmpty && r.push.isNone
      && s.th.v.members == [m] && m.attached && !m.lost && decide (m.nw ≤ 64) && !isDropped s.th.v r.ent && trapEnables s.th.v == 0
      && !s.th.sampctl.getLsbD 0) = true) : Claim.AtOnce i s r m := by
  simp only [Bool.and_eq_true, List.isEmpty_iff, Option.isNone_iff_eq_none, Bool.not_eq_true', beq_iff_eq, decide_eq_true_eq] at b
  obtain ⟨⟨⟨⟨⟨⟨⟨⟨⟨⟨⟨⟨⟨⟨o, a⟩, b⟩, c⟩, d⟩, e⟩, f⟩, g⟩, h1⟩, i1⟩, j⟩, k⟩, l1⟩, m1⟩, n⟩ := b
  exact ⟨h, l, a, b, c, d, e, ⟨f, g⟩, h1, ⟨i1, j, k⟩, o, l1, m1, n⟩

theorem witness_routing : Claim.routing ints (.vadd ⟨2, 0, 1, 0, false⟩) = some (binRouting .add ⟨2, 0, 1, 0, false⟩ ints.th)
    ∧ Claim.AtOnce (.vadd ⟨2, 0, 1, 0, false⟩) ints (binRouting .add ⟨2, 0, 1, 0, false⟩ ints.th) mem0
    ∧ (Claim.arithmetic ints (.vadd ⟨2, 0, 1, 0, false⟩)).isSome = true ∧ Claim.integer (.vadd ⟨2, 0, 1, 0, false⟩) = some (.add, ⟨2, 0, 1, 0, false⟩)
    ∧ (tagOf ints.th.v 0).isInt = true ∧ ints.th.v.vl ≤ 65536 :=
  ⟨rfl, at_once rfl rfl (by decide +kernel), by decide +kernel, rfl, rfl, by decide +kernel⟩

theorem witness_results : Claim.AtOnce (.viota 2 1) ints (iotaRouting 2 1 ints.th) mem0 ∧ (Claim.permuted ints (.viota 2 1)).isSome = true
    ∧ Claim.AtOnce (.mnot 2 1) ints (mlogRouting .not 2 1 0 ints.th) mem0 ∧ (Claim.maskResult ints (.mnot 2 1)).isSome = true
    ∧ Claim.AtOnce (.mpop 5 1) ints (mscalRouting .mpop 5 1 ints.th) mem0 ∧ (Claim.scalarResult ints (.mpop 5 1)).isSome = true :=
  ⟨at_once rfl rfl (by decide +kernel), by decide +kernel, at_once rfl rfl (by decide +kernel), by decide +kernel,
    at_once rfl rfl (by decide +kernel), by decide +kernel⟩

/-- A routing for each clause: check 7, the queue counts, the operands, and one that passes. -/
theorem witness_route_faults : (binRouting .add ⟨39, 0, 1, 0, false⟩ ints.th).bad = some (0, 39)
    ∧ (binRouting .add ⟨2, 32, 1, 0, false⟩ ints.th).pops = [32] ∧ (ints.th.v.counts.get [] 32).length = 0
    ∧ (binRouting .add ⟨2, 0, 5, 0, false⟩ ints.th).typ.isSome = true ∧ (binRouting .add ⟨2, 0, 1, 0, false⟩ ints.th).bad = none
    ∧ (binRouting .add ⟨2, 0, 1, 0, false⟩ ints.th).typ = none ∧ Claim.MayTrap ints
    ∧ 32 ≤ (((st0 fun t => { t with pipe := List.replicate 32 { ent0 with inExe := true } }).th.pipe).filter (·.inExe)).length := by
  unfold Claim.MayTrap; decide +kernel

theorem witness_dropped : let s := ints.mod fun t => { t with v := { t.v with masks := [(3, 0)] } }
    let r := binRouting .add ⟨2, 0, 1, 3, false⟩ s.th
    Claim.routing s (.vadd ⟨2, 0, 1, 3, false⟩) = some r ∧ s.th.pipe = [] ∧ s.th.fetch = none ∧ s.th.off = false ∧ s.th.routeFault r = none
      ∧ (r.pops = [] ∧ r.push = none) ∧ s.th.v.members = [mem0] ∧ allFalse s.th.v r.ent.k = true ∧ r.ent.readsK = false ∧ r.setTag = none :=
  ⟨rfl, by decide +kernel⟩

/-! ## Vector configuration and memory -/

/-- A request of 100 elements in s5, and two lane groups set where the member had one. -/
def wider : State :=
  { ints with cores := [(0, { lg := [2, 0, 0, 0], last := some (1, 2, 5), clean := false })] }

/-- R125: 8 NW of 512 bits hold 128 elements of 32 bits; LTAG is N64, so 64; with two lane groups, 128. -/
theorem test_vsetl : runs (.vsetl 9 7) st0 (fun t => t.getS 9 == 64 && t.th.v.vl == 64) = true
    ∧ runs (.vsetl 9 5) st0 (fun t => t.getS 9 == 12) = true ∧ runs (.vsetl 0 0) st0 (fun t => t.th.v.vl == 0) = true
    ∧ runs (.vsetl 9 7) wider (fun t => t.getS 9 == 128 && readElem t.th.v t.th.v.members 0 32 4 == 5) = true
    ∧ runs (.vsetl 32 5) st0 (fun t => t.th.trap.info == BitVec.ofNat 64 (cILLREG + 32 * 256)) = true := by decide +kernel

theorem witness_vsetl : Claim.SharesKept st0 ∧ ¬Claim.SharesKept wider ∧ wider.th.v.members = [mem0] ∧ mem0.mark = none ∧ mem0.attached = true
    ∧ mem0.nw ≤ 64 ∧ wider.th.v.gc ≤ 3 ∧ (wider.core 0).lg.getD 0 0 = 2 ∧ 2 ≠ mem0.share ∧ wider.th.pipe = [] ∧ wider.th.fetch = none := by
  unfold Claim.SharesKept; decide +kernel

/-- R123: vcfg tags v4 to v7. R127: vmt of a space above 5 is refused. -/
theorem test_vcfg : runs (.vcfg 4 7 0x12 1 0) st0 (fun t => tagOf t.th.v 4 == .fp32 && tagOf t.th.v 7 == .fp32 && tagOf t.th.v 8 == .n64
      && t.th.v.gc == 1 && t.th.v.ltag == .fp32) = true
    ∧ runs (.vcfg 4 7 0x1B 1 0) st0 (fun t => t.th.trap.info == BitVec.ofNat 64 (cILLTYPE + 0x41B * 256)) = true
    ∧ runs (.vmt 6) st0 (fun t => t.th.v.mtr.space == 5) = true
    ∧ runs (.vmt 11) (st0 fun t => { t with sregs := [(11, 6)] }) (fun t => t.th.trap.info == BitVec.ofNat 64 (cILLREG + 0x010 * 256)) = true := by
  decide +kernel

theorem witness_vcfg : tagOfCode 0x12 = some .fp32 ∧ tagOfCode 0x1B = none ∧ (getScalar st0.th none 6).toNat % 8 < 6
    ∧ (getScalar st0.th none 6).toNat / 2 ^ 8 % 2 ^ 9 < 384 ∧ 6 ≤ (getScalar (st0 fun t => { t with sregs := [(11, 6)] }).th none 11).toNat % 8 := by
  decide +kernel

/-- The short form of a vector-memory word. -/
def p0 : VPay := ⟨false, 0, 0, false, 0⟩

/-- R151, R161, R156: v0 is stored at 0x10 of the scratchpad and read back into v2; R158: every second word. -/
theorem test_vector_memory : runs (.vst ⟨0, 8, 0, p0⟩) ints (fun t => t.byte (2 ^ 62 + 0x14) == 0xF9 && t.byte (2 ^ 62 + 0x20) == 0
      && gives (.vld ⟨2, 8, 0, p0⟩) t 2 [7, 0xFFFFFFF9, 0x7FFFFFFF, 1, 9] && gives (.vldX ⟨2, 8, 3, 0, p0⟩) t 2 [7, 7, 7, 7, 9]
      && gives (.vldS ⟨2, 8, 11, 1, p0⟩) (t.mod fun x => { x with sregs := x.sregs ++ [(11, 8)] }) 2 [7, 9, 0, 9, 9]) = true := by decide +kernel

/-- R165: vamoadd returns the old words, and v1's are added to them; v3's indices are the byte offsets 0, 4, 8 and 12. -/
theorem test_vector_atomics : runs (.vst ⟨0, 8, 0, p0⟩) (ints.mod fun t => { t with v := { t.v with vregs := t.v.vregs ++ [(3, pack 32 [0, 4, 8, 12])] } })
    (fun t => runs (.vamoAdd ⟨1, 8, 3, 0, p0⟩) t fun u => gives (.vld ⟨2, 8, 0, p0⟩) u 2 [9, 0xFFFFFFFB, 0x80000000, 1, 9]
      && readElem u.th.v u.th.v.members 1 32 2 == 0x7FFFFFFF) = true := by decide +kernel

/-- A base that is no multiple of 4. -/
def skew : State := ints.mod fun t => { t with sregs := [(8, 0xF000000000000011)] }

theorem test_misaligned_element : runs (.vld ⟨2, 8, 1, p0⟩) skew (fun t => t.th.trap.va == 0xF000000000000011 && t.th.trap.stop.length == 1
    && t.th.pc == 0x8000) = true := by decide +kernel

theorem lands (s : State) (w : Claim.VMem) (h : s.th.v.mtr.space = 0 ∧ 8 ≤ (tagOf s.th.v w.d.toNat).bits)
    (l : ∀ j, j < s.th.v.vl → (Claim.vaddress s w j).toNat / 2 ^ 21 % 2 ^ 39 = 0 ∧ (Claim.vaddress s w j).toNat % 2 ^ 21 < 0x180000
      ∧ (Claim.vaddress s w j).toNat % Claim.width s w = 0
      ∧ s.spadOk s.cur s.th.ctx 0 ((Claim.vaddress s w j).toNat % 2 ^ 21) (Claim.width s w) = true) : Claim.AllLand s mem0 w :=
  ⟨h.1, h.2, fun j hj => l j hj.2.1⟩

theorem apart (s : State) (w : Claim.VMem) (l : ∀ i, i < s.th.v.vl → ∀ j, j < s.th.v.vl → i ≠ j →
    Claim.place mem0 (Claim.vaddress s w i) ≠ Claim.place mem0 (Claim.vaddress s w j)) : Claim.Apart s mem0 w :=
  fun i j hi hj => l i hi.2.1 j hj.2.1

theorem witness_vector_loads : let w : Claim.VMem := ⟨2, 0, .unit, 8, 0⟩
    let r := loadRouting false false 2 8 ⟨.unit, 0⟩ 0 p0 ints.th
    Claim.AtOnce (.vld ⟨2, 8, 0, p0⟩) ints r mem0 ∧ Claim.vload (.vld ⟨2, 8, 0, p0⟩) = some w ∧ Claim.AllLand ints mem0 w ∧ r.ent.gather = false :=
  ⟨at_once rfl rfl (by decide +kernel), rfl, lands _ _ (by decide +kernel) (by decide +kernel), by decide +kernel⟩

theorem witness_vector_stores : let w : Claim.VMem := ⟨0, 1, .unit, 8, 0⟩
    Claim.AtOnce (.vst ⟨0, 8, 1, p0⟩) ints (storeRouting false 0 8 ⟨.unit, 0⟩ 1 p0 ints.th) mem0
      ∧ Claim.vstore (.vst ⟨0, 8, 1, p0⟩) = some w ∧ Claim.AllLand ints mem0 w :=
  ⟨at_once rfl rfl (by decide +kernel), rfl, lands _ _ (by decide +kernel) (by decide +kernel)⟩

/-- v3 holds the offsets 0, 8, 0 and 8. -/
def doubled : State := ints.mod fun t => { t with v := { t.v with vregs := t.v.vregs ++ [(3, pack 32 [0, 8, 0, 8])] } }

/-- R158: of two elements at one address the ordered form leaves the higher. -/
theorem test_ordered_scatter : runs (.vstXo ⟨0, 8, 3, 0, p0⟩) doubled (fun t =>
    t.load (2 ^ 62 + (doubled.getS 8).toNat % 2 ^ 21) 4 == 0x7FFFFFFF && t.load (2 ^ 62 + (doubled.getS 8).toNat % 2 ^ 21 + 8) 4 == 1
      && t.freeCtr == 0) = true
    ∧ runs (.vstX ⟨0, 8, 3, 0, p0⟩) doubled (fun t => t.freeCtr == 2) = true := by decide +kernel

theorem witness_scatter_twice : let w : Claim.VMem := ⟨0, 0, .indexed, 8, 3⟩
    Claim.AtOnce (.vstX ⟨0, 8, 3, 0, p0⟩) doubled (storeRouting false 0 8 ⟨.indexed, 3⟩ 0 p0 doubled.th) mem0
      ∧ Claim.vstore (.vstX ⟨0, 8, 3, 0, p0⟩) = some w ∧ Claim.AllLand doubled mem0 w ∧ Claim.Acts doubled w 0 ∧ Claim.Acts doubled w 2
      ∧ Claim.place mem0 (Claim.vaddress doubled w 0) = Claim.place mem0 (Claim.vaddress doubled w 2) :=
  ⟨at_once rfl rfl (by decide +kernel), rfl, lands _ _ (by decide +kernel) (by decide +kernel),
    ⟨by decide +kernel, by decide +kernel, by decide +kernel⟩, ⟨by decide +kernel, by decide +kernel, by decide +kernel⟩, by decide +kernel⟩

/-- v3 holds the offsets 0, 4, 8 and 12. -/
def offsets : State := ints.mod fun t => { t with v := { t.v with vregs := t.v.vregs ++ [(3, pack 32 [0, 4, 8, 12])] } }

theorem witness_vector_atomics : let w : Claim.VMem := ⟨1, 0, .indexed, 8, 3⟩
    Claim.AtOnce (.vamoAdd ⟨1, 8, 3, 0, p0⟩) offsets (atomRouting (.vamo .add) .add ⟨1, 8, 3, 0, p0⟩ offsets.th) mem0
      ∧ Claim.vatomic (.vamoAdd ⟨1, 8, 3, 0, p0⟩) = some (.add, true, w) ∧ Claim.AllLand offsets mem0 w ∧ Claim.Apart offsets mem0 w :=
  ⟨at_once rfl rfl (by decide +kernel), rfl, lands _ _ (by decide +kernel) (by decide +kernel), apart _ _ (by decide +kernel)⟩

theorem witness_misaligned_element : let w : Claim.VMem := ⟨2, 1, .unit, 8, 0⟩
    Claim.AtOnce (.vld ⟨2, 8, 1, p0⟩) skew (loadRouting false false 2 8 ⟨.unit, 0⟩ 1 p0 skew.th) mem0 ∧ Claim.MayTrap skew
      ∧ Claim.vload (.vld ⟨2, 8, 1, p0⟩) = some w ∧ 8 ≤ (tagOf skew.th.v w.d.toNat).bits ∧ Claim.Acts skew w 0
      ∧ (∀ l, Claim.Acts skew w l → 0 ≤ l) ∧ (Claim.vaddress skew w 0).toNat % Claim.width skew w ≠ 0 :=
  ⟨at_once rfl rfl (by decide +kernel), by unfold Claim.MayTrap; decide +kernel, rfl, by decide +kernel, by unfold Claim.Acts; decide +kernel,
    fun _ _ => Nat.zero_le _, by decide +kernel⟩

/-- A ring of LOGCAP 6 (or another) at 0x400 of the scratchpad, its descriptor at 0x20; IOFS 100, WR 62, RD 1. -/
def ring (logcap rd : Nat) : State :=
  { ints with mem := memPuts [] (2 ^ 62 + 0x20) (leBytes 8 0xF000000000000400 ++ leBytes 4 logcap ++ leBytes 4 100 ++ leBytes 8 62 ++ leBytes 8 rd) }.mod
    fun t => { t with sregs := [(8, 0xF000000000000020)] }

/-- R230, R231: the indices 0 and 2 plus IOFS stand at places 62 and 63, and WR is 64; without room, QFULL 4; LOGCAP 5, QFULL 5. -/
theorem test_capp : runs (.capp 8 1 p0) (ring 6 1) (fun t => t.byte (2 ^ 62 + 0x400 + 62 * 4) == 100 && t.byte (2 ^ 62 + 0x400 + 63 * 4) == 102
      && t.byte (2 ^ 62 + 0x30) == 64) = true
    ∧ runs (.capp 8 0 p0) (ring 6 1) (fun t => t.th.trap.info == BitVec.ofNat 64 (cQFULL + 4 * 256)) = true
    ∧ runs (.capp 8 1 p0) (ring 5 1) (fun t => t.th.trap.info == BitVec.ofNat 64 (cQFULL + 5 * 256)) = true
    ∧ runs (.capp 8 1 p0) (ring 24 1) (fun t => t.byte (2 ^ 62 + 0x30) == 64) = true
    ∧ runs (.capp 8 1 p0) (ring 25 1) (fun t => t.th.trap.info == BitVec.ofNat 64 (cQFULL + 5 * 256)) = true := by decide +kernel

theorem witness_capp : Claim.AtOnce (.capp 8 1 p0) (ring 6 1) (cappRouting 8 1 p0 (ring 6 1).th) mem0 ∧ (ring 6 1).th.v.vl ≠ 0
    ∧ (match readRun ((ring 6 1).mod (·.routed (cappRouting 8 1 p0 (ring 6 1).th))) 0 1 true (vectorTarget 0 (ring 6 1).th.v.mtr)
          0xF000000000000020 32 with
        | .ok u bs => bs == memGets (ring 6 1).mem (2 ^ 62 + 0x20) 32 && u.mem == (ring 6 1).mem &&
          (placeRuns 0 true (vectorTarget 0 (ring 6 1).th.v.mtr) [(0xF0000000000004F8, leBytes 4 100), (0xF0000000000004FC, leBytes 4 102),
            (0xF000000000000030, leBytes 8 64)] u []).isRight
        | _ => false) = true :=
  ⟨at_once rfl rfl (by decide +kernel), by decide +kernel, by decide +kernel⟩

/-- A bxld descriptor at 0x20 of the scratchpad: SRC 0x400 and DST 0x800 of the local space, words, channel 0; v3 holds 0, 4, 0, 8. -/
def background : State :=
  { ints with mem := memPuts [] (2 ^ 62 + 0x20) (leBytes 8 0xF000000000000400 ++ leBytes 8 0xF000000000000800 ++ leBytes 8 2 ++ leBytes 8 0) }.mod
    fun t => { t with sregs := [(8, 0xF000000000000020)], v := { t.v with vregs := t.v.vregs ++ [(3, pack 32 [0, 4, 0, 8])] } }

/-- R302: the repeat of index 0 at element 2 is marked, and NEXT moves on. -/
theorem test_bxld : runs (.bxld 2 8 3 p0) background (fun t => t.th.v.masks.get 0 2 == 4 && t.th.ch0.next == background.th.ch0.next + 1) = true := by
  decide +kernel

theorem witness_bxld : Claim.AtOnce (.bxld 2 8 3 p0) background (bxldRouting 2 8 3 p0 background.th) mem0 ∧ background.th.v.vl ≠ 0
    ∧ (match readRun (background.mod (·.routed (bxldRouting 2 8 3 p0 background.th))) 0 1 true (scalarTarget 0) 0xF000000000000020 32 with
        | .ok _ bs => leNat bs / 2 ^ 133 == 0 && leNat bs / 2 ^ 128 % 2 ^ 3 == 2 && leNat bs / 2 ^ 131 % 2 == 0
        | _ => false) = true ∧ (background.th.chan 0).frz = false
    ∧ ([0xF000000000000400, 0xF000000000000404, 0xF000000000000408, 0xF000000000000800, 0xF000000000000804, 0xF000000000000808,
        0xF00000000000080C] : List Nat).all (· % 4 == 0) = true :=
  ⟨at_once rfl rfl (by decide +kernel), by decide +kernel, by decide +kernel, by decide +kernel, by decide +kernel⟩

/-! ## The palette -/

/-- R186's example at offset 0 of the scratchpad: codebook, weights, activations and positions. -/
def tile : List Host.Cell :=
  let at_ (m : List Host.Cell) (o w : Nat) (l : List Nat) := memPuts m (2 ^ 62 + o) (l.flatMap (leBytes w))
  at_ (at_ [] 0 2 [0x0000, 0x3F00, 0x3F80, 0x3FC0, 0x4000, 0xBF00, 0xBF80, 0xC000, 0x3E80, 0x3F40, 0x4040, 0xC040, 0x4080, 0xC080, 0x3E00, 0xBE00])
    0x40 1 [0x42, 0x31, 0x06, 0x75, 0x44, 0x22, 0x11, 0x33]

/-- The thread of that example before its fills: s6 holds the shape, s8 and s9 name the codebook and the weights. -/
def fills (st : SlotState) : State :=
  { st0 fun t => { t with
      sregs := [(6, 0x400700496), (8, 0xF000000000000000), (9, 0xF000000000000040)]
      v := { t.v with mtr := { space := 0 } } }
    with mem := tile, cores := [(0, { lg := [1, 0, 0, 0], slots := [(3, { st, shape := 0x400700496 })] })] }

theorem test_palette : runs (.mclaim 6 3) (fills .free) (fun t => (t.core 0).slot 3 == { st := .claimed 0, shape := 0x400700496, data := 0 }) = true
    ∧ runs (.mclaim 6 3) (fills (.claimed 1)) (fun t => t.th.trap.info == BitVec.ofNat 64 (cPALSTATE + 0x302 * 256)) = true
    ∧ runs (.mrel 3) (fills (.claimed 0)) (fun t => ((t.core 0).slot 3).st == .free) = true
    ∧ runs (.mrel 3) (fills .free) (fun t => t.th.trap.info == BitVec.ofNat 64 (cPALSTATE + 0x301 * 256)) = true
    ∧ runs (.mldt 9 3) (fills (.claimed 0)) (fun t => ((t.core 0).slot 3).data == 0x3311224475063142) = true
    ∧ runs (.cbld 8 2) (fills .free) (fun t => ((t.core 0).cbs.get {} 2).v && ((t.core 0).cbs.get {} 2).gen == 1
      && ((t.core 0).cbs.get {} 2).table.extractLsb' 16 16 == 0x3F00) = true := by decide +kernel

theorem witness_palette : Claim.OneCore (fills .free) ∧ Claim.PossibleShape 0x400700496 ∧ ¬Claim.PossibleShape 0x400600496 ∧ ¬Claim.PossibleShape 0
    ∧ (fills .free).reservedByOther 0 3 = false ∧ Claim.MayTrap (fills .free) ∧ ((fills (.claimed 0)).th.uses 3) = false
    ∧ (fills (.claimed 0)).th.replies = [] ∧ (fills (.claimed 0)).th.asked = [] ∧ ¬Claim.OneCore ((fills .free).mod fun t => { t with
        v := { t.v with members := [mem0, { mem0 with core := 1 }] } }) := by
  unfold Claim.OneCore Claim.PossibleShape Claim.MayTrap; decide +kernel

theorem witness_fills : Claim.AtOnce (.mldt 9 3) (fills (.claimed 0)) (mldtRouting 9 3 (fills (.claimed 0))) mem0
    ∧ Claim.AtOnce (.cbld 8 2) (fills .free) (cbldRouting 8 2 (fills .free)) mem0
    ∧ (fills (.claimed 0)).spadOk 0 5 0 0x40 4 = true ∧ (fills (.claimed 0)).spadOk 0 5 0 0x44 4 = true ∧ (fills .free).spadOk 0 5 0 0 32 = true
    ∧ shapeGet 0x400700496 = ⟨.k4, 2, 2, 8, 4, 0⟩ :=
  ⟨at_once rfl rfl (by decide +kernel), at_once rfl rfl (by decide +kernel), by decide +kernel⟩

/-- R186's example before mmax: its activations, positions and accumulators, with position 0 another one where asked. -/
def products (q : Nat := 0) : State :=
  { st0 fun t => { t with v := { t.v with
      vl := 5, mtr := { space := 0 }, tags := [(2, .bf16), (4, .i16), (8, .fp32)]
      vregs := [(2, pack 16 [0x3F80, 0x3FC0, 0x3E80, 0x4040, 0x3F00]), (4, pack 16 [q, 1, 4, 6, 7]), (8, pack 32 [0, 0x4B800000])] } }
    with cores := [(0, { lg := [1, 0, 0, 0], slots := [(3, { st := .claimed 0, shape := 0x400700496, data := 0x3311224475063142 })]
                         cbs := [(2, { v := true, gen := 1, table := BitVec.ofNat 256 (leNat (memGets tile (2 ^ 62) 32)) })] })] }

/-- R186: 0x3FA00000 and 0x4B800005, inexact alone, EIX4 at column 1; a position of 8 traps PALSTATE 6. -/
theorem test_mmax : runs (.mmax 8 3 2 4 0) products (fun t => readElem t.th.v t.th.v.members 8 32 0 == 0x3FA00000
      && readElem t.th.v t.th.v.members 8 32 1 == 0x4B800005 && t.th.v.fstat == 0x1000 && t.th.v.eix.get 0 4 == 0x8000000000000001) = true
    ∧ runs (.mmax 8 3 2 4 0) (products 8) (fun t => t.th.trap.info == BitVec.ofNat 64 (cPALSTATE + 0x306 * 256)) = true := by decide +kernel

theorem witness_mmax : Claim.AtOnce (.mmax 8 3 2 4 0) products (mmaxRouting 8 3 2 4 0 products) mem0 ∧ products.th.v.vl ≠ 0
    ∧ slotFaults products 0 5 [(3, shapeGet 0x400700496)] = none
    ∧ (List.range 5).all (fun j => decide (Claim.elem products 4 j < (shapeGet 0x400700496).depth)) = true :=
  ⟨at_once rfl rfl (by decide +kernel), by decide +kernel, by decide +kernel, by decide +kernel⟩

/-- Slot 0 holds two BF16 lines 1, 2 and 3, 4 and slot 1 the one line 1, 0.5; the lengths of mmab stand in s6. -/
def pair : State :=
  { st0 fun t => { t with sregs := [(6, 1)], v := { t.v with vl := 2, tags := [(8, .fp32)], vregs := [(8, pack 32 [0x3F800000, 0, 7])] } }
    with cores := [(0, { lg := [1, 0, 0, 0], slots :=
      [(0, { st := .claimed 0, shape := 0x400100411, data := 0x40804040_40003F80 }), (1, { st := .claimed 0, shape := 0x400100011, data := 0x3F003F80 })] })] }

/-- R184: 1 + 1×1 + 2×0.5 = 3, and 3×1 + 4×0.5 = 5; R187 with length 1: 1 + 1×1 = 2, and 3. -/
theorem test_mma : gives (.mma 8 0 1 0) pair 8 [0x40400000, 0x40A00000, 7, 0, 0] = true
    ∧ gives (.mmab 8 0 1 6 0) pair 8 [0x40000000, 0x40400000, 7, 0, 0] = true := by decide +kernel

theorem witness_mma : Claim.AtOnce (.mma 8 0 1 0) pair (mmaRouting 8 0 1 0 pair) mem0 ∧ Claim.AtOnce (.mmab 8 0 1 6 0) pair (mmabRouting 8 0 1 6 0 pair) mem0
    ∧ pair.th.v.vl ≠ 0 ∧ slotFaults pair 0 2 [(0, shapeGet 0x400100411), (1, shapeGet 0x400100011)] = none ∧ mem0.nw / 8 ≠ 0 :=
  ⟨at_once rfl rfl (by decide +kernel), at_once rfl rfl (by decide +kernel), by decide +kernel⟩

/-! ## The queues across steps -/

/-- What stands after an instruction. -/
def after (i : Instr) (s : State) : State := match exec i s with | .next t => t | _ => s
/-- The next state of an outcome. -/
def answered : Host.Outcome State Fault Refusal → State
  | .next t => t
  | _ => State.reset

/-- An add that has been routed, where the queues run by events; then granted. -/
def queued : State := after (.vadd ⟨2, 0, 1, 0, false⟩) { ints with lockstep := false }
def granted : State := answered (execVectorSequencerGrant 0 queued)
/-- Its entry. -/
def add0 : Entry := (binRouting .add ⟨2, 0, 1, 0, false⟩ ints.th).ent
/-- Released. -/
def released : State := answered (execInstructionRelease 0 granted)

/-- R29, R229, R325, R31: routed, granted, released, complete. -/
theorem test_events : queued.th.pipe = [add0] ∧ (granted.core 0).granted = some 0 ∧ (released.th.pipe.map (·.released)) = [true]
    ∧ (after (.instructionComplete 0) released).th.pipe = []
    ∧ gives (.instructionComplete 0) released 2 [9, 0xFFFFFFFB, 0x80000000, 1, 9] = true := by decide +kernel

theorem witness_sequencer : (queued.core 0).granted = none ∧ queued.contenders 0 = [0] ∧ st0.contenders 0 = [] ∧ (granted.core 0).granted = some 0 := by
  decide +kernel

theorem witness_gate : let e := add0
    granted.th.pipe = [e] ∧ e.inExe = true ∧ e.released = false ∧ e.dropped = false ∧ e.inAcc = false ∧ isDropped granted.th.v e = false
      ∧ lostMember granted 0 e = false ∧ gateReady granted.th [] e = true ∧ e.dist = [mem0] ∧ granted.th.sampctl.getLsbD 0 = false
      ∧ granted.charge e e.vl ≠ 0 ∧ (granted.core 0).bucket = 0
      ∧ (granted.modCore 0 fun c => { c with bucket := 4160 }).core 0 = { granted.core 0 with bucket := 4160 }
      ∧ 4096 < 4160 - granted.drainOf 0 + granted.charge e e.vl := by decide +kernel

/-- A load that has been routed. -/
def loading : State := after (.vld ⟨2, 8, 0, p0⟩) { ints with lockstep := false }

theorem witness_events : (loading.th.pipe.map fun e => (e.inAcc, e.inExe, e.accDone, accReady loading 0 [] e, lostMember loading 0 e, isDropped loading.th.v e)) =
      [(true, true, false, true, false, false)]
    ∧ (loading.th.pipe.map fun e => match accessHalf loading 0 e with | .done _ e' => e'.inExe | _ => false) = [true]
    ∧ (released.th.pipe.map fun e => (e.isMem, e.released, e.sampled, match computeOut released 0 e with | .ok .. => true | _ => false)) =
      [(false, true, false, true)]
    ∧ trapEnables released.th.v = 0 ∧ released.th.fetch = none := by decide +kernel

/-- A span of two members, one of them lost. -/
def span : State := ints.mod fun t => { t with v := { t.v with members := [{ mem0 with grant := 2 }, { mem0 with core := 1, grant := 2 }] } }

/-- R25: the loss of a member traps SPANFAULT at the next instruction that uses it. -/
theorem test_span : ((after (.spanMemberLost 0 1) span).th.v.members.map (·.lost)) = [false, true]
    ∧ runs (.vadd ⟨2, 0, 1, 0, false⟩) (after (.spanMemberLost 0 1) span) (fun t => t.th.trap.info == BitVec.ofNat 64 cSPANFAULT) = true := by
  decide +kernel

theorem witness_spans : let s := after (.spanMemberLost 0 1) span
    2 ≤ span.th.v.members.length ∧ s.th.pipe = [] ∧ s.th.fetch = none ∧ s.lockstep = true
      ∧ s.th.routeFault (binRouting .add ⟨2, 0, 1, 0, false⟩ s.th) = none ∧ s.th.v.members.any (fun m => m.attached && m.lost) = true
      ∧ Claim.MayTrap s := by
  unfold Claim.MayTrap; decide +kernel

/-- R126: a relocation charges the bucket. -/
theorem test_relocation : let s := (st0 fun t => { t with reloc := [(0, 8)] }).modCore 0 fun c => { c with granted := some 0 }
    s.issues 0 = true ∧ st0.relocCharge 8 ≠ 0 ∧ ((after (.relocation 0) s).core 0).charge = (s.core 0).charge + st0.relocCharge 8 ∧ (after (.relocation 0) s).th.reloc = [] := by
  decide +kernel

/-! ## The step -/

/-- Code at 0x1000 of the thread's page table: one word, or a pair. -/
def code (ws : List Nat) (f : Thread → Thread := id) : State :=
  let s := paged (st0 f)
  { s with mem := memPuts s.mem 0x1000 (ws.flatMap (leBytes 4)) }

/-- Whether a step answers a state that passes a test. -/
def steps (s : State) (f : State → Bool) : Bool := match step s with | .next t => f t | _ => false

/-- R36, R72, R91: the step runs the word at the pc, or the pair, or traps ILLOP with the number of the first check that fails. -/
theorem test_step : steps (code [0x08A60010]) (fun t => t.getS 5 == 0x15 && t.th.pc == 0x1004) = true
    ∧ steps (code [0xFC000001, 0x08A60000]) (fun t => t.getS 5 == 0x10005 && t.th.pc == 0x1008) = true
    ∧ steps (code [0]) (fun t => t.th.trap.info == BitVec.ofNat 64 (cILLOP + 256)) = true
    ∧ steps (code [0xFC800000, 0x04000000]) (fun t => t.th.trap.info == BitVec.ofNat 64 (cILLOP + 4 * 256) + 0x200000000000000) = true := by decide +kernel

/-- R104: stage 2 of a loop of three stages is disabled in iteration 0. -/
theorem test_stage : steps (code [0xFC800000, 0x04AA0000] fun t => { t with loops := [{ b := 0x1000, e := 0x1010, t := 3, s := 3, n := 5, l := 0, i := 0 }] })
      (fun t => t.th.pc == 0x1008 && t.getS 5 == 12) = true
    ∧ Claim.StageOn [{ b := 0x1000, e := 0x1010, t := 3, s := 3, n := 5, l := 0, i := 1 }] 2
    ∧ ¬Claim.StageOn [{ b := 0x1000, e := 0x1010, t := 3, s := 3, n := 5, l := 0, i := 4 }] 2 :=
  ⟨by decide +kernel, .inr ⟨_, _, rfl, by decide, by decide, by decide⟩, by
    rintro (h | ⟨r, rest, h, -, -, h3⟩)
    · exact absurd h (by decide)
    · cases h
      exact absurd h3 (by decide)⟩

/-- The first instruction after reset, with its word placed. -/
theorem test_first : steps (State.reset.withFetchWord 32 0x08200005) (fun t => t.getS 1 == 5) = true
    ∧ steps (State.reset.withFetchWord 64 (0x08200000 * 2 ^ 32 + 0xFC000001)) (fun t => t.getS 1 == 0x10000) = true := by decide +kernel

theorem witness_step : Claim.NextTurn (code [0x08A60010]) 0 (code [0x08A60010]) ∧ Claim.FrontTurn (code [0x08A60010]) 0
    ∧ (∃ x, Claim.FetchUnitAt (Claim.fetching (code [0x08A60010]) 0) 0x1000 [0x08A60010] { addr := 0x1000, word := 0x08A60010 } x)
    ∧ decode [0x08A60010] = .ok ⟨.addi 5 6 0x10, false, 0⟩ ∧ decode [0] = .error (.illop 1) :=
  ⟨.inr ⟨rfl, by decide +kernel, rfl⟩, by unfold Claim.FrontTurn; decide +kernel,
    ⟨_, .inl ⟨_, by decide +kernel, rfl, ⟨0x1000, 0x1F, rfl, by decide +kernel, rfl⟩, rfl⟩⟩, rfl, rfl⟩

/-- A lane thread's turn: the words at 0x1000, with virtual processor 1 at the first. -/
def laneCode (ws : List Nat) : State :=
  code ws fun t => { t with turn := 1, fetch := lane1.th.fetch }

/-- R105, R323: a lane thread's addi writes its element, and its core's gate charges WTAB[17] = 2; a header is entered. -/
theorem test_lane_step :
    steps (laneCode [0x08A50001]) (fun t => (t.part 1).gateu.get 0 2 == 2 && (t.core 0).charge == 2
      && (t.th.fetch.bind (laneOf · 1)).map (·.pc) == some 0x1004) = true
    ∧ steps (laneCode [0xF4200000]) (fun t => (t.part 1).gateu.get 0 2 == 0 && (t.th.fetch.bind (laneOf · 1)).bind (·.blkEnd) == some 0x100C) = true := by
  decide +kernel

theorem witness_lane_step : Claim.NextTurn (laneCode [0x08A50001]) 0 (laneCode [0x08A50001])
    ∧ (∃ l x, Claim.LaneTurn (laneCode [0x08A50001]) 0 1 l
      ∧ Claim.FetchUnitAt (Claim.laneFetching (laneCode [0x08A50001]) 0 1) l.pc [0x08A50001] { addr := 0x1000, word := 0x08A50001 } x)
    ∧ laneRegs (.addi 5 5 1) = some [5, 5] ∧ ((Claim.laneFetching (laneCode [0x08A50001]) 0 1).th.laneTag 5).bits ∈ [8, 16, 32, 64]
    ∧ Claim.EntersBlock { pc := 0x1000, blkEnd := none, inVec := false, jumped := true } { addr := 0x1000, word := 0xF4200000 } 2 :=
  ⟨.inr ⟨rfl, by decide +kernel, rfl⟩,
    ⟨{ pc := 0x1000, blkEnd := none, inVec := false, jumped := true }, _, by unfold Claim.LaneTurn; decide +kernel, .inl ⟨_, by decide +kernel, rfl, ⟨0x1000, 0x1F, rfl, by decide +kernel, rfl⟩, rfl⟩⟩,
    rfl, by decide +kernel, rfl, rfl, rfl, by decide +kernel⟩

theorem witness_encode : (Instr.addi 5 6 0x10000).encodable = true ∧ decode (encode (.addi 5 6 0x10000) 2) = .ok ⟨.addi 5 6 0x10000, true, 2⟩
    ∧ (Instr.addi 5 6 16).encodable = true ∧ Claim.payload (.addi 5 6 16) = none ∧ Claim.payload (.vld ⟨32, 5, 0, ⟨true, 0, 0, true, 1⟩⟩) =
      some ⟨true, 0, 0, true, 1⟩ := ⟨rfl, rfl, rfl, rfl, rfl⟩

theorem witness_memory : MemOk (code [0x08A60010]) ∧ steps (code [0x08A60010]) (fun _ => true) = true := by
  unfold MemOk; decide +kernel

/-! ## Barriers -/

/-- A barrier object at 0x20000, named by s5, with the operand `x` of barinit in s6, and the object's bytes as a word. -/
def barred (x obj : Nat) (f : Thread → Thread := id) : State :=
  let s := paged (st0 fun t => f { t with sregs := [(5, 0x20000), (6, BitVec.ofNat 64 x), (7, 0x20008)] })
  { s with mem := memPuts s.mem 0x20000 (leBytes 64 obj) }

/-- R251: an initialised object of a count, its context 5, its launch at queue 3. -/
def object (count : Nat) : Nat := count + 0x5A * 2 ^ 24 + 5 * 2 ^ 128 + 3 * 2 ^ 192

theorem reaches {s : State} {kind : AKind} {a : W64} {n : Nat} {rop : RemoteOp} {flat leaf : Nat}
    (h : (match s.access s.cur s.who (!s.th.sup) kind (scalarTarget s.partyCore a) n rop with
      | .at f l => f == flat && l == leaf
      | _ => false) = true) : Claim.ReachesAt s kind a n rop flat leaf := by
  unfold Claim.ReachesAt
  split at h
  · rename_i f l he
    simp only [Bool.and_eq_true, beq_iff_eq] at h
    rw [he, h.1, h.2]
  · exact absurd h (by decide)

/-- R251, R256: count 2, scope 1; a count of 0 traps 8, scope 3 without BKS 9, a misaligned address MISALIGN. -/
theorem test_barinit : runs (.barinit 5 6) (barred 0x10002 0) (fun t => t.byte 0x20000 == 2 && t.byte 0x20002 == 1 && t.byte 0x20003 == 0x5A) = true
    ∧ runs (.barinit 5 6) (barred 0x10000 0) (fun t => t.th.trap.info == BitVec.ofNat 64 (cBARFAULT + 8 * 256)) = true
    ∧ runs (.barinit 5 6) (barred 0x40002 0) (fun t => t.th.trap.info == BitVec.ofNat 64 (cBARFAULT + 8 * 256)) = true
    ∧ runs (.barinit 5 6) (barred 0x30002 0) (fun t => t.th.trap.info == BitVec.ofNat 64 (cBARFAULT + 9 * 256)) = true
    ∧ runs (.barinit 7 6) (barred 2 0) (fun t => t.th.trap.info == BitVec.ofNat 64 cMISALIGN && t.th.trap.va == 0x20008) = true := by decide +kernel

/-- An object of count 1, and one of count 2. -/
def bar1 : State := barred 1 (object 1)
def bar2 : State := barred 2 (object 2)
/-- One arrival of the thread stands in the object of count 2. -/
def arrived2 : State := after (.bararr 5) bar2

/-- R257: an arrival completes a phase of count 1; of count 2 the thread then waits, and a second arrival traps 3. -/
theorem test_arrive_and_wait : ((after (.bararr 5) bar1).barActive 0x20000).map (fun o => (o.arrived, o.phase)) = some (0, 1)
    ∧ (arrived2.barActive 0x20000).map (fun o => (o.arrived, o.phase)) = some (1, 0)
    ∧ runs (.barwait 5) arrived2 (fun t => t.th.hold == .barrier 0x20000 0x1004 0x20000 && t.th.pc == arrived2.th.pc) = true
    ∧ runs (.barwait 5) (after (.bararr 5) bar1) (fun t => t.th.hold == .none && (t.th.barpend.get 0 0).getLsbD 0 == false) = true
    ∧ runs (.bararr 5) arrived2 (fun t => t.th.trap.info == BitVec.ofNat 64 (cBARFAULT + 3 * 256)) = true
    ∧ runs (.barwaitA 5) bar2 (fun t => t.th.hold == .barrier 0x20000 0x1004 0x20000 && t.th.barHidden.isSome) = true
    ∧ runs (.barwaitA 5) bar1 (fun t => t.th.hold == .none) = true := by decide +kernel

/-- R258: no initialised object 1, another context's 2, a broken one 10, no entry 5, no free entry 7. -/
theorem test_barrier_faults : runs (.bararr 5) (barred 1 0) (fun t => t.th.trap.info == BitVec.ofNat 64 (cBARFAULT + 256)) = true
    ∧ runs (.bararr 5) (after (.barrierBroken 0x20000) arrived2) (fun t => t.th.trap.info == BitVec.ofNat 64 (cBARFAULT + 10 * 256)) = true
    ∧ runs (.barwait 5) (after (.barrierBroken 0x20000) arrived2) (fun t => t.th.trap.info == BitVec.ofNat 64 (cBARFAULT + 10 * 256)) = true
    ∧ runs (.barwait 5) bar1 (fun t => t.th.trap.info == BitVec.ofNat 64 (cBARFAULT + 5 * 256)) = true
    ∧ runs (.bararr 5) (bar1.mod fun t => { t with barpend := [(0, 1), (1, 1), (2, 1), (3, 1)] })
      (fun t => t.th.trap.info == BitVec.ofNat 64 (cBARFAULT + 7 * 256)) = true
    ∧ runs (.bararr 5) (bar1.mod fun t => { t with ctx := 5, group := none }) (fun _ => true) = true := by decide +kernel

/-- R252: an idle object is written back and dropped; one with an arrival stays. -/
theorem test_barrier_writeback : runs (.barrierWriteback 0x20000) (after (.bararr 5) bar1) (fun t => t.barActive 0x20000 == none && t.byte 0x20008 == 1) = true
    ∧ runs (.barrierWriteback 0x20000) arrived2 (fun t => (t.barActive 0x20000).isSome) = true := by decide +kernel

theorem witness_barinit : Claim.ObjectAt (barred 2 0) .write 5 0x20000 ∧ (barred 2 0).barFlat ((barred 2 0).getS 5) = some 0x20000
    ∧ ((barred 2 0).getS 6).toNat % 2 ^ 16 ≠ 0 ∧ (barred 2 0).barActive 0x20000 = none ∧ (barred 2 0).th.pipe = [] ∧ (barred 2 0).th.pending = []
    ∧ ((arrived2.barActive 0x20000).map fun o => decide (o.arrived = 0)) = some false ∧ arrived2.isLent 0x20000 = false
    ∧ Claim.ObjectAt arrived2 .write 5 0x20000 :=
  ⟨⟨by decide +kernel, by decide +kernel, 0x1F, reaches (by decide +kernel)⟩, by decide +kernel, by decide +kernel, by decide +kernel, by decide +kernel, by decide +kernel,
    by decide +kernel, by decide +kernel, ⟨by decide +kernel, by decide +kernel, 0x1F, reaches (by decide +kernel)⟩⟩

theorem witness_barriers : Claim.ObjectAt bar2 .read 5 0x20000 ∧ (bar2.barObj 0x20000).inited = true ∧ (bar2.barObj 0x20000).broken = false
    ∧ bar2.mayArrive 0 (bar2.barObj 0x20000) = true ∧ (bar2.bars.filter fun e => e.1 / 2 ^ 33 / 16 == 0).length < 1024
    ∧ (∀ i, i < 4 → (bar2.th.barpend.get 0 i).getLsbD 0 = false) ∧ bar2.th.barHidden = none ∧ Claim.completes (bar2.barObj 0x20000) = false
    ∧ Claim.completes (bar1.barObj 0x20000) = true ∧ bar2.th.stall = [] ∧ Claim.MayTrap bar2 ∧ Claim.EntryOf arrived2.th 0x20000 0
    ∧ Claim.recorded arrived2.th 0 = (arrived2.barObj 0x20000).phase % 128 ∧ Claim.ObjectAt arrived2 .read 5 0x20000
    ∧ Claim.recorded (after (.bararr 5) bar1).th 0 ≠ ((after (.bararr 5) bar1).barObj 0x20000).phase % 128 :=
  ⟨⟨by decide +kernel, by decide +kernel, 0x1F, reaches (by decide +kernel)⟩, by decide +kernel, by decide +kernel, by decide +kernel, by decide +kernel, by decide +kernel,
    by decide +kernel, by decide +kernel, by decide +kernel, by decide +kernel, by unfold Claim.MayTrap; decide +kernel,
    ⟨by decide, by decide +kernel, fun j hj => absurd hj (Nat.not_lt_zero j)⟩, by decide +kernel,
    ⟨by decide +kernel, by decide +kernel, 0x1F, reaches (by decide +kernel)⟩, by decide +kernel⟩

/-! ## Asynchronous copy -/

/-- A copy of 10 words in strips of 4 from 0x400 to 0x800 of the scratchpad, its descriptor at 0x40, named by s8; `f` changes the thread. -/
def copying (strip : Nat) (f : Thread → Thread := id) : State :=
  { st0 fun t => f { t with sregs := [(5, 1), (6, 3), (7, 4), (8, 0xF000000000000040), (9, 0xF000000000000048)], v := { t.v with mtr := { space := 0 } } } with
    mem := memPuts (memPuts [] (2 ^ 62 + 0x40) (leBytes 64 (0xF000000000000400 + 0xF000000000000800 * 2 ^ 64 + 10 * 2 ^ 128 + strip * 2 ^ 160
      + 2 * 2 ^ 176 + 4 * 2 ^ 192 + 4 * 2 ^ 224))) (2 ^ 62 + 0x400) (leBytes 8 0x0102030405060708) }

/-- Configured, its first strip started, and complete. -/
def configured : State := after (.xcfg 8 0) (copying 4)
def started : State := after (.stripStart 0 0) configured
def striped : State := after (.stripComplete 0 0 1) started

/-- R294, R295, R297: three identifiers; the first strip copies its bytes and DONE passes it. -/
theorem test_copy : configured.th.ch0.next = 4 ∧ (configured.th.ch0.xfers.map fun x => (x.first, x.count, x.strip, x.esz)) = [(1, 3, 4, 4)]
    ∧ started.th.ch0.active = [1] ∧ striped.th.ch0.done = 2 ∧ striped.byte (2 ^ 62 + 0x807) = 1 ∧ striped.byte (2 ^ 62 + 0x800) = 8
    ∧ runs (.xtid 10 0) configured (fun t => t.getS 10 == 3) = true ∧ runs (.xtid 10 0) st0 (fun t => t.getS 10 == 0) = true := by decide +kernel

/-- R293, R299: a strip of 0 or above 64 KiB traps COPYFAULT 1, an identifier not assigned 3, a misaligned descriptor MISALIGN. -/
theorem test_copy_faults : runs (.xcfg 8 0) (copying 0) (fun t => t.th.trap.info == BitVec.ofNat 64 (cCOPYFAULT + 256)) = true
    ∧ runs (.xcfg 8 0) (copying 16384) (fun t => t.th.ch0.next == 2) = true
    ∧ runs (.xcfg 8 0) (copying 16385) (fun t => t.th.trap.info == BitVec.ofNat 64 (cCOPYFAULT + 256)) = true
    ∧ runs (.xcfg 9 0) (copying 4) (fun t => t.th.trap.info == BitVec.ofNat 64 cMISALIGN) = true
    ∧ runs (.xwait 7 0) configured (fun t => t.th.trap.info == BitVec.ofNat 64 (cCOPYFAULT + 3 * 256)) = true
    ∧ runs (.xwait 6 0) configured (fun t => t.th.hold == .xwait 0) = true ∧ runs (.xwait 5 0) striped (fun t => t.th.hold == .none) = true
    ∧ runs (.stripBufferError 0 0) started (fun t => t.th.ch0.frz && t.th.ch0.err == 5) = true := by decide +kernel

/-- Whether the front, or the entry of a routing, reads what stands at an address. -/
def readsFront (s : State) (a : W64) (flat n : Nat) : Bool :=
  match readRun s s.cur 0 (!s.th.sup) (scalarTarget (coreOf s.cur)) a n with
  | .ok u bs => bs == memGets s.mem flat n && u.th == { s.th with stall := u.th.stall } && u.mem == s.mem
  | _ => false
def readsEntry (s : State) (r : Routing) (a : W64) (flat : Nat) : Bool :=
  match readRun (s.mod (·.routed r)) s.cur 1 (!s.th.sup) (scalarTarget (coreOf s.cur)) a 64 with
  | .ok _ bs => bs == memGets s.mem flat 64
  | _ => false

theorem reads_ok {s : State} {a : W64} {flat n : Nat} (h : readsFront s a flat n = true) :
    ∃ u, readRun s s.cur 0 (!s.th.sup) (scalarTarget (coreOf s.cur)) a n = .ok u (memGets s.mem flat n) := by
  unfold readsFront at h
  split at h
  · rename_i u bs he
    simp only [Bool.and_eq_true, beq_iff_eq] at h
    exact ⟨u, by rw [he, h.1.1]⟩
  · exact absurd h (by decide)

theorem entry_reads {s : State} {r : Routing} {a : W64} {flat : Nat} (h : readsEntry s r a flat = true) :
    ∃ v, Claim.EntryReads s r a (memGets s.mem flat 64) v := by
  unfold readsEntry at h
  split at h
  · rename_i u bs he
    rw [beq_iff_eq] at h
    exact ⟨_, u, by rw [he, h], rfl⟩
  · exact absurd h (by decide)

theorem witness_xcfg : Claim.Idle (copying 4) ∧ ((copying 4).getS 8).toNat % 64 = 0
    ∧ (∃ v, Claim.EntryReads (copying 4) (xcfgRouting 8 0 (copying 4).th) ((copying 4).getS 8) (memGets (copying 4).mem (2 ^ 62 + 0x40) 64) v)
    ∧ (∃ v, Claim.EntryReads (copying 4) (xcfgRouting 9 0 (copying 4).th) ((copying 4).getS 9) (memGets (copying 4).mem (2 ^ 62 + 0x48) 64) v)
    ∧ leNat (memGets (copying 4).mem (2 ^ 62 + 0x40) 64) / 2 ^ 160 % 2 ^ 16 = 4 ∧ ((copying 4).th.chan 0).frz = false ∧ Claim.MayTrap (copying 4)
    ∧ (2 ^ 48 < 2 ^ 48 - 2 + 3) :=
  ⟨by unfold Claim.Idle; decide +kernel, by decide +kernel, entry_reads (by decide +kernel), entry_reads (by decide +kernel), by decide +kernel,
    by decide +kernel, by unfold Claim.MayTrap; decide +kernel, by decide⟩

theorem witness_xwait : (configured.th.chan 0).next ≤ (configured.getS 7).toNat ∧ (configured.getS 6).toNat < (configured.th.chan 0).next
    ∧ (configured.th.chan 0).done ≤ (configured.getS 6).toNat ∧ (striped.getS 5).toNat < (striped.th.chan 0).done ∧ (configured.th.chan 0).frz = false
    ∧ ((after (.stripBufferError 0 0) started).th.chan 0).frz = true := by decide +kernel

/-- Two words are copied one word upward: the second source is the first destination. -/
def chained : State := after (.stripStart 0 0) (after (.xcfg 8 0)
  { copying 2 with mem := memPuts (memPuts [] (2 ^ 62 + 0x40) (leBytes 64 (0xF000000000000400 + 0xF000000000000404 * 2 ^ 64 + 2 * 2 ^ 128 + 2 * 2 ^ 160
      + 2 * 2 ^ 176 + 4 * 2 ^ 192 + 4 * 2 ^ 224))) (2 ^ 62 + 0x400) (leBytes 8 0x0102030405060708) })

/-- The places of the writes of identifier 1 with some data, or with what its sources hold before them. -/
def stripPlaces (s : State) : Option (List (List Byte) × Option (List (List Byte))) :=
  ((s.th.chan 0).xferOf 1).bind fun x =>
    let srcs := (x.elems 1).map (·.1)
    let order := s.readOrder 0 x srcs
    match (readElems 0 0 x.user (x.srcTarget 0) x.esz order s).1 with
    | .ok u data =>
      match placeElems 0 0 x.user (x.dstTarget 0) (stripWrites (x.dstTarget 0) (x.elems 1) (spread x order data srcs)) u with
      | .ok w places => some (data, rereadElems 0 0 x order data places w)
      | _ => none
    | _ => none

/-- R296: a source that the strip itself writes is read as the old or the new value. -/
theorem test_strip_overlap : stripPlaces chained = some ([leBytes 4 0x05060708, leBytes 4 0x01020304], some [leBytes 4 0x05060708, leBytes 4 0x05060708])
    ∧ (after (.stripComplete 0 0 1) chained).freeCtr = 2
    ∧ chained.behind 0 (chained.th.chan 0) 1 = false := by decide +kernel

theorem witness_strips : (stripPlaces started).map (·.2) = some none ∧ started.behind 0 (started.th.chan 0) 1 = false ∧ (configured.th.chan 0).xfers.length = 1 ∧ ((configured.th.chan 0).xfers.map fun x => (decide (x.started < x.count), x.lead)) = [(true, 0)]
    ∧ 1 ∈ (started.th.chan 0).active ∧ (started.th.chan 0).waiting = [] ∧ (configured.th.chan 0).asked = false
    ∧ (configured.arb (engineOf 0)).busy = false ∧ (configured.th.chan 0).finished = [] ∧ (started.th.chan 0).active ≠ [] ∧ (configured.th.chan 0).active = [] := by decide +kernel

/-! ## Lifetime links -/

/-- A send descriptor at 0x20000 of the page table, s5: 5,000 bytes at 0x40000 under tag N32 to package 1, SOUT 0x28000; the stub's
copy there is s6. Package 1 is of the domain, and the context 9 there is its peer. -/
def sending (len pkg : Nat) (f : Thread → Thread := id) : State :=
  let s := paged (st0 fun t => f { t with sregs := [(5, 0x20000), (6, 0x28000), (7, 1), (8, 0x100000), (9, 0x1000)] })
  { s with
    mem := memPuts (memPuts s.mem 0x20000 (leBytes 64 (0x40000 + len * 2 ^ 64 + 2 * 2 ^ 96 + pkg * 2 ^ 102 + 0x28000 * 2 ^ 256))) 0x30008
      (leBytes 8 (2 ^ 63 + 9))
    ctxs := [(5, { ctx5 with ptroot := 0x10000, peertab := 0x30000 })], urnyx := { s.urnyx with members := [0, 1] } }
/-- Sent. -/
def sent : State := after (.dsend 10 5) (sending 5000 1)

/-- R281, R276: page 4 is lent, d takes the SID of serial 1, and the stub leaves for package 1; no length and no other package trap. -/
theorem test_dsend : sent.getS 10 = 0x10000 ∧ (sent.origins.map fun o => (o.link, o.pages, o.holders)) = [(1, [4], [(1, 0)])]
    ∧ sent.isLent 0x40000 = true ∧ sent.fabricOut.length = 1
    ∧ runs (.dsend 10 5) (sending 0 1) (fun t => t.th.trap.info == BitVec.ofNat 64 (cLINKFAULT + 256) && t.th.trap.stop.length == 1
      && t.th.trap.epc == t.th.trap.pc + 4) = true
    ∧ runs (.dsend 10 5) (sending (2 ^ 30 + 1) 1) (fun t => t.th.trap.info == BitVec.ofNat 64 (cLINKFAULT + 256)) = true
    ∧ runs (.dsend 10 5) (sending 5000 0) (fun t => t.th.trap.info == BitVec.ofNat 64 (cLINKFAULT + 2 * 256)) = true
    ∧ runs (.dsend 10 5) (sending 5000 2) (fun t => t.th.trap.info == BitVec.ofNat 64 (cLINKFAULT + 2 * 256)) = true := by decide +kernel

/-- R285: the sender's stub is open with one reference. -/
theorem test_dlstat : runs (.dlstat 10 6) sent (fun t => t.getS 10 == 0x108) = true
    ∧ runs (.dlstat 10 5) sent (fun t => t.th.trap.info == BitVec.ofNat 64 (cLINKFAULT + 4 * 256)) = true := by decide +kernel

theorem reads64 {s : State} {a : W64} {flat : Nat} (ha : a.toNat % 64 = 0) (hp : s.th.pending = []) (h : readsFront s a flat 64 = true) :
    ∃ v, Claim.Reads64 s a (memGets s.mem flat 64) v :=
  have ⟨u, hu⟩ := reads_ok h
  ⟨_, ha, hp, u, hu, rfl⟩

theorem witness_send_read :
    ∃ v, Claim.EntryReads (sending 5000 1) (linkRouting .dsend 10 5 0 (sending 5000 1).th) 0x20000 (memGets (sending 5000 1).mem 0x20000 64) v :=
  entry_reads (by decide +kernel)

theorem witness_dsend : (sending 5000 1).getS 5 = 0x20000 ∧ Claim.Idle (sending 5000 1) ∧ Claim.MayReach (sending 5000 1) 5 1
    ∧ (match sendPages (sending 5000 1) 0 true 0 0 1 0x40000 with | .ok l => l == [4] | _ => false) = true
    ∧ Claim.MayTrap (sending 0 1) ∧ ((sending 5000 1).getS 9).toNat % 64 = 0 ∧ ((sending 5000 1).getS 7).toNat % 64 ≠ 0
    ∧ (match (sending 5000 1).soutPlace 0 true 0x28000 with | .flat f _ => f == 0x28000 | _ => false) = true := by
  unfold Claim.MayTrap Claim.MayReach Claim.Idle; decide +kernel

theorem witness_good_send : Claim.GoodSend (0x40000 + 5000 * 2 ^ 64 + 2 * 2 ^ 96 + 2 ^ 102 + 0x28000 * 2 ^ 256)
    ∧ Claim.GoodSend (0x40000 + 2 ^ 30 * 2 ^ 64 + 2 * 2 ^ 96 + 2 ^ 102) ∧ ¬Claim.GoodSend (0x40000 + 2 * 2 ^ 96 + 2 ^ 102 + 0x28000 * 2 ^ 256) := by
  unfold Claim.GoodSend; decide +kernel

/-- A stub of package 1 delivered to context 5, its window at 0x100000; its 64 bytes stand at 0x28000. -/
def stub1 : Stub := { sid := 0x0400000000010000, oaddr := 0x40000, len := 5000, tag := 2, octx := 9, hop := 0, shape := 0, laddr := 0x100000, ver := 0 }
def holding (st : LinkState := .delivered) (flight : List Nat := []) (f : Thread → Thread := id) : State :=
  let s := sending 5000 1 f
  { s with mem := memPuts s.mem 0x28000 (stubBytes stub1), holders := [{ ctx := 5, stub := stub1, st, pulled := 0, flight }]
           ctxs := [(5, { ctx5 with ptroot := 0x10000, peertab := 0x30000, windows := [⟨0, 65536, stub1.sid, false⟩] })] }

/-- R282, R283: dpull of the window's first segment; ddrop frees the window and sends the drop, and waits for a pull in flight. -/
theorem test_dpull_ddrop : runs (.dpull 8 9) (holding) (fun t => (t.holders.map fun h => (h.flight, h.st)) == [([0], .pulling)] && t.fabricOut.length == 1) = true
    ∧ runs (.dpull 8 11) (holding .delivered [] fun t => { t with sregs := t.sregs ++ [(11, 0x40000001)] })
      (fun t => t.th.trap.info == BitVec.ofNat 64 (cLINKFAULT + 9 * 256)) = true
    ∧ runs (.ddrop 6) (holding) (fun t => t.holders.isEmpty && (t.ctx 5).windows.isEmpty && t.fabricOut == [.dropped 1 stub1.sid]) = true
    ∧ runs (.ddrop 6) (holding .pulling [0]) (fun t => t.th.pipe.length == 1 && t.holders.length == 1) = true
    ∧ runs (.ddrop 6) { holding with holders := [] } (fun t => t.th.trap.info == BitVec.ofNat 64 (cLINKFAULT + 5 * 256)) = true := by decide +kernel

/-- A byte of the window's first segment, pulled as `pulled` says, on a page with DB = 1 when `leaf` is 0x201F. -/
def windowByte (leaf pulled : Nat) : State :=
  let s := holding
  { s with mem := memPuts (memPuts s.mem 0x12000 (leBytes 8 leaf)) 0x100000 [7]
           holders := [{ ctx := 5, stub := stub1, st := .pulling, pulled, flight := [] }] }

/-- R283: the unpulled segment of a dropped stub reads as zero; a pulled one, and ordinary memory, keep their bytes. -/
theorem test_ddrop_blanks : runs (.ddrop 6) (windowByte 0x201F 0) (fun t => t.byte 0x100000 == 0 && t.holders.isEmpty) = true
    ∧ runs (.ddrop 6) (windowByte 0x201F 1) (fun t => t.byte 0x100000 == 7) = true
    ∧ runs (.ddrop 6) (windowByte 0x1F 0) (fun t => t.byte 0x100000 == 7) = true := by decide +kernel

theorem witness_unpulled : Claim.Unpulled (windowByte 0x201F 0) { ctx := 5, stub := stub1, st := .pulling, pulled := 0, flight := [] } 0x100000 :=
  ⟨0, 0x201F, 30, by decide +kernel⟩

/-- R290: the reference granted to package 1's dresend for package 2 ends with package 1's loss until its delivery is acknowledged. -/
theorem test_forwarder_lost : runs (.peerLossTimeout 1) (after (.referenceRequest 1 2 0x10000) sent) (fun t => (t.origins.map (·.refs)) == [0]) = true
    ∧ runs (.peerLossTimeout 1) (after (.deliveryAck 0x10001) (after (.referenceRequest 1 2 0x10000) sent))
      (fun t => (t.origins.map (·.refs)) == [1]) = true := by decide +kernel

theorem witness_links : ((holding).holders.map fun h => (h.ctx, h.stub.sid)).Nodup ∧ stubOk (memGets (holding).mem 0x28000 64) = true
    ∧ (holding).holder 5 stub1.sid = some { ctx := 5, stub := stub1, st := .delivered, pulled := 0, flight := [] }
    ∧ stub1.sid.toNat / 2 ^ 58 = 1 ∧ (holding).urnyx.number = 0 ∧ Claim.Held .delivered ∧ ¬Claim.Held .severed
    ∧ stubOk (memGets (holding).mem 0x20000 64) = false ∧ (holding).th.refStub = none ∧ Claim.MayReach holding 5 1 ∧ Claim.Idle holding ∧ stub1.hop ≠ 15 := by
  unfold Claim.MayReach Claim.Idle; decide +kernel

theorem witness_stub_read : (∃ v, Claim.Reads64 holding 0x28000 (memGets (holding).mem 0x28000 64) v)
    ∧ ∃ v, Claim.EntryReads holding (linkRouting .ddrop 0 6 0 (holding).th) 0x28000 (memGets (holding).mem 0x28000 64) v :=
  ⟨reads64 (by decide +kernel) (by decide +kernel) (by decide +kernel), entry_reads (by decide +kernel)⟩

/-- The entry of a dresend that has asked for its reference, and the state that holds it, with the origin's reply. -/
def askingEntry : Entry := { (linkRouting .dresend 10 6 7 (holding).th).ent with begun := true }
def asking (r : Option RefReply) : State :=
  holding .delivered [] fun t => { t with pipe := [askingEntry], refStub := some stub1, refReply := r, asked := [(4, 1, stub1.sid, false)] }

/-- R284: dresend asks; the grant of number 7 gives the SID with it. -/
theorem test_dresend : runs (.dresend 10 6 7) (holding) (fun t => t.th.pipe == [askingEntry] && t.fabricOut == [.refReq 1 1 stub1.sid]) = true
    ∧ ((asking (some (.granted 7))).drain 0).1.getS 10 = 0x0400000000010007
    ∧ ((asking (some .noLink)).drain 0).1.th.trap.info = BitVec.ofNat 64 (cLINKFAULT + 6 * 256)
    ∧ ((asking (some .exhausted)).drain 0).1.th.trap.info = BitVec.ofNat 64 (cLINKFAULT + 7 * 256)
    ∧ ((asking none).drain 0).1.th.pipe = [askingEntry] := by decide +kernel

theorem witness_dresend : (asking none).th.refStub = some stub1 ∧ (asking (some (.granted 7))).th.refReply = some (.granted 7)
    ∧ ¬((asking (some .noLink)).th.sup = true ∧ (asking (some .noLink)).th.trap.inTrap = true) ∧ (asking none).lane = none ∧ (asking none).th.pipe = [askingEntry] ∧ askingEntry.op = .dresend
    ∧ askingEntry.inAcc = true ∧ askingEntry.accDone = false ∧ askingEntry.inExe = false ∧ askingEntry.dropped = false
    ∧ askingEntry.partWay = false ∧ askingEntry.begun = true ∧ askingEntry.k = 0 ∧ askingEntry.d < 32 ∧ askingEntry.buf = [] ∧ askingEntry.fl = []
    ∧ (asking none).th.fetch = none := by decide +kernel

/-- Context 5's inbound descriptor at 0x50000: a ring of 64 slots at 0x60000, `wr` stubs delivered, a landing region of `lsz` pages at 0x100000. -/
def receiving (wr lsz : Nat) : State :=
  let s := paged st0
  { s with
    mem := memPuts s.mem 0x50000 (leBytes 64 (0x60000 + 6 * 2 ^ 64 + wr * 2 ^ 128 + 0x100000 * 2 ^ 256 + lsz * 2 ^ 320))
    ctxs := [(5, { ctx5 with ptroot := 0x10000, lnkin := 0x50001 })], urnyx := { s.urnyx with members := [0, 1] } }

/-- With no context. -/
def gone : State := { receiving 0 4 with ctxs := [] }
/-- A stub of a whole page, so that no byte of its window is beyond its last segment. -/
def stub2 : Stub := { stub1 with len := 65536 }

/-- R279: the stub is delivered to the window at LAND, its slot and WR are written and it is acknowledged; again, it is a duplicate; in
a full ring it waits; a window above LSZ is refused. -/
theorem test_delivery : runs (.stubDelivery 1 5 stub2) (receiving 0 4) (fun t => (t.holders.map fun h => h.stub.laddr) == [0x100000]
      && t.byte 0x50010 == 1 && t.byte 0x60007 == 4 && t.fabricOut == [.ack 1 stub1.sid] && (t.ctx 5).landPtr == 65536) = true
    ∧ runs (.stubDelivery 1 5 stub1) (holding) (fun t => t.holders.length == 1 && t.fabricOut == [.ack 1 stub1.sid]) = true
    ∧ runs (.stubDelivery 1 5 stub2) (receiving 64 4) (fun t => t.transit.length == 1 && t.holders.isEmpty) = true
    ∧ runs (.stubDelivery 1 5 stub2) gone (fun t => t.fabricOut == [.refuse 1 stub1.sid]) = true := by decide +kernel

theorem witness_delivery : ((receiving 0 4).holder 5 stub1.sid).isNone = true ∧ ((receiving 0 4).ctx 5).lnkin.getLsbD 0 = true
    ∧ (match (receiving 0 4).ownAccess 5 .read ((receiving 0 4).descAddr 5) with | .at f _ => f == 0x50000 | _ => false) = true
    ∧ (let n := (receiving 0 4).load 0x50000 64; inboundOk n && [(inboundOf n).ring, (inboundOf n).logcap, (inboundOf n).wr, (inboundOf n).rd,
        (inboundOf n).land, (inboundOf n).lsz] == [0x60000, 6, 0, 0, 0x100000, 4]) = true
    ∧ (inboundOf ((receiving 64 4).load 0x50000 64)).wr = 2 ^ 6 ∧ placeWindow ((receiving 0 4).ctx 5) (4 * 65536) 65536 = some 0
    ∧ (match windowPages (receiving 0 4) 5 0x100000 1 with | .pages l => l == [0x100000] | _ => false) = true
    ∧ (match (receiving 0 4).ownAccess 5 .write 0x60000, (receiving 0 4).ownAccess 5 .write 0x50010 with
      | .at f _, .at g _ => f == 0x60000 && g == 0x50010
      | _, _ => false) = true := by decide +kernel

theorem witness_delivery_refused : ((holding).holder 5 stub1.sid).isSome = true ∧ ((receiving 0 4).ctx 5).st ≠ .dead
    ∧ ((receiving 0 4).ctx 5).st ≠ .tearing ∧ (gone.ctx 5).st = .dead ∧ 1 ≠ (receiving 0 4).urnyx.number := by decide +kernel

/-- R289: the ways in which the sender's stub ends; R287: its segment is served, zeros behind its length; R284: derivation 1. -/
theorem test_origin : runs (.deliveryAck 0x10000) sent (fun t => (t.origins.map (·.st)) == [.delivered]) = true
    ∧ runs (.deliveryRefusal 0x10000) sent (fun t => (t.origins.map (·.st)) != [.opened]) = true
    ∧ runs (.dropMessage 0x10000) sent (fun t => !t.isLent 0x40000) = true ∧ runs (.endMessage 0x10000) sent (fun t => !t.isLent 0x40000) = true
    ∧ runs (.pullRequest 1 0x10000 1) sent (fun t => (t.origins.map fun o => (o.st, o.served)) == [(.pulling, 1)]) = true
    ∧ runs (.referenceRequest 1 2 0x10000) sent (fun t => (t.origins.map fun o => (o.refs, o.nextSub)) == [(2, 2)]) = true
    ∧ runs (.severNotice stub1.sid) (holding) (fun t => (t.holders.map (·.st)) == [.severed]) = true
    ∧ runs (.segmentLanding stub1.sid 0 .unknown) (holding .pulling [0]) (fun t => (t.holders.map fun h => (h.st, h.flight)) == [(.severed, [])]) = true
    ∧ runs (.referenceGrant ⟨1, stub1.sid⟩ (.granted 7)) (asking none) (fun t => t.th.refReply == some (.granted 7)) = true := by decide +kernel

theorem witness_origin : ((sent.liveOrigin 0x10000).map (·.refs)) = some 1 ∧ (st0.liveOrigin 0x10000).isNone = true
    ∧ ((holding .pulling [0]).holders.find? fun h => h.stub.sid == stub1.sid && h.flight.contains 0).isSome = true
    ∧ (holding .pulling [0]).remoteHeld = [] ∧ (holding .pulling [0]).landing 5 0x100000 = some (0x100000, 0x1F) ∧ (holding .pulling [0]).isLent 0x100000 = false
    ∧ ((asking none).threads.find? fun e => e.2.asked.any (fun q => q.1 == 4 && q.2.2.1 == stub1.sid) && e.2.refReply.isNone).isSome = true := by
  decide +kernel

/-- A store to the lent page, its thread's stall at `n`. -/
def lentStore (n : Nat) : State := sent.mod fun t => { t with sregs := [(5, 0x40000), (6, 7)], stall := [(0, n)] }

/-- R288, R290: the store holds until the bound, then traps LENTWRITE; the loss of package 1 severs its stubs. -/
theorem test_lent : runs (.sd 6 5 0) (lentStore 0) (fun t => t.th.hold == .lent 0x40000) = true
    ∧ runs (.lentwriteBound 0) (lentStore 0) (fun t => runs (.sd 6 5 0) t fun u => u.th.trap.info == BitVec.ofNat 64 cLENTWRITE) = true
    ∧ runs (.peerLossTimeout 1) (holding) (fun t => (t.holders.map (·.st)) == [.severed]) = true
    ∧ runs .hostLentWriteTimeout { st0 with hostHeld := [{ func := 1, addr := 0x40000, bytes := [1], op := none }] } (fun t => t.hostHeld.isEmpty) = true := by
  decide +kernel

theorem witness_lent : (match (lentStore 0).translate 0 5 true .write [0] 0x40000 with | .lent f => f == 0x40000 | _ => false) = true
    ∧ (lentStore 0).th.stall.get 0 0 < ((lentStore 0).ctx 5).lnkbnd * 1024 ∧ (lentStore 0).lockstep = true ∧ (lentStore 0).th.acquiring = false ∧ (lentStore 0).th.descOpen = false
    ∧ (Claim.address (lentStore 0) 5 0) = 0x40000 ∧ Claim.MayTrap (lentStore 0) ∧ (holding).reachable 1 = true ∧ 1 ≠ (holding).urnyx.number
    ∧ (st0.reachable 1) = false := by
  unfold Claim.MayTrap; decide +kernel

/-! ## Work queues and launches -/

/-- Queue 4 of partition 1 under context 5, its ring of 64 entries at 0x70000; the entry at its head is `e`. The kernel descriptor at
0x80000 has the entry point 0x1000, level 0 marked C, and one lane group; nothing is loaded. -/
def queue4 (q : QueueSt) (e : Nat) : State :=
  let s := paged st0
  { s with
    mem := memPuts (memPuts (memPuts s.mem 0x70000 (leBytes 64 e)) 0x80000 (leBytes 128 (0x1000 + 2 * 2 ^ 64 + 2 ^ 72 + 3 * 2 ^ 136))) 0x90000 (leBytes 64 2)
    queues := [(4, q)], groups := [], launches := [], threads := [(0, { thr0 with sregs := [(5, 4), (6, 0x90000), (7, 0x90008), (8, 3)] })] }
/-- One entry stands in the ring. -/
def open4 (st : QState := .ready) (src : Bool := true) : QueueSt := { base := 0x70000, ctx := 5, src, tail := 1, st }
/-- A launch of KDESC 0x80000 with trip count 2. -/
def entry1 : Nat := 1 + 0x80000 * 2 ^ 64 + 2 * 2 ^ 384

/-- R228: a no-op is appended behind the entry; a full ring traps QFULL 1, a queue the host fills 2, another's 3. -/
theorem test_launch : runs (.launch 5 6) (queue4 open4 2) (fun t => (t.q 4).tail == 2 && t.byte 0x70040 == 2) = true
    ∧ runs (.launch 5 6) (queue4 { open4 with tail := 64 } 2) (fun t => t.th.trap.info == BitVec.ofNat 64 (cQFULL + 256)) = true
    ∧ runs (.launch 5 6) (queue4 { open4 with tail := 63 } 2) (fun t => (t.q 4).tail == 64) = true
    ∧ runs (.launch 5 6) (queue4 (open4 .ready false) 2) (fun t => t.th.trap.info == BitVec.ofNat 64 (cQFULL + 2 * 256)) = true
    ∧ runs (.launch 8 6) (queue4 open4 2) (fun t => t.th.trap.info == BitVec.ofNat 64 (cQFULL + 3 * 256)) = true
    ∧ runs (.launch 5 7) (queue4 open4 2) (fun t => t.th.trap.info == BitVec.ofNat 64 cMISALIGN) = true := by decide +kernel

theorem witness_launch : Claim.Serving (queue4 open4 2 |>.q 4).st ∧ ((queue4 open4 2).q 4).ctx = (queue4 open4 2).th.ctx ∧ (part1.qBase ≤ 4 ∧ 4 < part1.qBase + part1.qCount)
    ∧ (queue4 open4 2).th.pipe = [] ∧ ((queue4 open4 2).q 4).src = true ∧ ((queue4 open4 2).q 4).tail - ((queue4 open4 2).q 4).head ≠ 2 ^ 6
    ∧ readsFront (queue4 open4 2) 0x90000 0x90000 64 = true
    ∧ (match (queue4 open4 2).access 0 0 true .write (open4.target (open4.slot 1)) 64 (.write []) with | .at f _ => f == 0x70040 | _ => false) = true := by
  unfold Claim.Serving; decide +kernel

/-- R222, R225, R227: QTAIL moves within the ring; enable, drain and clear; a foreign queue freezes the function. -/
theorem test_queue_windows : runs (.qtailWrite 1 4 2) (queue4 (open4 .ready false) 2) (fun t => (t.q 4).tail == 2) = true
    ∧ runs (.qtailWrite 1 4 65) (queue4 (open4 .ready false) 2) (fun t => (t.q 4).tail == 1 && (t.fn 1).evlost == 1) = true
    ∧ runs (.qtailWrite 1 4 64) (queue4 (open4 .ready false) 2) (fun t => (t.q 4).tail == 64) = true
    ∧ runs (.queueEnable 1 4 (5 + 6 * 2 ^ 12 + 2 ^ 19)) (queue4 { open4 .disabled with tail := 0 } 2) (fun t => (t.q 4).st == .empty && (t.q 4).seqw == 1) = true
    ∧ runs (.queueEnable 1 4 (5 + 5 * 2 ^ 12 + 2 ^ 19)) (queue4 { open4 .disabled with tail := 0 } 2) (fun t => (t.q 4).st == .disabled) = true
    ∧ runs (.queueDrain 1 4 0) (queue4 open4 2) (fun t => (t.q 4).st == .draining) = true
    ∧ runs (.queueClear 1 4 0) (queue4 (open4 .errored) 2) (fun t => (t.q 4).st == .empty && (t.q 4).head == 1) = true
    ∧ runs (.qtailWrite 1 16 2) (queue4 open4 2) (fun t => (t.fn 1).frozen) = true := by decide +kernel

theorem witness_queue_windows : Claim.OwnQueue (queue4 open4 2) 1 4 1 ∧ (queue4 open4 2).partOf 1 = some 1 ∧ ((queue4 open4 2).fn 1).frozen = false
    ∧ part1.qBase + part1.qCount ≤ 16 ∧ Claim.Serving open4.st ∧ ¬Claim.Serving (open4 .draining).st ∧ open4.fin = []
    ∧ ((queue4 open4 2).ctx 5).st ≠ .frozen := by
  unfold Claim.OwnQueue Claim.Serving; decide +kernel

/-- Taken from the head: a launch of two groups. -/
def taken : State := after (.queueHeadTake 4) (queue4 open4 entry1)

/-- R225, R234: types 1 and 2 are taken, another errors the queue with 1, a reserved bit with 2, a foreign queue with 3. -/
theorem test_head : (taken.launches.map fun l => (l.q, l.seq, l.n, l.kern.lg, l.kern.entry)) = [(4, 0, 2, 1, 0x1000)] ∧ (taken.q 4).head = 1
    ∧ runs (.queueHeadTake 4) (queue4 open4 2) (fun t => (t.q 4).compl == 1) = true ∧ runs (.queueHeadTake 4) (queue4 open4 3) (fun t => (t.q 4).err == 1) = true
    ∧ runs (.queueHeadTake 4) (queue4 open4 (2 + 2 ^ 13)) (fun t => (t.q 4).err == 2 && (t.q 4).st == .errored) = true
    ∧ runs (.queueHeadTake 4) (queue4 open4 (2 + 2 ^ 11 + 16 * 2 ^ 32)) (fun t => (t.q 4).err == 3) = true
    ∧ runs (.queueHeadTake 4) (queue4 open4 (2 + 2 ^ 11 + 15 * 2 ^ 32 + 2 ^ 256)) (fun t => (t.q 4).st == .blocked) = true := by decide +kernel

theorem witness_head : (match (queue4 open4 entry1).frontRead 4 0 open4.target (open4.slot 0) 64 with | .ok _ bs => leNat bs == entry1 | _ => false) = true
    ∧ (match (queue4 open4 entry1).readDesc 4 entry1 with
      | .desc w (some d) => !kernelBad w 1 false d (Claim.tripOf entry1) && groupsOf (kernelOf d).marks (Claim.tripOf entry1) == 2 && !(kernelOf d).bks
      | _ => false) = true ∧ open4.placing = none ∧ ((queue4 open4 entry1).ctx 5).st = .running := by decide +kernel

/-- R224, R239: the launch that is over writes its record and passes COMPL. -/
def finished (crec : W64) : State :=
  { queue4 { open4 with head := 1 } 2 with launches := [{ launch1 with q := 4, crec, retired := 1 }] }

theorem test_launch_complete : runs (.launchComplete 7) (finished 0x91000) (fun t => t.launches.isEmpty && (t.q 4).compl == 1) = true
    ∧ runs (.launchComplete 7) st0 (fun t => t.launches.length == 1) = true := by decide +kernel

theorem witness_launch_complete : ((finished 0x91000).lau 7).map (fun l => (l.retired, l.n, l.placed, l.crec)) = some (1, 1, 1, 0x91000)
    ∧ (finished 0x91000).threads.all (fun e => e.2.exitedOf != some 7) = true ∧ (finished 0x91000).holders = [] ∧ ((finished 0x91000).ctx 5).st = .running
    ∧ (match (finished 0x91000).frontWrite 4 0 0x91000 (leBytes 8 0) with | .done _ => true | _ => false) = true ∧ ((finished 0).lau 7).isSome = true := by decide +kernel

/-! ## Groups -/

/-- With every core free and two save records; then with a group placed. -/
def idle4 : State := { taken with cores := [], ctxs := [(5, { ctx5 with ptroot := 0x10000, savecnt := 2 })] }
def placed : State := after (.placeGroup 1) idle4

/-- R234, R235: a group is placed with its lane group, and loaded it stands at ENTRY with its number and the trip count. -/
theorem test_place_and_load : (placed.groups.map fun g => (g.g, g.st, g.lgs, g.mems.length)) = [(0, .loading, [1], 1)]
    ∧ (placed.launches.map (·.placed)) = [1] ∧ runs (.groupLoadComplete ((placed.groups.head?.map (·.id)).getD 0)) placed (fun t =>
      (t.groups.map (·.st)) == [.loaded] && (t.thOf 0).pc == 0x1000 && getScalar (t.thOf 0) none 8 == 2 && getScalar (t.thOf 0) none 6 == 2) = true := by
  decide +kernel

theorem witness_place : let u := idle4.applySlices 1
    ((Claim.offered u 1).map fun x => match x with | .launch id => (u.tryItem (.launch id)).isSome | _ => false) = [true] ∧ (u.eligible 1) ≠ [] := by
  decide +kernel

/-- A stopping group whose thread is at rest. -/
def stopping : State := { st0 with groups := [{ group1 with st := .stopping }] }

/-- R216, R240: the save keeps the thread and frees its core. -/
theorem test_save : runs (.saveComplete 1) stopping (fun t => (t.groups.map (·.st)) == [.saved] && (t.core 0).lg == [0, 0, 0, 0]
    && (t.groups.all fun g => (g.save.map fun r => r.thr.sregs) == some thr0.sregs)) = true := by decide +kernel

theorem witness_groups : (placed.groups.map fun g => (g.st, (placed.lau g.launch).isSome, g.save.isNone)) = [(.loading, true, true)]
    ∧ stopping.grp 1 = some { group1 with st := .stopping } ∧ group1.mems ≠ [] ∧ Claim.AtRest (stopping.thOf (Claim.home group1))
    ∧ group1.records = [0] ∧ group1.mems = [(0, 0)] ∧ group1.scrb = 4 ∧ ((stopping.thOf 0).v.members.map fun m => (m.attached, m.core)) = [(true, 0)] := by
  unfold Claim.AtRest; decide +kernel

/-! ## Slices, contexts and pages -/

/-- One lane group offered after an exit of launch 7; a member marked for detachment; and a member detached, with core 1 clean. -/
def offer : State := st0.modCore 0 fun c => { c with returned := [(7, 1)] }
def marked : State := st0.mod fun t => { t with v := { t.v with members := [mem0, { mem0 with core := 1, mark := some false }] } }
def detached : State :=
  let s := st0.mod fun t => { t with v := { t.v with members := [mem0, { mem0 with core := 1, attached := false }] } }
  { s with cores := s.cores ++ [(1, { clean := true })] }

/-- R245 to R247, R213. -/
theorem test_slices : runs (.returnedLanesTimeout 0) offer (fun t => (t.core 0).lg == [2, 0, 0, 0]) = true
    ∧ runs (.spanDetachTimeout 0) marked (fun t => (t.groups.map (·.st)) == [.stopping]) = true
    ∧ runs (.spanAttachMark 0 1) detached (fun t => (t.th.v.members.map (·.mark)) == [none, some true] && (t.core 1).lg.getD 0 0 == 1) = true
    ∧ runs (.svtCharge 0) st0 (fun t => (t.ctx 5).svt == 256) = true ∧ runs (.preemptForSpace 1) st0 (fun _ => true) = true
    ∧ runs (.pendingAgeLimit 1) { st0 with pend := [(1, [.launch 7])] } (fun t => (t.part 1).aged) = true := by decide +kernel

theorem witness_slices : (offer.core 0).returned = [(7, 1)] ∧ ((marked.thOf 0).v.members.any fun m => m.mark == some false) = true
    ∧ (marked.thOf 0).group = some 1 ∧ marked.grp 1 = some group1 ∧ 1 ∈ (detached.part 1).cores ∧ (detached.core 1).clean = true
    ∧ detached.freeTid 1 = some 0 ∧ detached.seatOk 1 2 { id := some 1, g := 0, lgs := [1], scrb := 4, off := some 0, palm := 1 } 0 1 = true
    ∧ ((st0.groups.find? fun g => g.st.holds && g.mems.any (·.1 == 0) && g.mems.contains (0, 0)).isSome) = true
    ∧ ({ st0 with pend := [(1, [.launch 7])] } : State).eligible 1 ≠ [] := by decide +kernel

/-- The window of function 1 has started MCMD `op` on context `c`, with MARG `arg`; link 0 is up. -/
def commanded (op c arg : Nat) : State :=
  { st0 with funcs := [(1, { mcmd := BitVec.ofNat 64 (op + 16 * c), marg := BitVec.ofNat 64 arg, todo := true, mstat := 0x8000000000000000 })]
             pcie := [(0, { up := true, rate := 5, width := 16 })], groups := [], launches := [], threads := [] }
/-- A context descriptor at host address 0x1000: context `n`, its save area of 4 MiB at 0, its table at 0x10000. -/
def creating (n quant : Nat) : State :=
  let s := commanded 1 0 0x1000
  { s with mem := memPuts [] (hostFlat 0x1000) (leBytes 64 (n + 2 * 2 ^ 12 + 2 ^ 24 + quant * 2 ^ 32 + 0x10000 * 2 ^ 64 + 2 ^ 192 + 0x8000 * 2 ^ 320)) }

/-- MSTAT's status. -/
def mstat (s : State) : Nat := (s.fn 1).mstat.toNat % 256

/-- R207, R208, R343: CREATE, its refusals in order, and the other commands. -/
theorem test_commands : runs (.create 1) (creating 6 1) (fun t => mstat t == 0 && (t.ctx 6).st == .created && (t.ctx 6).quant == 2 && (t.ctx 6).qraised) = true
    ∧ runs (.create 1) (creating 16 1) (fun t => mstat t == 1) = true ∧ runs (.create 1) (creating 5 1) (fun t => mstat t == 2) = true
    ∧ runs (.create 1) (creating 6 0) (fun t => mstat t == 3) = true ∧ runs (.create 1) (commanded 1 0 0x1008) (fun t => mstat t == 7) = true
    ∧ runs (.setslice 1) (commanded 2 5 0x907) (fun t => mstat t == 0 && (t.ctx 5).sliceNext == some (7, 9)) = true
    ∧ runs (.setslice 1) (commanded 2 5 7) (fun t => mstat t == 3) = true ∧ runs (.setslice 1) (commanded 2 6 0x907) (fun t => mstat t == 5) = true
    ∧ runs (.query 1) (commanded 5 5 0) (fun t => (t.fn 1).mstat == 0x8000000000000200) = true
    ∧ runs (.freeze 1) (commanded 3 5 0) (fun t => (t.ctx 5).st == .frozen) = true ∧ runs (.teardown 1) (commanded 4 5 0) (fun t => (t.ctx 5).st == .tearing) = true
    ∧ runs (.softError 5 none) st0 (fun t => (t.ctx 5).st == .frozen) = true
    ∧ runs (.commandComplete (.mgmt 1)) { st0 with funcs := [(1, { mstat := 0x8000000000000000 })] } (fun t => (t.fn 1).mstat == 0) = true := by decide +kernel

theorem witness_commands : Claim.Begun (commanded 2 5 0x907) 1 2 ∧ (commanded 2 5 0x907).partOf 1 = some 1 ∧ Claim.named (commanded 2 5 0x907) 1 = 5
    ∧ Claim.InRange (commanded 2 5 0x907) 1 5 ∧ Claim.InRange (commanded 2 5 0x907) 1 15 ∧ ¬Claim.InRange (commanded 2 5 0x907) 1 16
    ∧ ((commanded 2 5 0x907).ctx 5).st = .running ∧ ((commanded 2 5 0x907).ctx 6).st = .dead ∧ Claim.Begun (creating 6 1) 1 1
    ∧ ((creating 6 1).pcie.get {} 0).up = true ∧ (creating 6 1).load (hostFlat 0x1000) 64 % 2 ^ 12 = 6 ∧ (creating 6 1).groups = [] := by
  unfold Claim.Begun Claim.InRange; decide +kernel

/-- Context 5 tearing down, waiting for page 2, and cached translations of pages 2 and 3. -/
def ending (st : CtxState) : State :=
  { st0 with ctxs := [(5, { ctx5 with st, waits := [⟨2, 1, none⟩] })], groups := [{ group1 with st := .saved, mems := [] }]
             tlb := [{ unit := 0, ctx := 5, page := 2, leaf := 0x1F, lvl := 16 }, { unit := 1536, ctx := 5, page := 3, leaf := 0x1F, lvl := 16 }] }

/-- R221, R220. -/
theorem test_teardown : runs (.teardownComplete 5) (ending .tearing) (fun t => (t.ctx 5).st == .dead && t.tlb.isEmpty) = true
    ∧ runs (.functionReset 1) st0 (fun t => (t.ctx 5).st == .tearing && t.groups.isEmpty) = true := by decide +kernel

theorem witness_teardown : ((ending .tearing).ctx 5).st = .tearing ∧ (ending .tearing).origins = [] ∧ st0.partOf 1 = some 1 ∧ 5 ∈ st0.ctxsOf 1
    ∧ (st0.thOf (Claim.home group1)).pipe = [] ∧ 0 ∈ st0.coresHeld 5 := by decide +kernel

/-- PGCMD `op` on page 2 of the thread's context. -/
def paging (op : Nat) (st : CtxState) : State :=
  (ending st).mod fun t => { t with pgcmd := { cmd := BitVec.ofNat 64 (op + 2 * 2 ^ 16), busy := true, todo := true } }

/-- R271, R272: INVAL drops the page's translation alone; PAGEDONE also marks the wait, and the context is saved. -/
theorem test_pages : runs (.inval (.pgcmd 0)) (paging 1 .faulted) (fun t => (t.tlb.map (·.page)) == [3] && (t.ctx 5).st == .faulted) = true
    ∧ runs (.pagedone (.pgcmd 0)) (paging 2 .faulted) (fun t => (t.tlb.map (·.page)) == [3] && (t.ctx 5).st == .saved) = true
    ∧ runs (.pagedone (.mgmt 1)) (commanded 7 5 0x40) (fun t => mstat t == 19) = true := by decide +kernel

theorem witness_pages : Claim.PageCmd (paging 1 .faulted) (.pgcmd 0) 1 5 (1 + 2 * 2 ^ 16) ∧ ¬Claim.Unaligned (1 + 2 * 2 ^ 16)
    ∧ Claim.Unaligned (1 + 2 ^ 3 + 2 * 2 ^ 16) ∧ (paging 1 .faulted).rangeLent 5 (rangeOf (1 + 2 * 2 ^ 16)) = false
    ∧ ((paging 2 .faulted).groups.all fun g => g.ctx == 5 && g.st == .saved) = true ∧ Claim.Begun (commanded 7 5 0x40) 1 7 := by
  unfold Claim.PageCmd Claim.Unaligned Claim.Begun; decide +kernel

/-- A fault record of page 2, and an event ring of 64 records at host address 0x4000. -/
def faulting : State :=
  { st0 with faults := [{ ctx := 5, owner := 2, path := 0, kind := 2, migw := false, va := 0x20008, core := 0, thr := 0, seq := 0, part := 1, posted := false }]
             funcs := [(1, { evbase := 0x4000, evctl := 0x26 })] }

/-- R269, R273: the walk caches the leaf; the record stands in the ring. -/
theorem test_faults : runs (.pageWalk ⟨0, 5⟩ 0x20008) (paged st0) (fun t => (t.tlb.map fun e => (e.ctx, e.page, e.lvl)) == [(5, 2, 30), (5, 2, 30)]) = true
    ∧ runs (.faultRecordPost 0) faulting (fun t => (t.fn 1).evwr == 1 && t.byte (hostFlat 0x400A) == 2 && t.byte (hostFlat 0x4002) == 0x40) = true
    ∧ runs (.nearCacheEvict 9) { st0 with nearLines := [9, 10] } (fun t => t.nearLines == [10]) = true := by decide +kernel

theorem witness_faults : (match (paged st0).walk 5 0x20008 with | .leaf e lo => e == 0x1F && lo == 30 | _ => false) = true ∧ (paged st0).tlb = []
    ∧ ((faulting.faults.find? fun f => f.core / 384 == 0 && !f.posted).isSome) = true ∧ (faulting.faults.all fun f => decide (f.ctx < 2 ^ 12)
      && decide (f.owner < 2 ^ 6) && decide (f.path < 8) && decide (f.kind < 4) && decide (f.core < 2 ^ 11) && decide (f.thr < 4)) = true := by
  decide +kernel

/-! ## Strings, power and harm -/

/-- The four cores of string 0 charged 20,000, 0, 0 and 0 in the interval. -/
def unbalanced : State := st0.modCore 0 fun c => { c with charge := 20000 }

/-- R327, R328: a spread above UB halves the limit. -/
theorem test_string : runs (.stringIntervalEnd 0) unbalanced (fun t => (t.str 0).limit == 32 && (t.str 0).deficit.getD 1 0 == 6144 && (t.core 0).charge == 0
    && runs (.washIssue 1) t (fun u => (u.core 1).charge == 64 * t.wtab 18)) = true := by decide +kernel

theorem witness_string : (after (.stringIntervalEnd 0) unbalanced).contenders 1 = [] ∧ ((after (.stringIntervalEnd 0) unbalanced).str 0).off = false
    ∧ ((after (.stringIntervalEnd 0) unbalanced).str 0).deficit.getD 1 0 ≠ 0 := by decide +kernel

/-- R336, R337: a cluster that asks for B2 with two permits is granted it; one too hot falls to 0 and its cap to a half. -/
theorem test_power : let s := { st0 with parts := [(1, { part1 with permits := 2 })], cls := [(0, { req := 2 })] }
    runs (.powerInterval 0 { hot := false, amps := [], watts := [] }) s (fun t => (t.clu 0).cur == 2 && (t.part 1).permits == 0) = true
      ∧ runs (.powerInterval 0 { hot := true, amps := [], watts := [] }) s (fun t => (t.clu 0).cur == 0 && (t.clu 0).cap == 32) = true
      ∧ runs (.supplyDroop 0) s (fun t => (t.clu 0).cap == 32 && (t.clu 0).droop) = true := by decide +kernel

/-- Two requests of owners 2 and 3 at an arbiter of class 4, owner 3 ahead in virtual time. -/
def contended : State :=
  { st0 with arbs := [(4 * 2 ^ 20, { waiting := [{ key := 66, beats := 1, blame := 67, age := 3 },
                                                  { key := 67, beats := 1, blame := 66, age := 5 }], vt := [(66, 10), (67, 20)] })] }
/-- One of them alone, behind owner 3. -/
def waits : State :=
  { st0 with arbs := [(4 * 2 ^ 20, { waiting := [{ key := 66, beats := 1, blame := 67, age := 3 }]
                                     serving := some { key := 67, beats := 1, blame := 66, age := 0 } })] }

/-- R314: the smaller VT goes first, and pays 4,096 ÷ 64; R309: the wait is charged to the one served. -/
theorem test_harm : runs (.arbiterGrant (4 * 2 ^ 20)) contended (fun t => ((t.arb (4 * 2 ^ 20)).serving.map (·.key)) == some 66
      && (t.arb (4 * 2 ^ 20)).vtOf 66 == 10 + 4096 / st0.weight 66) = true
    ∧ runs (.quantumPost (4 * 2 ^ 20)) waits (fun t => (t.part 1).delay.get 0 (cellIdx 4 2 3) == 1 && (t.arb (4 * 2 ^ 20)).hsUp.get 0 67 == 1) = true
    ∧ runs (.hbmRefresh (4 * 2 ^ 20) true) st0 (fun t => (t.arb (4 * 2 ^ 20)).env) = true
    ∧ runs (.budgetInterval 0) { st0 with mgr := [(0x9A1, 3)] } (fun t => (t.budgets.get {} 1).rd == 3 * 4096) = true := by decide +kernel

/-- A read of `n` bytes of partition 1 past its budget of 12,288 on link 0. -/
def overBudget (n : Nat) : State :=
  ({ st0 with mgr := [(0x9A1, 3)] } : State).hostRequest 0 true 66 n false

/-- R308, R310 (the chain in one step table): owner 7 waits at port 0, which owner 2 holds while channel 0 serves owner 5. -/
def portChain : State :=
  { st0 with arbs := [(2 * 2 ^ 20, { waiting := [{ key := 71, beats := 2, blame := 71, age := 0 }]
                                     serving := some { key := 66, beats := 2, blame := 66, age := 0, next := [4 * 2 ^ 20] } }),
                      (4 * 2 ^ 20, { waiting := [{ key := 66, beats := 1, blame := 66, age := 0 }]
                                     serving := some { key := 69, beats := 1, blame := 69, age := 0 } })] }

/-- R308, R309: the wait at the port is owner 5's, and the port grants nothing while the channel serves; R16: a die-to-die link grants its
head, whatever the virtual times. -/
theorem test_chain : runs (.quantumPost (2 * 2 ^ 20)) portChain (fun t => t.delayCell 1 2 7 5 == 1 && t.delayCell 1 2 7 2 == 0) = true
    ∧ runs (.arbiterGrant (2 * 2 ^ 20)) portChain (fun t => t == portChain) = true
    ∧ runs (.arbiterGrant (3 * 2 ^ 20 + 2 ^ 19 + 1)) { st0 with arbs := [(3 * 2 ^ 20 + 2 ^ 19 + 1,
        { waiting := [{ key := 66, beats := 1, blame := 66, age := 0 }, { key := 67, beats := 1, blame := 67, age := 9 }], vt := [(66, 9)] })] }
      (fun t => ((t.arb (3 * 2 ^ 20 + 2 ^ 19 + 1)).serving.map (·.key)) == some 66 && (t.arb (3 * 2 ^ 20 + 2 ^ 19 + 1)).vt == [(66, 9)]) = true := by
  decide +kernel

/-- R317: a request past its budget waits for the interval, and is not granted before it; one larger than an interval's budget takes that
interval's, and 4,096 bytes of the next one's. -/
theorem test_budget : ((overBudget 4096).arb 0x600000).ready = [] ∧ ((overBudget 4096).arb 0x600000).waiting.length = 1
    ∧ runs (.arbiterGrant 0x600000) (overBudget 4096) (fun t => (t.arb 0x600000).waiting.length == 1) = true
    ∧ runs (.budgetInterval 0) (overBudget 4096) (fun t => (t.arb 0x600000).ready.length == 1 && (t.budgets.get {} 1).rd == 8192) = true
    ∧ runs (.budgetInterval 0) (overBudget 16384) (fun t => (t.arb 0x600000).ready.length == 1 && (t.budgets.get {} 1).rd == 0
      && (t.budgets.get {} 1).rdDue == 4096 && runs (.budgetInterval 0) t fun u => (u.budgets.get {} 1).rd == 8192) = true := by decide +kernel

theorem witness_budget : ((overBudget 4096).arb (6 * 2 ^ 20 + 0)).waiting = [{ key := 66, beats := 64, blame := 66, age := 0, need := 4096 }]
    ∧ ((overBudget 4096).arb (6 * 2 ^ 20 + 1)).waiting = [] := by decide +kernel

theorem witness_harm : (contended.arb (4 * 2 ^ 20)).waiting.length = 2 ∧ (contended.arb (4 * 2 ^ 20)).harmed = [] ∧ (contended.arb (4 * 2 ^ 20)).env = false
    ∧ vtDiff ((contended.arb (4 * 2 ^ 20)).vtOf 66) ((contended.arb (4 * 2 ^ 20)).vtOf 67) = -10 ∧ (waits.arb (4 * 2 ^ 20)).waiting.length = 1
    ∧ arbCls (4 * 2 ^ 20) = 4 ∧ (waits.arb (4 * 2 ^ 20)).serving.isSome = true := by decide +kernel

theorem witness_power : (∀ p, ({ st0 with cls := [(0, { req := 2 })] } : State).partOfCluster 0 = some p → p < 16)
    ∧ ({ st0 with cls := [(0, { req := 2 })] } : State).partOfCluster 0 = some 1 := by
  have h : ({ st0 with cls := [(0, { req := 2 })] } : State).partOfCluster 0 = some 1 := by decide +kernel
  exact ⟨fun p hp => by rw [h] at hp; cases hp; decide, h⟩

/-! ## The host, Urnyx and the fabric -/

/-- R343, R342, R49, R330: commands, ring controls and bases, an offset with no register, manager registers and the reserved values beside
their ranges. -/
theorem test_windows : runs (.registerWrite (.mgmt 1 0x00) 0x55) st0 (fun t => (t.fn 1).todo && t.agenda == [.event (.query 1)]) = true
    ∧ runs (.registerWrite (.mgmt 1 0x00) 0x58) st0 (fun t => t.agenda == [.event (.attest 1)]) = true
    ∧ runs (.registerWrite (.mgmt 1 0x00) 0x59) st0 (fun t => (t.fn 1).mstat == 0x8000000000000006) = true
    ∧ runs (.registerWrite (.mgmt 1 0x00) 0x10055) st0 (fun t => !(t.fn 1).todo && (t.fn 1).evlost == 1) = true
    ∧ runs (.registerWrite (.mgmt 1 0x28) 16) st0 (fun t => (t.fn 1).evctl == 16) = true
    ∧ runs (.registerWrite (.mgmt 1 0x28) 17) st0 (fun t => (t.fn 1).evctl == 6) = true
    ∧ runs (.registerWrite (.mgmt 1 0x20) 0x1800) st0 (fun t => (t.fn 1).evbase == 0) = true
    ∧ runs (.registerWrite (.mgmt 1 0x10) 0) st0 (fun t => (t.fn 1).frozen) = true
    ∧ runs (.registerWrite (.manager 0x9D1 0) (8 + 3200 * 2 ^ 8)) st0 (fun t => t.mgrReg 0x9D1 == 8 + 3200 * 2 ^ 8) = true
    ∧ runs (.registerWrite (.manager 0x9D1 0) (7 + 3200 * 2 ^ 8)) st0 (fun t => t == st0) = true
    ∧ runs (.registerWrite (.manager 0x9D1 0) (8 + 3201 * 2 ^ 8)) st0 (fun t => t == st0) = true
    ∧ runs (.registerWrite (.queue 1 4 0x00) 0x5000) st0 (fun t => (t.q 4).base == 0x5000) = true
    ∧ runs (.registerWrite (.mgmt 0 0x100) 11) st0 (fun t => t.dbg.status == 7) = true := by decide +kernel

theorem witness_windows : (st0.fn 1).frozen = false ∧ (st0.fn 1).mstat.getLsbD 63 = false ∧ ((commanded 2 5 0).fn 1).mstat.getLsbD 63 = true
    ∧ Claim.RingCtl 16 ∧ ¬Claim.RingCtl 17 ∧ Claim.RingCtl 6 ∧ ¬Claim.RingCtl 5 ∧ (st0.fn 1).waiting = [] ∧ st0.dbg.busy = false
    ∧ Claim.OwnQueue st0 1 4 1 ∧ (st0.q 4).st = .disabled ∧ st0.urnyx.number = 0 ∧ st0.reachable 1 = false := by
  unfold Claim.RingCtl Claim.OwnQueue; decide +kernel

/-- R340, R342, R201, R203, R288. -/
theorem test_host : runs (.hostMemoryWrite 1 0x40 [1, 2]) st0 (fun t => t.byte 0x41 == 2) = true
    ∧ runs (.hostMemoryWrite 1 (2 ^ 33 - 1) [1, 2]) st0 (fun t => (t.fn 1).frozen && t.byte (2 ^ 33 - 1) == 0) = true
    ∧ runs (.hostMemoryRead 1 (.mem (2 ^ 33 - 2)) 2) st0 (fun t => t.hostOut == [[0, 0]]) = true
    ∧ runs (.hostMemoryRead 1 (.mem 0x40) 2) { st0 with funcs := [(1, { frozen := true })] } (fun t => t.hostOut == [[0xFF, 0xFF]]) = true
    ∧ runs (.hostAtomicop 1 0x40 (.fetchAdd 4 5)) st0 (fun t => t.hostOut == [[]] && t.byte 0x40 == 0) = true
    ∧ runs (.hostMemoryWrite 1 0x40000 [1]) sent (fun t => t.hostHeld.length == 1) = true
    ∧ runs .flushReadComplete st0 (fun t => t == st0) = true := by decide +kernel

/-- R5, R222, R343, R352, R326: reads of windows and of a manager register; an access behind one that waits (R204). -/
theorem test_host_reads : runs (.hostMemoryRead 1 (.queue 4 0x28) 8) st0 (fun t => t.hostOut == [List.replicate 8 0]) = true
    ∧ runs (.hostMemoryRead 1 (.mgmt 0x28) 8) st0 (fun t => t.hostOut == [leBytes 8 6]) = true
    ∧ runs (.hostMemoryRead 1 (.mgmt 0x100) 8) st0 (fun t => t.hostOut == [[]] && (t.fn 1).frozen) = true
    ∧ runs (.hostMemoryRead 0 (.manager 0x9D1 0) 8) st0 (fun t => (t.hostOut.getD 0 []).take 3 == leBytes 3 (64 + 3200 * 2 ^ 8)) = true
    ∧ runs (.hostMemoryRead 1 (.mem 0x40) 2) { st0 with hostHeld := [{ func := 1, addr := 0x40000, bytes := [1] }] }
        (fun t => t.hostOut.isEmpty && t.hostHeld.length == 2) = true := by decide +kernel

theorem witness_host_held : (∃ h ∈ ({ st0 with hostHeld := [{ func := 1, addr := 0x40000, bytes := [1] }] } : State).hostHeld, h.func = 1)
    ∧ (∀ h ∈ st0.hostHeld, h.func ≠ 1) :=
  ⟨⟨_, .head _, rfl⟩, by decide +kernel⟩

/-- The page of the thread's table marked system-atomic. -/
def shared : State := let s := paged st0; { s with mem := memPuts s.mem 0x12000 (leBytes 8 0x11F) }

theorem test_atomicop : runs (.hostAtomicop 1 0x40 (.fetchAdd 4 5)) shared (fun t => t.hostOut == [[0, 0, 0, 0]] && t.byte 0x40 == 5) = true := by
  decide +kernel

theorem own_range (a n : Nat) (h : 0 < n ∧ a + n ≤ 2 ^ 33) : Claim.OwnRange st0 1 a n := by
  refine ⟨1, by decide +kernel, h.1, by omega, fun b _ hb => ?_⟩
  have h0 : b / 2 ^ 33 = 0 := Nat.div_eq_of_lt (by omega)
  rw [h0]
  decide +kernel

theorem witness_host : Claim.OwnRange st0 1 0x40 2 ∧ Claim.LentIn sent 0x40000 1 ∧ shared.systemAtomic 1 0x40 = true ∧ st0.systemAtomic 1 0x40 = false
    ∧ st0.partOf 1 = some 1 :=
  ⟨own_range 0x40 2 (by omega), ⟨0x40000, by omega, by omega, by decide +kernel⟩, by decide +kernel⟩

theorem witness_host_outside : ¬Claim.OwnRange st0 1 (2 ^ 33 - 1) 2 := by
  rintro ⟨p, hp, -, -, h⟩
  have hq : st0.partOf 1 = some 1 := by decide +kernel
  rw [hq] at hp
  cases hp
  exact absurd (h (2 ^ 33) (by omega) (by omega)) (by decide +kernel)

theorem witness_attest : Claim.Begun (commanded 8 0 0x1000) 1 8 ∧ ¬Claim.Begun (commanded 5 5 0) 1 8 := by
  unfold Claim.Begun; decide +kernel

/-- R340, R346, R349: a rate that the manual names trains, another does not; a port that goes down stays down until it retrains. -/
theorem test_links : runs (.pcieLinkTraining 1 7 16) st0 (fun t => (t.pcie.get {} 1).up && (t.pcie.get {} 1).rate == 7) = true
    ∧ runs (.pcieLinkTraining 1 8 16) st0 (fun t => t == st0) = true ∧ runs (.pcieLinkTraining 2 7 16) st0 (fun t => t == st0) = true
    ∧ runs (.pcieLinkDown 0) (commanded 2 5 0) (fun t => !(t.pcie.get {} 0).up) = true
    ∧ runs (.cxlPortTraining 3 128) st0 (fun t => (t.cxl.get {} 3).up) = true ∧ runs (.cxlPortTraining 3 16) st0 (fun t => t == st0) = true
    ∧ runs (.cxlPortDown 3) st0 (fun t => (t.cxl.get {} 3).down && (t.fn 1).evlost == 1) = true
    ∧ runs (.glasalLinkTraining 11 2 true) st0 (fun t => (t.glasal.get {} 11).rate == 224) = true
    ∧ runs (.glasalLinkTraining 11 1 true) st0 (fun t => (t.glasal.get {} 11).rate == 112) = true
    ∧ runs (.glasalLinkTraining 12 1 true) st0 (fun t => t == st0) = true ∧ runs (.glasalFlitRetry 0 9) st0 (fun t => (t.glasal.get {} 0).retry == some 9) = true := by
  decide +kernel

/-- R193, R350: a peer's read, write and atomic in context 5; a dead context answers PROT. -/
theorem test_peers : runs (.remoteAccessRequest 1 5 0x40 true 4 (.read none)) (paged st0) (fun t => t.fabricOut == [.remoteReply 1 0x40 (.data [0, 0, 0, 0])]) = true
    ∧ runs (.remoteAccessRequest 1 5 0x40 true 2 (.write [1, 2])) (paged st0) (fun t => t.byte 0x41 == 2) = true
    ∧ runs (.remoteAccessRequest 1 5 0x40 true 4 (.atomic 0 7 0)) (paged st0) (fun t => t.byte 0x40 == 7) = true
    ∧ runs (.remoteAccessRequest 1 6 0x40 true 4 (.read none)) (paged st0) (fun t => t.fabricOut == [.remoteReply 1 0x40 .prot]) = true
    ∧ runs (.remoteAccessRequest 1 5 0x40 true 4 (.read none)) st0 (fun t => t.fabricOut == [.remoteReply 1 0x40 (.notPresent false)]) = true := by decide +kernel

/-- A thread that has asked package 1 for a read. -/
def remote : State := { st0 fun t => { t with asked := [(0, 1, 0x40, false)], hold := .remote 1 } with urnyx := { number := 0, members := [0, 1] } }

theorem test_remote_reply : runs (.remoteReply 0 1 0x40 (.data [7])) remote (fun t => t.th.replies.length == 1 && t.th.hold == .none) = true
    ∧ runs (.remoteReply 0 1 0x48 (.data [7])) remote (fun t => t == remote) = true := by decide +kernel

theorem witness_peers : (match (paged st0).translate ioCore 5 true .read [0, 1] 0x40 with | .ok f l => f == 0x40 && l == 0x1F | _ => false) = true
    ∧ ((paged st0).ctx 5).st ≠ .dead ∧ ((paged st0).ctx 5).st ≠ .tearing ∧ ((paged st0).ctx 6).st = .dead
    ∧ (match st0.translate ioCore 5 true .read [0, 1] 0x40 with | .notPresent _ => true | _ => false) = true
    ∧ (match sent.translate ioCore 5 true .write [0, 1] 0x40000 with | .lent f => f == 0x40000 | _ => false) = true ∧ remote.reachable 1 = true
    ∧ (remote.th.asked.find? fun q => q.1 != 4 && q.2.1 == 1 && q.2.2.1 == 0x40).isSome = true := by decide +kernel

/-- A second partition, on cluster 1. -/
def part2 : PartCfg :=
  { id := 2, func := 2, clusters := [1], slices := [1], ctxBase := 16, ctxCount := 16, qBase := 16, qCount := 16, saveMax := 2048, perm := 3 }

/-- R205, R206, R386, R348, R355: set up once; a partition keeps one cluster; a domain; a reset keeps memory. -/
theorem test_package : runs (.partitionSetup part2) st0 (fun two => (two.part 2).up && (two.part 2).permits == 3
      && runs (.partitionSetup { part2 with id := 3 }) two (fun t => t == two) && runs (.clusterMove 1 1) two (fun t => t == two)) = true
    ∧ runs (.partitionSetup { part2 with ctxBase := 15 }) st0 (fun t => t == st0) = true
    ∧ runs (.clusterMove 2 1) st0 (fun t => (t.part 1).clusters == [0, 2]) = true ∧ runs (.clusterMove 48 1) st0 (fun t => t == st0) = true
    ∧ runs (.domainSetup 3 [1, 3] 1) st0 (fun t => t.urnyx.number == 3 && t.urnyx.master == some 1) = true
    ∧ runs (.domainSetup 64 [1, 64] 1) st0 (fun t => t == st0) = true
    ∧ runs .packageReset { st0 with mem := [(9, 1)] } (fun t => t.byte 9 == 1 && t.threads.isEmpty) = true := by decide +kernel

theorem witness_package : Claim.MaySetUp st0 part2 := by
  refine ⟨by decide, by decide +kernel, by decide, by decide, by decide, by decide, by decide, by decide, by decide, fun e he _ => ?_⟩
  have h : e = (1, part1) := by simpa [st0] using he
  subst h
  refine ⟨by decide, by decide, by decide, fun k h1 h2 => ?_, fun k h1 h2 => ?_⟩ <;>
    simp only [part1, part2] at * <;> omega

theorem witness_moves : st0.groups.all (fun g => g.mems.all fun m => decide (m.1 / 384 * 12 + m.1 % 384 / 32 ≠ 2)) = true
    ∧ (st0.part 1).up = true ∧ 2 ∉ (st0.part 1).clusters ∧ st0.partOfCluster 2 = none ∧ st0.threads.all (fun e => e.2.exitedOf.isNone) = true := by
  decide +kernel

/-! ## Debug -/

/-- The debug window has started `op` on thread 0, with NUM, DARG and DDATA; the thread is halted where said. -/
def debugging (op num : Nat) (arg data : W64) (halted : Bool := true) : State :=
  { sup0 fun t => { t with halted } with dbg := { dcmd := BitVec.ofNat 64 (op + num * 2 ^ 23), darg := arg, ddata := data, status := 0, busy := true, todo := true } }

/-- R353: each operation, and STATUS 1 for a thread that is not halted. -/
theorem test_debug : runs .halt (debugging 1 0 0 0 false) (fun t => t.th.halted && t.dbg.status == 0) = true
    ∧ runs .resume (debugging 2 0 0 0) (fun t => !t.th.halted) = true ∧ runs .srrd (debugging 3 0x401 0 0) (fun t => t.dbg.ddata == 0x8000) = true
    ∧ runs .srrd (debugging 3 0x800 0 0) (fun t => t.dbg.status == 3) = true ∧ runs .srwr (debugging 4 0x401 0 0x9000) (fun t => t.th.trap.tvec == 0x9000) = true
    ∧ runs .sregrd (debugging 5 5 0 0) (fun t => t.dbg.ddata == 12) = true ∧ runs .sregwr (debugging 6 5 0 99) (fun t => t.getS 5 == 99) = true
    ∧ runs .memwr (debugging 8 0 0xF000000000000010 0x1122) (fun t => t.byte (2 ^ 62 + 0x11) == 0x11) = true
    ∧ runs .memrd (debugging 7 0 0xF000000000000011 0) (fun t => t.dbg.status == 4) = true
    ∧ runs .brkhalt (debugging 9 0 1 0 false) (fun t => t.th.haltBrk) = true ∧ runs .stoprd (debugging 10 0xFFF 0 0) (fun t => t.dbg.ddata == 0x1000) = true
    ∧ runs .sregrd (debugging 5 5 0 0 false) (fun t => t.dbg.status == 1) = true := by decide +kernel

/-- R355: the master's request is answered; another's gets 6. -/
theorem test_debug_forward : runs (.debugForward 1 (5 + 5 * 2 ^ 23) 0 0) { sup0 fun t => { t with halted := true } with urnyx := { master := some 1 } }
      (fun t => t.fabricOut == [.debugReply 1 0 12]) = true
    ∧ runs (.debugForward 2 (5 + 5 * 2 ^ 23) 0 0) (sup0) (fun t => t.fabricOut == [.debugReply 2 6 0]) = true := by decide +kernel

theorem witness_debug : Claim.Debuggable (debugging 5 5 0 0) 0 ∧ (debugging 5 5 0 0).dbg.todo = true ∧ Claim.dop (debugging 5 5 0 0).dbg.dcmd = 5
    ∧ Claim.dkey (debugging 5 5 0 0).dbg.dcmd = 0 ∧ Claim.dnum (debugging 5 5 0 0).dbg.dcmd = 5 ∧ Claim.Local 5 0 0
    ∧ Claim.Local 8 0 0xF000000000000010 :=
  ⟨⟨⟨1, group1, rfl, by decide +kernel, rfl⟩, by decide +kernel⟩, by decide +kernel, by decide +kernel, by decide +kernel, by decide +kernel,
    fun h => absurd h (by decide), fun _ pkg off h => by
      have e : scalarTarget (coreOf 0) 0xF000000000000010 = .spad 0 0x10 := by decide +kernel
      rw [e] at h
      cases h⟩

/-! ## Words that the spec writes out, and terms that no word has -/

/-- The example words of the spec's own sections. -/
theorem test_spec_words : readsAs
    [(0xF0A60021, .rdimb 5 6), (0xF0A60022, .rdsamp 5 6), (0xF0040029, .setwash 4), (0xF0040028, .hclr 4), (0x88A40006, .loop 5 1 0 6),
     (0x90A00020, .srr 5 0x020), (0xECC00021, .xtid 6 0), (0xEC070022, .xwait 7 0), (0xE0018011, .mrel 3), (0xE0618010, .mclaim 6 3),
     (0xE0918012, .mldt 9 3), (0xE0810013, .cbld 8 2), (0xCC22060C, .bxld 2 8 6 p0), (0xF0A63820, .rdharm 5 6 7), (0x94050420, .srw 0x420 5),
     (0xC0074800, .vcfg 0 7 0x12 0 0), (0xB8510000, .vsetl 5 4), (0x78220005, .bnone 1 5), (0xF0000001, .trap 0), (0x04000000, .add 0 0 0),
     (0xEC063801, .barinit 6 7), (0xEC060002, .bararr 6), (0xEC060003, .barwait 6), (0xEC060004, .barwaitA 6), (0xECA40030, .dsend 5 4),
     (0xEC0A5831, .dpull 10 11), (0xEC0B0032, .ddrop 11), (0xED8B6833, .dresend 12 11 13), (0xEDCB0034, .dlstat 14 11), (0xEC040020, .xcfg 4 0),
     (0xEC042810, .launch 4 5)] = true ∧ (decodeTableWord 32 0xF00A4010).isSome = true ∧ decode [0xFC021000, 0xE0818001] = .ok ⟨.mmax 8 3 2 4 0, true, 0⟩ :=
  ⟨by decide +kernel, by decide +kernel, rfl⟩

/-- An ill-formed term for each check of `encodable`: reserved fields and combinations (R76 to R90). -/
theorem test_not_encodable : ([.amoadd ⟨1, 2, 3, false, 1, 5⟩, .amoadd ⟨1, 2, 3, false, 0, 1⟩, .loop 1 0 0 0, .vcfg 7 6 0 0 0,
    .vld ⟨0, 5, 0, ⟨false, 1, 0, false, 0⟩⟩, .vld ⟨0, 5, 0, ⟨true, 1, 5, false, 0⟩⟩, .vld ⟨0, 5, 0, ⟨true, 2, 0, false, 0⟩⟩,
    .vld ⟨0, 5, 0, ⟨true, 0, 0, true, 0⟩⟩, .vld ⟨32, 5, 0, ⟨true, 0, 0, false, 0⟩⟩, .vld ⟨32, 5, 0, ⟨false, 0, 0, true, 0⟩⟩,
    .vst ⟨0, 5, 0, ⟨true, 1, 0, false, 0⟩⟩, .vamoAdd ⟨0, 5, 6, 0, ⟨true, 0, 0, true, 0⟩⟩, .xcfg 1 2, .xtid 1 2, .xwait 1 2, .fence 5 0 0, .fence 0 3 0,
    .fence 0 0 3, .xfence 0 2 0, .xfence 6 2 0, .xfence 2 0 0, .xfence 2 6 0, .xfence 2 2 0, .xfence 1 2 5] : List Instr).all
      (fun i => !i.encodable && !i.wellFormed) = true := by decide +kernel

/-- An ill-formed term for each limit of R74: `encodable`, but check 7 refuses a specifier. -/
theorem test_bad_specifiers : ([.bany 8 1, .vadd ⟨32, 0, 1, 0, false⟩, .vadd ⟨38, 0, 1, 0, false⟩, .vadd ⟨2, 36, 1, 0, false⟩, .vadd ⟨2, 0, 36, 0, false⟩,
    .vadd ⟨2, 0, 32, 0, true⟩, .vfma ⟨36, 0, 1, 0, false⟩, .vceq ⟨0, 0, 1, 0, false⟩, .vceq ⟨8, 0, 1, 0, false⟩, .vsqrt ⟨32, 0, 0⟩, .mand 0 1 2, .mand 1 8 2,
    .mand 1 2 8, .mnot 1 8, .vslideup ⟨2, 0, 32, 0⟩, .viota 32 0, .vins 2 32 1, .vins 2 1 32, .vext 32 0 1, .vext 1 36 1, .vext 1 0 32, .mpop 32 1, .mpop 1 8,
    .vraddT ⟨32, 0, 6, 0⟩, .vraddT ⟨5, 0, 32, 0⟩, .vsetl 32 1, .vsetl 1 32, .vmt 32, .vld ⟨36, 5, 0, ⟨true, 0, 0, true, 0⟩⟩, .vld ⟨0, 32, 0, p0⟩,
    .vldS ⟨0, 5, 32, 0, p0⟩, .vldX ⟨0, 5, 32, 0, p0⟩, .vst ⟨32, 5, 0, ⟨true, 0, 0, true, 0⟩⟩, .vamoAdd ⟨32, 5, 6, 0, p0⟩, .bxld 0 8 6 p0, .bxld 1 8 32 p0,
    .capp 32 0 p0, .mma 32 0 1 0, .mma 0 24 1 0, .mma 0 0 24 0, .mmax 0 0 36 0 0, .mmax 0 0 0 36 0, .mclaim 32 0, .mclaim 1 24, .mrel 24, .mldt 1 24,
    .cbld 1 16] : List Instr).all (fun i => i.encodable && !i.specifiersOk && !i.wellFormed) = true := by decide +kernel

/-- Terms at the edges of those limits are well formed; an event is no word. -/
theorem test_well_formed : ([.bany 7 1, .vadd ⟨37, 35, 31, 0, true⟩, .vceq ⟨7, 35, 35, 0, false⟩, .vld ⟨35, 31, 7, ⟨true, 1, 4, true, 0⟩⟩, .vst ⟨37, 31, 7, ⟨true, 2, 4, true, 0⟩⟩,
    .mma 31 23 23 7, .cbld 31 15, .xfence 5 1 4, .fence 4 2 2] : List Instr).all (·.wellFormed) = true ∧ Instr.packageReset.wellFormed = false := by
  decide +kernel

/-- Words of R73 to R90 with distinct field values, written from the encodings: add to sel. -/
theorem test_words_register : readsAs
    [(0x04A63800, .add 5 6 7), (0x04A63801, .sub 5 6 7), (0x04A63802, .mul 5 6 7), (0x04A63803, .mulh 5 6 7),
     (0x04A63804, .mulhu 5 6 7), (0x04A63805, .div 5 6 7), (0x04A63806, .divu 5 6 7), (0x04A63807, .rem 5 6 7),
     (0x04A63808, .remu 5 6 7), (0x04A63810, .and 5 6 7), (0x04A63811, .or 5 6 7), (0x04A63812, .xor 5 6 7),
     (0x04A63818, .sll 5 6 7), (0x04A63819, .srl 5 6 7), (0x04A6381A, .sra 5 6 7), (0x04A63820, .slt 5 6 7),
     (0x04A63821, .sltu 5 6 7), (0x04A63822, .seq 5 6 7), (0x04A63828, .min 5 6 7), (0x04A63829, .max 5 6 7),
     (0x04A6382A, .minu 5 6 7), (0x04A6382B, .maxu 5 6 7), (0x04A60030, .clz 5 6), (0x04A60031, .ctz 5 6), (0x04A60032, .popc 5 6),
     (0x04A63838, .sel 5 6 7)] = true := by
  decide +kernel

/-- Words of R73 to R90 with distinct field values, written from the encodings: addi to lih. -/
theorem test_words_immediate_and_memory : readsAs
    [(0x08A60009, .addi 5 6 9), (0x0CA60009, .andi 5 6 9), (0x10A60009, .ori 5 6 9), (0x14A60009, .xori 5 6 9),
     (0x18A60009, .slti 5 6 9), (0x1CA60009, .slli 5 6 9), (0x1CA60049, .srli 5 6 9), (0x1CA60089, .srai 5 6 9),
     (0x20A60009, .lb 5 6 9), (0x24A60009, .lbu 5 6 9), (0x28A60009, .lh 5 6 9), (0x2CA60009, .lhu 5 6 9), (0x30A60009, .lw 5 6 9),
     (0x34A60009, .lwu 5 6 9), (0x38A60009, .ld 5 6 9), (0x3CA00009, .lih 5 9)] = true := by
  decide +kernel

/-- Words of R73 to R90 with distinct field values, written from the encodings: sb to srw. -/
theorem test_words_control : readsAs
    [(0x40A60009, .sb 5 6 9), (0x44A60009, .sh 5 6 9), (0x48A60009, .sw 5 6 9), (0x4CA60009, .sd 5 6 9), (0x60C70005, .beq 6 7 5),
     (0x64C70005, .bne 6 7 5), (0x68C70005, .blt 6 7 5), (0x6CC70005, .bge 6 7 5), (0x70C70005, .bltu 6 7 5),
     (0x74C70005, .bgeu 6 7 5), (0x78400005, .bany 2 5), (0x78410005, .ball 2 5), (0x78420005, .bnone 2 5), (0x80000001, .j 1),
     (0x84000001, .jal 1), (0x88C90006, .loop 6 2 1 6), (0x8C800001, .vfetch 1 1), (0x8CA00001, .vthr 1 1), (0x8C400000, .vjoin),
     (0x90A00020, .srr 5 32), (0x94060020, .srw 32 6)] = true := by
  decide +kernel

/-- Words of R73 to R90 with distinct field values, written from the encodings: amoadd to amocas. -/
theorem test_words_atomics : readsAs
    [(0x50A639B0, .amoadd ⟨5, 6, 7, true, 1, 3⟩), (0x50A639B1, .amomin ⟨5, 6, 7, true, 1, 3⟩),
     (0x50A639B2, .amomax ⟨5, 6, 7, true, 1, 3⟩), (0x50A639B3, .amominu ⟨5, 6, 7, true, 1, 3⟩),
     (0x50A639B4, .amomaxu ⟨5, 6, 7, true, 1, 3⟩), (0x50A639B5, .amoand ⟨5, 6, 7, true, 1, 3⟩),
     (0x50A639B6, .amoor ⟨5, 6, 7, true, 1, 3⟩), (0x50A639B7, .amoxor ⟨5, 6, 7, true, 1, 3⟩),
     (0x50A639B8, .amoswap ⟨5, 6, 7, true, 1, 3⟩), (0x50A639B9, .amocas ⟨5, 6, 7, true, 1, 3⟩)] = true := by
  decide +kernel

/-- Words of R73 to R90 with distinct field values, written from the encodings: vadd to vpopc. -/
theorem test_words_vector_arithmetic : readsAs
    [(0xA0108330, .vadd ⟨1, 2, 3, 1, true⟩), (0xA0108331, .vsub ⟨1, 2, 3, 1, true⟩), (0xA0108332, .vmul ⟨1, 2, 3, 1, true⟩),
     (0xA0108333, .vmulh ⟨1, 2, 3, 1, true⟩), (0xA0108334, .vdiv ⟨1, 2, 3, 1, true⟩), (0xA0108335, .vrem ⟨1, 2, 3, 1, true⟩),
     (0xA0108336, .vmin ⟨1, 2, 3, 1, true⟩), (0xA0108337, .vmax ⟨1, 2, 3, 1, true⟩), (0xA0108338, .vand ⟨1, 2, 3, 1, true⟩),
     (0xA0108339, .vor ⟨1, 2, 3, 1, true⟩), (0xA010833A, .vxor ⟨1, 2, 3, 1, true⟩), (0xA010833B, .vsll ⟨1, 2, 3, 1, true⟩),
     (0xA010833C, .vsrl ⟨1, 2, 3, 1, true⟩), (0xA010833D, .vsra ⟨1, 2, 3, 1, true⟩), (0xA010833E, .vsadd ⟨1, 2, 3, 1, true⟩),
     (0xA010833F, .vssub ⟨1, 2, 3, 1, true⟩), (0xA4108330, .vfma ⟨1, 2, 3, 1, true⟩), (0xA4108331, .vfms ⟨1, 2, 3, 1, true⟩),
     (0xA4108332, .vfnma ⟨1, 2, 3, 1, true⟩), (0xA4108333, .vfnms ⟨1, 2, 3, 1, true⟩), (0xA4108024, .vsqrt ⟨1, 2, 1⟩),
     (0xA4108025, .vrcpe ⟨1, 2, 1⟩), (0xA4108026, .vrsqe ⟨1, 2, 1⟩), (0xA4108027, .vexp2 ⟨1, 2, 1⟩), (0xA4108028, .vlog2 ⟨1, 2, 1⟩),
     (0xA4108029, .vabs ⟨1, 2, 1⟩), (0xA410802A, .vneg ⟨1, 2, 1⟩), (0xA410802B, .vnot ⟨1, 2, 1⟩), (0xA410802C, .vclz ⟨1, 2, 1⟩),
     (0xA410802D, .vpopc ⟨1, 2, 1⟩)] = true := by
  decide +kernel

/-- Words of R73 to R90 with distinct field values, written from the encodings: vceq to msif. -/
theorem test_words_masks : readsAs
    [(0xA8108330, .vceq ⟨1, 2, 3, 1, true⟩), (0xA8108331, .vcne ⟨1, 2, 3, 1, true⟩), (0xA8108332, .vclt ⟨1, 2, 3, 1, true⟩),
     (0xA8108333, .vcle ⟨1, 2, 3, 1, true⟩), (0xA8108334, .vcgt ⟨1, 2, 3, 1, true⟩), (0xA8108335, .vcge ⟨1, 2, 3, 1, true⟩),
     (0xA8108336, .vcun ⟨1, 2, 3, 1, true⟩), (0xA8108308, .mand 1 2 3), (0xA8108309, .mor 1 2 3), (0xA810830A, .mxor 1 2 3),
     (0xA810830B, .mandn 1 2 3), (0xA810800C, .mnot 1 2), (0xA810800D, .msbf 1 2), (0xA810800E, .msif 1 2)] = true := by
  decide +kernel

/-- Words of R73 to R90 with distinct field values, written from the encodings: vperm to mff1. -/
theorem test_words_permutes : readsAs
    [(0xAC108330, .vperm ⟨1, 2, 3, 1, true⟩), (0xAC108331, .vslideup ⟨1, 2, 3, 1⟩), (0xAC108332, .vslidedn ⟨1, 2, 3, 1⟩),
     (0xAC108023, .vcompress ⟨1, 2, 1⟩), (0xAC108024, .vexpand ⟨1, 2, 1⟩), (0xAC100025, .viota 1 1),
     (0xAC108336, .vmerge ⟨1, 2, 3, 1, true⟩), (0xAC108317, .vins 1 2 3), (0xAC108318, .vext 1 2 3),
     (0xAC108339, .xch ⟨1, 2, 3, 1⟩), (0xAC10800A, .mpop 1 2), (0xAC10800B, .mff1 1 2)] = true := by
  decide +kernel

/-- Words of R73 to R90 with distinct field values, written from the encodings: vradd_t to vcfg. -/
theorem test_words_reductions_and_state : readsAs
    [(0xB0108330, .vraddT ⟨1, 2, 3, 1⟩), (0xB0108331, .vraddO ⟨1, 2, 3, 1⟩), (0xB0108332, .vrminT ⟨1, 2, 3, 1⟩),
     (0xB0108333, .vrminO ⟨1, 2, 3, 1⟩), (0xB0108334, .vrmaxT ⟨1, 2, 3, 1⟩), (0xB0108335, .vrmaxO ⟨1, 2, 3, 1⟩),
     (0xB0108336, .vrand ⟨1, 2, 3, 1⟩), (0xB0108337, .vror ⟨1, 2, 3, 1⟩), (0xB0108338, .vrxor ⟨1, 2, 3, 1⟩),
     (0xB4109220, .vcvt ⟨1, 2, 1⟩ 18), (0xB8108000, .vsetl 1 2), (0xB8008001, .vmt 2), (0xC0274930, .vcfg 1 7 0x12 1 3)] = true := by
  decide +kernel

/-- Words of R73 to R90 with distinct field values, written from the encodings: vld to capp. -/
theorem test_words_vector_memory : readsAs
    [(0xC4108020, .vld ⟨1, 2, 1, ⟨false, 0, 0, false, 0⟩⟩), (0xC4108331, .vldS ⟨1, 2, 3, 1, ⟨false, 0, 0, false, 0⟩⟩),
     (0xC4108322, .vldX ⟨1, 2, 3, 1, ⟨false, 0, 0, false, 0⟩⟩), (0xC4108023, .vldFf ⟨1, 2, 1, ⟨false, 0, 0, false, 0⟩⟩),
     (0xC4108024, .vldO ⟨1, 2, 1, ⟨false, 0, 0, false, 0⟩⟩), (0xC4108335, .vldSo ⟨1, 2, 3, 1, ⟨false, 0, 0, false, 0⟩⟩),
     (0xC4108326, .vldXo ⟨1, 2, 3, 1, ⟨false, 0, 0, false, 0⟩⟩), (0xC8108020, .vst ⟨1, 2, 1, ⟨false, 0, 0, false, 0⟩⟩),
     (0xC8108331, .vstS ⟨1, 2, 3, 1, ⟨false, 0, 0, false, 0⟩⟩), (0xC8108322, .vstX ⟨1, 2, 3, 1, ⟨false, 0, 0, false, 0⟩⟩),
     (0xC8108024, .vstO ⟨1, 2, 1, ⟨false, 0, 0, false, 0⟩⟩), (0xC8108335, .vstSo ⟨1, 2, 3, 1, ⟨false, 0, 0, false, 0⟩⟩),
     (0xC8108326, .vstXo ⟨1, 2, 3, 1, ⟨false, 0, 0, false, 0⟩⟩), (0xCC108320, .vamoAdd ⟨1, 2, 3, 1, ⟨false, 0, 0, false, 0⟩⟩),
     (0xCC108321, .vamoMin ⟨1, 2, 3, 1, ⟨false, 0, 0, false, 0⟩⟩), (0xCC108322, .vamoMax ⟨1, 2, 3, 1, ⟨false, 0, 0, false, 0⟩⟩),
     (0xCC108323, .vamoAnd ⟨1, 2, 3, 1, ⟨false, 0, 0, false, 0⟩⟩), (0xCC108324, .vamoOr ⟨1, 2, 3, 1, ⟨false, 0, 0, false, 0⟩⟩),
     (0xCC108325, .vamoXor ⟨1, 2, 3, 1, ⟨false, 0, 0, false, 0⟩⟩), (0xCC108326, .vamoSwap ⟨1, 2, 3, 1, ⟨false, 0, 0, false, 0⟩⟩),
     (0xCC108328, .vscadd ⟨1, 2, 3, 1, ⟨false, 0, 0, false, 0⟩⟩), (0xCC10830C, .bxld 1 2 3 ⟨false, 0, 0, false, 0⟩),
     (0xCC00802D, .capp 2 1 ⟨false, 0, 0, false, 0⟩)] = true := by
  decide +kernel

/-- Words of R73 to R90 with distinct field values, written from the encodings: mma to cbld. -/
theorem test_words_matrix : readsAs
    [(0xE0519080, .mma 5 3 4 1), (0xE0618010, .mclaim 6 3), (0xE0018011, .mrel 3), (0xE0318012, .mldt 3 3), (0xE0610013, .cbld 6 2)] = true := by
  decide +kernel

/-- Words of R73 to R90 with distinct field values, written from the encodings: barinit to setwash. -/
theorem test_words_system : readsAs
    [(0xEC063801, .barinit 6 7), (0xEC060002, .bararr 6), (0xEC060003, .barwait 6), (0xEC060004, .barwaitA 6),
     (0xEC063810, .launch 6 7), (0xEC060820, .xcfg 6 1), (0xECA00821, .xtid 5 1), (0xEC060822, .xwait 6 1),
     (0xECA60030, .dsend 5 6), (0xEC063831, .dpull 6 7), (0xEC060032, .ddrop 6), (0xECA63833, .dresend 5 6 7),
     (0xECA60034, .dlstat 5 6), (0xF0004801, .trap 9), (0xF0000002, .eret), (0xF0004803, .brk 9), (0xF0000004, .wait),
     (0xF0000005, .uiret), (0xF0A60006, .jalr 5 6), (0xF00A4010, .fence 2 2 1), (0xF0A60011, .xfence 1 2 3),
     (0xF0A63820, .rdharm 5 6 7), (0xF0A60021, .rdimb 5 6), (0xF0A60022, .rdsamp 5 6), (0xF0060028, .hclr 6),
     (0xF0060029, .setwash 6)] = true := by
  decide +kernel

end Sys2Proof.Tests
end

/-! # Memory's canonical form is kept by every step (R2, R12)

Few operations write memory: `State.storeBytes`, `State.fillBytes`, `State.zeroMem`, `State.zeroSpad`, `State.clearBlanks` and
`State.keepsOne`. The laws `wf_memPuts`, `wf_memFill` and `wf_filter` say that they keep the canonical form.
Every other operation is composed of these and of changes of other fields. So there is one lemma for each operation of the model,
`MemOk.<operation>`: from `MemOk s` to `MemOk` of what the operation makes of `s`. An operation that may answer in several ways has
the lemma for each of its answers, said by a predicate of the answer's type (`RunOut.MemOk` and the like). -/

namespace Sys2Proof

open Machine

/-! ## Rules of composition -/

/-- Memory is all that `MemOk` speaks of. -/
protected theorem MemOk.congr {s t : State} (h : MemOk s) (e : t.mem = s.mem) : MemOk t := by
  unfold MemOk at *
  rw [e]
  exact h

protected theorem MemOk.ite {c : Prop} [Decidable c] {s t : State} (hs : MemOk s) (ht : MemOk t) : MemOk (if c then s else t) := by
  split <;> assumption

protected theorem MemOk.ite_fst {β : Type} {c : Prop} [Decidable c] {p q : State × β} (hp : MemOk p.1) (hq : MemOk q.1) :
    MemOk (if c then p else q).1 := by
  split <;> assumption

protected theorem MemOk.foldl {α : Type} {f : State → α → State} {l : List α} {s : State} (h : MemOk s)
    (hf : ∀ s x, MemOk s → MemOk (f s x)) : MemOk (l.foldl f s) := by
  induction l generalizing s with
  | nil => exact h
  | cons x l ih => exact ih (hf s x h)

/-- A fold that carries something beside the state. -/
protected theorem MemOk.foldl_fst {α β : Type} {f : State × β → α → State × β} {l : List α} {p : State × β} (h : MemOk p.1)
    (hf : ∀ p x, MemOk p.1 → MemOk (f p x).1) : MemOk (l.foldl f p).1 := by
  induction l generalizing p with
  | nil => exact h
  | cons x l ih => exact ih (hf p x h)

/-- A predicate of what a call answers, at the answer it gave. -/
theorem along {α : Type} {P : α → Prop} {a b : α} (e : a = b) (h : P a) : P b := e ▸ h

/-- A predicate of both branches, at the choice between them. -/
theorem of_ite {α : Type} {P : α → Prop} {c : Prop} [Decidable c] {a b : α} (ha : P a) (hb : P b) : P (if c then a else b) := by
  split <;> assumption

/-- `along` for the first component of a pair. -/
theorem along_fst {α β : Type} {P : α → Prop} {p : α × β} {a : α} {b : β} (e : p = (a, b)) (h : P p.1) : P a := by
  subst e; exact h

/-- Memory after an outcome. -/
def NextOk : Host.Outcome State Fault Refusal → Prop
  | .next s => MemOk s
  | _ => True

protected theorem NextOk.next {s : State} (h : MemOk s) : NextOk (.next s) := h

/-- Memory after an attempt, where it succeeds. -/
def SomeOk : Option State → Prop
  | some s => MemOk s
  | none => True

protected theorem SomeOk.bind {α : Type} {o : Option α} {f : α → Option State} (hf : ∀ x ∈ o, SomeOk (f x)) :
    SomeOk (o.bind f) := by
  cases o with
  | none => trivial
  | some x => exact hf x rfl

protected theorem SomeOk.findSome? {α : Type} {l : List α} {f : α → Option State} (hf : ∀ x, SomeOk (f x)) :
    SomeOk (l.findSome? f) := by
  induction l with
  | nil => trivial
  | cons x l ih =>
    rw [List.findSome?_cons]
    split
    next e => exact along e (hf x)
    · exact ih

protected theorem SomeOk.getD {o : Option State} {s : State} (h : SomeOk o) (hs : MemOk s) : MemOk (o.getD s) := by
  cases o with
  | none => exact hs
  | some t => exact h

end Sys2Proof

/-! ## Memory in an answer

One predicate for each type of answer: the state that the answer carries is canonical. -/

namespace Sys2Proof.Machine

def ServeOut.MemOk : ServeOut → Prop
  | .answer s _ => Sys2Proof.MemOk s
  | .hold s => Sys2Proof.MemOk s
  | _ => True

def DescOut.MemOk : DescOut → Prop
  | .desc s _ => Sys2Proof.MemOk s
  | .wait s => Sys2Proof.MemOk s

def RegWrite.MemOk : RegWrite → Prop
  | .ok s => Sys2Proof.MemOk s
  | _ => True

def Pick.MemOk : Pick → Prop
  | .done s => Sys2Proof.MemOk s
  | .run _ s => Sys2Proof.MemOk s

def DebugOut.MemOk : DebugOut → Prop
  | .done s _ _ => Sys2Proof.MemOk s
  | .wait s => Sys2Proof.MemOk s

def BarRoom.MemOk : BarRoom → Prop
  | .room s => Sys2Proof.MemOk s
  | _ => True

def ElemOut.MemOk : ElemOut → Prop
  | .ok s _ _ _ => Sys2Proof.MemOk s
  | .wait s _ => Sys2Proof.MemOk s
  | .fault s _ _ => Sys2Proof.MemOk s
  | _ => True

def HeaderOut.MemOk : HeaderOut → Prop
  | .header s _ => Sys2Proof.MemOk s
  | .out s => Sys2Proof.MemOk s

def EntryOut.MemOk : EntryOut → Prop
  | .retired s => Sys2Proof.MemOk s
  | .waiting s => Sys2Proof.MemOk s
  | .trapped s => Sys2Proof.MemOk s

def OwnOut.MemOk : OwnOut → Prop
  | .pull s => Sys2Proof.MemOk s
  | _ => True

def FrontWrite.MemOk : FrontWrite → Prop
  | .done s => Sys2Proof.MemOk s
  | .wait s => Sys2Proof.MemOk s
  | .failed s => Sys2Proof.MemOk s

def SoutPlace.MemOk : SoutPlace → Prop
  | .hold s => Sys2Proof.MemOk s
  | .fault s _ _ => Sys2Proof.MemOk s
  | _ => True

def SendOut.MemOk : SendOut → Prop
  | .fault s _ _ _ _ => Sys2Proof.MemOk s
  | _ => True

def AccOut.MemOk : AccOut → Prop
  | .fault _ _ s => Sys2Proof.MemOk s
  | .stall _ s => Sys2Proof.MemOk s
  | _ => True

def UnitOut.MemOk : UnitOut → Prop
  | .unit s _ _ => Sys2Proof.MemOk s
  | .out s => Sys2Proof.MemOk s
  | .fault s _ _ _ => Sys2Proof.MemOk s

def RunOut.MemOk : RunOut → Prop
  | .ok s _ => Sys2Proof.MemOk s
  | .wait s _ => Sys2Proof.MemOk s
  | .fault s _ _ _ => Sys2Proof.MemOk s

def FetchOut.MemOk : FetchOut → Prop
  | .word s _ => Sys2Proof.MemOk s
  | .out s => Sys2Proof.MemOk s
  | .fault s _ _ => Sys2Proof.MemOk s

def AccHalf.MemOk : AccHalf → Prop
  | .done s _ => Sys2Proof.MemOk s
  | .wait s _ _ => Sys2Proof.MemOk s
  | .fault s _ _ _ _ _ _ _ => Sys2Proof.MemOk s

def ScalarOut.MemOk : ScalarOut → Prop
  | .got s _ _ => Sys2Proof.MemOk s
  | .out s => Sys2Proof.MemOk s

def StripOut.MemOk {α : Type} : StripOut α → Prop
  | .ok s _ => Sys2Proof.MemOk s
  | .wait s => Sys2Proof.MemOk s
  | .fault s _ _ _ _ _ => Sys2Proof.MemOk s

end Sys2Proof.Machine

namespace Sys2Proof

open Machine

/-! ## Changes of other fields -/

theorem MemOk.set_queues {s : State} {x : Tab QueueSt} (h : MemOk s) : MemOk { s with queues := x } := h
theorem MemOk.set_pkgDelay {s : State} {x : Tab Nat} (h : MemOk s) : MemOk { s with pkgDelay := x } := h
theorem MemOk.set_arbs {s : State} {x : Tab Arb} (h : MemOk s) : MemOk { s with arbs := x } := h
theorem MemOk.set_holders {s : State} {x : List Holder} (h : MemOk s) : MemOk { s with holders := x } := h
theorem MemOk.set_hostOut {s : State} {x : List (List Byte)} (h : MemOk s) : MemOk { s with hostOut := x } := h
theorem MemOk.set_origins {s : State} {x : List Origin} (h : MemOk s) : MemOk { s with origins := x } := h
theorem MemOk.set_freeCtr {s : State} {x : Nat} (h : MemOk s) : MemOk { s with freeCtr := x } := h
theorem MemOk.set_groups {s : State} {x : List Machine.Group} (h : MemOk s) : MemOk { s with groups := x } := h
theorem MemOk.set_nearLines {s : State} {x : List Nat} (h : MemOk s) : MemOk { s with nearLines := x } := h
theorem MemOk.set_lane {s : State} {x : Option Nat} (h : MemOk s) : MemOk { s with lane := x } := h
theorem MemOk.set_agenda_landings {s : State} {x : List Turn} {y : List (W64 × Nat × List Byte)} (h : MemOk s) :
    MemOk { s with agenda := x, landings := y } := h
theorem MemOk.set_groups_nextId {s : State} {x : List Machine.Group} {y : Nat} (h : MemOk s) :
    MemOk { s with groups := x, nextId := y } := h
theorem MemOk.set_launches_pend {s : State} {x : List Launch} {y : Tab (List PendItem)} (h : MemOk s) :
    MemOk { s with launches := x, pend := y } := h
theorem MemOk.set_dbgFwd {s : State} {x : List (Nat × W64 × W64 × W64)} (h : MemOk s) : MemOk { s with dbgFwd := x } := h
theorem MemOk.set_pend {s : State} {x : Tab (List PendItem)} (h : MemOk s) : MemOk { s with pend := x } := h
theorem MemOk.set_remoteHeld {s : State} {x : List RemoteReq} (h : MemOk s) : MemOk { s with remoteHeld := x } := h
theorem MemOk.set_threads {s : State} {x : Tab Thread} (h : MemOk s) : MemOk { s with threads := x } := h
theorem MemOk.set_cur_lane {s : State} {x : ThreadKey} {y : Option Nat} (h : MemOk s) : MemOk { s with cur := x, lane := y } := h

/-! ## Reset -/

theorem memOk_reset : MemOk State.reset := rfl

/-! ## Threads, stores, rings, traps -/

theorem MemOk.setTh {s : State} {k : ThreadKey} {t : Thread} (h : MemOk s) : MemOk (s.setTh k t) := h

theorem MemOk.modTh {s : State} {k : ThreadKey} {f : Thread → Thread} (h : MemOk s) : MemOk (s.modTh k f) := h.setTh

theorem MemOk.mod {s : State} {f : Thread → Thread} (h : MemOk s) : MemOk (s.mod f) := h.modTh

theorem MemOk.modCore {s : State} {c : Nat} {f : CoreSt → CoreSt} (h : MemOk s) : MemOk (s.modCore c f) := h

theorem MemOk.modCtx {s : State} {c : Nat} {f : CtxSt → CtxSt} (h : MemOk s) : MemOk (s.modCtx c f) := h

theorem MemOk.modPart {s : State} {p : Nat} {f : PartSt → PartSt} (h : MemOk s) : MemOk (s.modPart p f) := h

theorem MemOk.modFn {s : State} {f : Nat} {g : FuncSt → FuncSt} (h : MemOk s) : MemOk (s.modFn f g) := h

theorem MemOk.modQ {s : State} {n : Nat} {f : QueueSt → QueueSt} (h : MemOk s) : MemOk (s.modQ n f) := h

theorem MemOk.modStr {s : State} {n : Nat} {f : StrSt → StrSt} (h : MemOk s) : MemOk (s.modStr n f) := h

theorem MemOk.modClu {s : State} {n : Nat} {f : ClSt → ClSt} (h : MemOk s) : MemOk (s.modClu n f) := h

theorem MemOk.modGrp {s : State} {id : Nat} {f : Machine.Group → Machine.Group} (h : MemOk s) : MemOk (s.modGrp id f) := h

theorem MemOk.modLau {s : State} {id : Nat} {f : Launch → Launch} (h : MemOk s) : MemOk (s.modLau id f) := h

theorem MemOk.later {s : State} {i : Instr} (h : MemOk s) : MemOk (s.later i) := h

theorem MemOk.askHead {s : State} {n : Nat} (h : MemOk s) : MemOk (s.askHead n) := .ite h h.later

theorem MemOk.send {s : State} {m : FabMsg} (h : MemOk s) : MemOk (s.send m) := h

theorem MemOk.storeBytes {s : State} {w : Option ThreadKey} {a : Nat} {bs : List Byte} (h : MemOk s) : MemOk (s.storeBytes w a bs) :=
  wf_memPuts bs a h

theorem MemOk.store {s : State} {w : Option ThreadKey} {a n v : Nat} (h : MemOk s) : MemOk (s.store w a n v) := h.storeBytes

theorem MemOk.setS {s : State} {n : SReg} {x : W64} (h : MemOk s) : MemOk (s.setS n x) := h.mod

theorem MemOk.advance {s : State} (h : MemOk s) : MemOk s.advance := h.mod

theorem MemOk.jump {s : State} {pc : W64} (h : MemOk s) : MemOk (s.jump pc) := h.mod

theorem MemOk.holdOn {s : State} {x : Hold} (h : MemOk s) : MemOk (s.holdOn x) := .ite h h.mod

protected theorem MemOk.ringPut {s : State} {base : W64} {logcap wr sz : Nat} {bs : List Byte} (h : MemOk s) :
    MemOk (ringPut s base logcap wr sz bs) :=
  h.storeBytes

theorem MemOk.log {s : State} {func code addr info : Nat} (h : MemOk s) : MemOk (s.log func code addr info) :=
  .ite (.modFn (.ringPut h)) (.modFn h)

theorem MemOk.trace {s : State} {func : Nat} {bs : List Byte} (h : MemOk s) : MemOk (s.trace func bs) := .ite h.ringPut.modFn h.modFn

theorem MemOk.stopGroups {s : State} {c : Nat} {freeze : Bool} (h : MemOk s) : MemOk (s.stopGroups c freeze) := h

theorem MemOk.freezeCtx {s : State} {c cause : Nat} {who : Option ThreadKey} (h : MemOk s) : MemOk (s.freezeCtx c cause who) := by
  unfold State.freezeCtx
  dsimp only
  split
  · exact h.stopGroups.modCtx.set_queues.log
  · exact h.stopGroups.modCtx.set_queues.log
  · exact h.stopGroups.modCtx.set_queues.log
  · exact h.stopGroups.modCtx.set_queues.log
  · exact h.stopGroups.modCtx.set_queues.log
  · exact h

theorem MemOk.takeTrap {s : State} {k : ThreadKey} {d : TrapDesc} (h : MemOk s) : MemOk (s.takeTrap k d) :=
  .ite h.modTh.freezeCtx h.modTh

theorem MemOk.trap {s : State} {cause detail : Nat} {va : W64} (h : MemOk s) : MemOk (s.trap cause detail va) :=
  .ite h.takeTrap h.holdOn

theorem MemOk.trapAfter {s : State} {cause detail : Nat} (h : MemOk s) : MemOk (s.trapAfter cause detail) :=
  .ite h.holdOn h.advance.takeTrap

theorem MemOk.illReg {s : State} {field value : Nat} (h : MemOk s) : MemOk (s.illReg field value) := h.trap

/-! ## Arbiters and quanta -/

theorem MemOk.modArb {s : State} {n : Nat} {f : Arb → Arb} (h : MemOk s) : MemOk (s.modArb n f) := h

theorem MemOk.enter {s : State} {n : Nat} {r : Req} (h : MemOk s) : MemOk (s.enter n r) := h

theorem MemOk.request {s : State} {n key beats : Nat} (h : MemOk s) : MemOk (s.request n key beats) := h.enter

theorem MemOk.message {s : State} {from_ dest key n : Nat} (h : MemOk s) : MemOk (s.message from_ dest key n) := h

theorem MemOk.crosses {s : State} {unit key pkg n : Nat} {inbound : Bool} (h : MemOk s) : MemOk (s.crosses unit key pkg inbound n) := h

theorem MemOk.hostRequest {s : State} {link key n : Nat} {fromHost wr : Bool} (h : MemOk s) :
    MemOk (s.hostRequest link fromHost key n wr) :=
  h

theorem MemOk.accessReqs {s : State} {unit key flat n : Nat} {wr : Bool} {src : Option ThreadKey} (h : MemOk s) :
    MemOk (s.accessReqs unit key flat n wr src) :=
  .ite (.hostRequest h) h

theorem MemOk.elemHostReqs {s : State} {key n : Nat} {wr : Bool} {flats : List Nat} (h : MemOk s) :
    MemOk (s.elemHostReqs key n wr flats) :=
  h.foldl (fun _ _ h => h.hostRequest)

theorem MemOk.elemReqs {s : State} {unit key n : Nat} {wr : Bool} {src : Option ThreadKey} {flats : List Nat} (h : MemOk s) :
    MemOk (s.elemReqs unit key n wr src flats) :=
  .elemHostReqs h

theorem MemOk.recordWait {s : State} {cls victim c n : Nat} (h : MemOk s) : MemOk (s.recordWait cls victim c n) :=
  .ite h.modPart.set_pkgDelay (.ite h.modPart h)

theorem MemOk.postCell {s : State} {n victim c : Nat} (h : MemOk s) : MemOk (s.postCell n victim c) :=
  .ite h.recordWait h.recordWait.modArb

protected theorem MemOk.postReq {n : Nat} {s : State} {r : Req} (h : MemOk s) : MemOk (postReq n s r) := h.postCell.modArb

theorem MemOk.postQuanta {s : State} {n : Nat} (h : MemOk s) : MemOk (s.postQuanta n) := .modArb (h.foldl (fun _ _ h => h.postReq))

theorem MemOk.grantStrip {s : State} {r : Req} (h : MemOk s) : MemOk (s.grantStrip r) := by
  unfold State.grantStrip
  split
  · exact h
  · exact h.modTh.later

protected theorem MemOk.arbiterGrant {s : State} {n : Nat} (h : MemOk s) : MemOk (arbiterGrant s n) := by
  unfold Machine.arbiterGrant
  refine .ite h (.ite h ?_)
  split
  · exact h.modArb
  · exact .grantStrip h

protected theorem MemOk.hbmRefresh {s : State} {n : Nat} {on : Bool} (h : MemOk s) : MemOk (hbmRefresh s n on) := .ite h.modArb h

protected theorem MemOk.hclrOwner {p x o : Nat} {s : State} (h : MemOk s) : MemOk (hclrOwner p x s o) :=
  .ite (.modPart (.ite (.set_arbs (.ite h.modPart h)) (.ite h.modPart h))) (.ite (.set_arbs (.ite h.modPart h)) (.ite h.modPart h))

theorem MemOk.passArbBudgets {s : State} {link n : Nat} (h : MemOk s) : MemOk (s.passArbBudgets link n) := .modArb h

/-! ## Accesses and their faults -/

theorem MemOk.startPull {s : State} {unit c seg part owner : Nat} {sid : W64} {l : Option Nat} (h : MemOk s) :
    MemOk (s.startPull unit c sid seg part owner l) :=
  h.send.crosses.set_holders

theorem MemOk.clearStall {s : State} {k : ThreadKey} {who : Nat} (h : MemOk s) : MemOk (s.clearStall k who) := .ite h h.modTh

theorem MemOk.endReplies {s : State} {k : ThreadKey} {who : Nat} (h : MemOk s) : MemOk (s.endReplies k who) := .ite h h.modTh

theorem MemOk.remote {s : State} {k : ThreadKey} {who pkg off n : Nat} {user : Bool} {rop : RemoteOp} (h : MemOk s) :
    (s.remote k who user pkg off n rop).MemOk := by
  unfold State.remote
  dsimp only
  split
  · exact h
  · split
    · exact h
    · split
      · split
        · trivial
        · exact h
        · exact h
        · exact h
        · trivial
      · split
        · split <;> exact h
        · exact h.send.crosses.modTh

theorem MemOk.access {s : State} {k : ThreadKey} {who n : Nat} {user : Bool} {kind : AKind} {tg : Target} {rop : RemoteOp}
    (h : MemOk s) : (s.access k who user kind tg n rop).MemOk := by
  unfold State.access
  dsimp only
  split
  · exact h
  · split
    · trivial
    · exact h
  · split
    · split
      · exact h
      · trivial
    · exact h
    · exact h
    · exact h.log
    · exact h
    · split
      · exact h.modTh
      · exact h
    · exact .ite h h.startPull
  · split
    · exact h
    · exact h.remote

theorem MemOk.nearTouch {s : State} {flat leaf : Nat} (h : MemOk s) : MemOk (s.nearTouch flat leaf) := .ite h h

theorem MemOk.nearReach {s : State} {p addr n : Nat} (h : MemOk s) : MemOk (s.nearReach p addr n) := h.foldl (fun _ _ h => h.nearTouch)

theorem MemOk.touched {s : State} {k : ThreadKey} {who flat n leaf : Nat} {wr : Bool} (h : MemOk s) :
    MemOk (s.touched k who flat n leaf wr) :=
  h.accessReqs.nearTouch.clearStall

theorem MemOk.faultPending {s : State} {k : ThreadKey} {va : W64} {path kind : Nat} {migw : Bool} (h : MemOk s) :
    MemOk (s.faultPending k va path kind migw) :=
  .ite h h

theorem MemOk.pageFault {s : State} {k : ThreadKey} {va : W64} {path kind : Nat} {migw : Bool} (h : MemOk s) :
    MemOk (s.pageFault k va path kind migw) := by
  unfold State.pageFault
  refine .ite h.faultPending ?_
  dsimp only
  split
  · exact h.faultPending.modCtx.modCtx.stopGroups
  · exact h.faultPending.modCtx.modCtx.stopGroups
  · exact h.faultPending.modCtx.modCtx.stopGroups
  · exact h.faultPending.modCtx

theorem MemOk.accessFault {s : State} {cause detail path kind : Nat} {va : W64} {migw : Bool} (h : MemOk s) :
    MemOk (s.accessFault cause detail va path kind migw) :=
  .ite h.holdOn (.ite h.trap.clearStall.pageFault h.trap.clearStall)

/-! ## State registers -/

theorem MemOk.regWrite {s : State} {k : ThreadKey} {sup : Bool} {num : Nat} {w : W64} (h : MemOk s) :
    (s.regWrite k sup num w).MemOk := by
  unfold State.regWrite
  dsimp only
  split
  · exact h.modTh
  · split
    · exact h.modTh
    · trivial
  · split
    · exact h
    · split
      · exact h.modCore.later
      · trivial
  · exact h.modTh
  · split
    · trivial
    · exact h.modTh
  · exact h.modTh
  · exact h.modTh
  · split
    · exact h.modTh
    · exact h
  · split
    · exact h.modTh
    · exact h
  · split
    · trivial
    · exact h.modTh
  · split
    · trivial
    · exact h.modTh
  · exact h.modTh
  · exact h.modTh
  · split
    · trivial
    · split
      · exact h.modTh.later
      · split
        · exact h.modTh.later
        · exact h.modTh
  · exact h.modCtx
  · exact h.modCtx
  · split
    · trivial
    · exact h.modClu
  · split
    · trivial
    · exact h.modTh
  · split
    · exact h.modTh
    · exact h

theorem MemOk.whenIdle {s : State} {f : State → State} (h : MemOk s) (hf : ∀ s, MemOk s → MemOk (f s)) : MemOk (s.whenIdle f) :=
  .ite h.holdOn (hf _ h)

theorem MemOk.whenPerformed {s : State} {f : State → State} (h : MemOk s) (hf : ∀ s, MemOk s → MemOk (f s)) :
    MemOk (s.whenPerformed f) :=
  .ite (hf _ h) h.holdOn

theorem MemOk.writeReg {s : State} {num : Nat} {w : W64} (h : MemOk s) : MemOk (s.writeReg num w) := by
  unfold State.writeReg
  split
  next e => exact (along e h.regWrite).advance
  · exact h.trap

protected theorem MemOk.execSrr {d : SReg} {num : BitVec 12} {s : State} (h : MemOk s) : NextOk (execSrr d num s) := by
  unfold Machine.execSrr
  refine .next ?_
  split
  · exact h.trap
  · exact .ite (h.whenIdle (fun _ h => h.setS.advance)) h.setS.advance

protected theorem MemOk.execSrw {num : BitVec 12} {a : SReg} {s : State} (h : MemOk s) : NextOk (execSrw num a s) := by
  unfold Machine.execSrw
  refine .next ?_
  split
  · exact h.trap
  · exact .ite (.ite h.holdOn (h.whenPerformed (fun _ h => h.writeReg))) (.ite (h.whenIdle (fun _ h => h.writeReg)) h.writeReg)

/-! ## Palette slots -/

theorem MemOk.sweepSlots {s : State} {c : Nat} (h : MemOk s) : MemOk (s.sweepSlots c) := .ite h.modCore.later h

/-! ## Vector memory -/

theorem MemOk.elemTouched {s : State} {k : ThreadKey} {who flat leaf : Nat} (h : MemOk s) : MemOk (s.elemTouched k who flat leaf) :=
  h.nearTouch.clearStall

protected theorem MemOk.loadOne {s : State} {k : ThreadKey} {ent : Entry} {i : Nat} {a : W64} (h : MemOk s) :
    (loadOne s k ent i a).MemOk := by
  unfold Machine.loadOne
  dsimp only
  split
  · exact h.elemTouched
  · exact h.endReplies
  · trivial
  next e => exact (along e h.access :)
  next e => exact (along e h.access :)

protected theorem MemOk.storeOne {s : State} {k : ThreadKey} {ent : Entry} {i x : Nat} {a : W64} (h : MemOk s) :
    (storeOne s k ent i a x).MemOk := by
  unfold Machine.storeOne
  dsimp only
  split
  · exact h.store.elemTouched
  · exact h.endReplies
  · trivial
  next e => exact (along e h.access :)
  next e => exact (along e h.access :)

protected theorem MemOk.atomOne {s : State} {k : ThreadKey} {ent : Entry} {o : AmoK} {i x : Nat} {a : W64} (h : MemOk s) :
    (atomOne s k ent o i a x).MemOk := by
  unfold Machine.atomOne
  dsimp only
  split
  · exact h
  · split
    · exact h.store.elemTouched
    · exact h.endReplies
    · trivial
    next e => exact (along e h.access :)
    next e => exact (along e h.access :)

protected theorem MemOk.elemOne {s : State} {k : ThreadKey} {v : VecState} {ent : Entry} {i : Nat} {a : W64} (h : MemOk s) :
    (elemOne s k v ent i a).MemOk := by
  unfold Machine.elemOne
  split
  · exact h.loadOne
  · exact h.storeOne
  · exact h.atomOne
  · exact h.atomOne
  · exact h

theorem MemOk.keepsOne {s s' : State} {again : Bool} (h : MemOk s) (h' : MemOk s') : MemOk (s.keepsOne s' again) := by
  unfold State.keepsOne
  split
  · unfold MemOk
    dsimp only
    split
    · exact h
    · exact h'
  · exact h'

theorem MemOk.vecReqs {s : State} {k : ThreadKey} {ent : Entry} {flats : List (Nat × Nat)} (h : MemOk s) :
    MemOk (s.vecReqs k ent flats) :=
  h.foldl (fun _ _ h => h.elemReqs)

protected theorem MemOk.runElems {k : ThreadKey} {v : VecState} {is : List Nat} {l : ElemLog} {s : State} {e : Entry} (h : MemOk s) :
    (runElems k v is l s e).MemOk := by
  induction is generalizing l s e with
  | nil => exact h.vecReqs
  | cons i is ih =>
    unfold Machine.runElems
    dsimp only
    split
    · exact ih h
    · split
      · exact h.vecReqs
      · split
        next e => exact ih (h.keepsOne (along e h.elemOne :))
        · exact ih h.endReplies
        next e => exact (along e h.elemOne).vecReqs
        next e => exact (along e h.elemOne).vecReqs.endReplies.clearStall

protected theorem MemOk.elemsHalf {s : State} {k : ThreadKey} {ent : Entry} (h : MemOk s) : (elemsHalf s k ent).MemOk := h.runElems

protected theorem MemOk.readRuns {k : ThreadKey} {who : Nat} {user : Bool} {tg : W64 → Target} {l : List (W64 × Nat)} {s : State}
    (h : MemOk s) : (readRuns k who user tg l s).MemOk := by
  induction l generalizing s with
  | nil => exact h
  | cons x l ih =>
    unfold Machine.readRuns
    split
    · split
      next e => exact (along e (ih h.touched) :)
      · exact ih h.touched
    · split
      next e => exact (along e (ih h) :)
      · exact ih h
    · exact h
    next e => exact (along e h.access :)
    next e => exact (along e h.access :)

protected theorem MemOk.readRun {s : State} {k : ThreadKey} {who n : Nat} {user : Bool} {tg : W64 → Target} {a : W64} (h : MemOk s) :
    (readRun s k who user tg a n).MemOk :=
  h.readRuns

theorem MemOk.setSlotData {s : State} {c x d : Nat} (h : MemOk s) : MemOk (s.setSlotData c x d) := h.modCore

protected theorem MemOk.fillLines {k : ThreadKey} {e : Entry} {sh : Shape} {base : W64} {ls : List Nat} {d : Nat} {s : State}
    (h : MemOk s) : (fillLines k e sh base ls d s).MemOk := by
  induction ls generalizing d s with
  | nil => exact h.endReplies.setSlotData
  | cons l ls ih =>
    unfold Machine.fillLines
    dsimp only
    split
    next e => exact ih (along e h.readRun :)
    next e => exact (along e h.readRun :)
    next e => exact (along e h.readRun).endReplies.setSlotData

protected theorem MemOk.mldtHalf {s : State} {k : ThreadKey} {ent : Entry} (h : MemOk s) : (mldtHalf s k ent).MemOk := by
  unfold Machine.mldtHalf
  dsimp only
  split
  · split
    · exact h
    · exact h.fillLines
  · split
    · split
      · exact h
      · exact h.fillLines
    · split
      · exact h
      · exact h.fillLines

protected theorem MemOk.cbldHalf {s : State} {k : ThreadKey} {ent : Entry} (h : MemOk s) : (cbldHalf s k ent).MemOk := by
  unfold Machine.cbldHalf
  split
  · exact h
  · split
    next e => exact ((along e h.readRun).endReplies).modCore
    next e => exact (along e h.readRun :)
    next e => exact (along e h.readRun).endReplies

protected theorem MemOk.placeRuns {k : ThreadKey} {user : Bool} {tg : W64 → Target} {l : List (W64 × List Byte)} {s : State}
    {acc : List (Nat × Nat × List Byte)} (h : MemOk s) : (placeRuns k user tg l s acc).elim AccOut.MemOk fun _ => True := by
  induction l generalizing acc with
  | nil => trivial
  | cons x l ih =>
    unfold Machine.placeRuns
    split
    · exact ih
    · exact ih
    · exact ih
    next e => exact (along e h.access :)
    next e => exact (along e h.access :)

protected theorem MemOk.putRuns {k : ThreadKey} {l : List (Nat × Nat × List Byte)} {s : State} (h : MemOk s) :
    MemOk (putRuns k l s) := by
  induction l generalizing s with
  | nil => exact h
  | cons x l ih => exact ih h.storeBytes.touched

protected theorem MemOk.cappEnd {s : State} {k : ThreadKey} {ent : Entry} {p : CappPlan} (h : MemOk s) : (cappEnd s k ent p).MemOk :=
  .ite h.modTh h

protected theorem MemOk.cappTrap {s : State} {k : ThreadKey} {ent : Entry} {b : Nat × Nat × W64} (h : MemOk s) :
    (cappTrap s k ent b).MemOk :=
  h.endReplies

protected theorem MemOk.cappRemote {s : State} {k : ThreadKey} {ent : Entry} {pkg off : Nat} {idx : List Nat} (h : MemOk s) :
    (cappRemote s k ent pkg off idx).MemOk := by
  unfold Machine.cappRemote
  split
  · dsimp only
    split
    · exact h.endReplies.cappTrap
    · exact h.endReplies.cappEnd
  next e => exact (along e h.remote :)
  next e => exact ((along e h.remote).endReplies).clearStall
  · exact h

protected theorem MemOk.cappHalf {s : State} {k : ThreadKey} {ent : Entry} (h : MemOk s) : (cappHalf s k ent).MemOk := by
  unfold Machine.cappHalf
  dsimp only
  split
  · exact h
  · split
    · exact h
    · split
      · exact h.cappRemote
      · split
        next e => exact (along e h.readRun :)
        next e => exact (along e h.readRun).endReplies
        next e =>
          have h' := along e h.readRun
          split
          · exact MemOk.cappTrap h'
          · split
            next e' => exact (along e' (MemOk.placeRuns h')).endReplies.clearStall
            next e' => exact (along e' (MemOk.placeRuns h') :)
            · exact h'
            · exact (MemOk.putRuns h').endReplies.cappEnd

protected theorem MemOk.bxldHalf {s : State} {k : ThreadKey} {ent : Entry} (h : MemOk s) : (bxldHalf s k ent).MemOk := by
  unfold Machine.bxldHalf
  dsimp only
  split
  · exact h
  · split
    · exact h
    · split
      next e => exact (along e h.readRun :)
      next e => exact (along e h.readRun).endReplies
      next e =>
        have h' := (along e h.readRun).endReplies (k := k) (who := 1)
        split
        · exact h'
        · split
          · exact h'
          · split
            · split
              · exact h'
              · split
                · exact h'
                · exact h'.modTh.later
            · split
              · exact h'
              · split
                · exact h'
                · exact h'.modTh.later

theorem MemOk.scalarDest {s : State} {k : ThreadKey} {d : Nat} {x : W64} (h : MemOk s) : MemOk (s.scalarDest k d x) := h.modTh

/-! ## The dispatch gate -/

theorem MemOk.book {s : State} {c part owner charge : Nat} (h : MemOk s) : MemOk (s.book c part owner charge) := h.modCore.modPart

theorem MemOk.passGate {s : State} {c part owner charge : Nat} (h : MemOk s) : MemOk (s.passGate c part owner charge) :=
  .ite h h.modCore.book

theorem MemOk.gateCycle {s : State} {c part owner charge : Nat} (h : MemOk s) : MemOk (s.gateCycle c part owner charge).1 := by
  unfold State.gateCycle
  dsimp only
  split
  · exact h.modCore.book
  · exact h.modCore

theorem MemOk.gateArrive {s : State} {c : Nat} (h : MemOk s) : MemOk (s.gateArrive c) :=
  h.foldl (fun _ _ h => .ite (.ite h h.modTh) (.ite h h.modTh.modCore))

theorem MemOk.gateArrivals {s : State} {k : ThreadKey} (h : MemOk s) : MemOk (s.gateArrivals k) := h.foldl (fun _ _ h => h.gateArrive)

theorem MemOk.clampSeq {s : State} {c : Nat} {w : List ThreadKey} (h : MemOk s) : MemOk (s.clampSeq c w) := by
  unfold State.clampSeq
  split
  · exact h
  · exact h.foldl (fun _ _ h => h.modTh)

theorem MemOk.seqGrant {s : State} {c b : Nat} {w : List ThreadKey} {k : ThreadKey} (h : MemOk s) : MemOk (s.seqGrant c w k b) :=
  h.clampSeq.modTh.clampSeq

theorem MemOk.ungrant {s : State} {j : ThreadKey} (h : MemOk s) : MemOk (s.ungrant j) := h.modCore

theorem MemOk.passSlot {s : State} {t : Thread} {j : ThreadKey} {beats charge : Nat} (h : MemOk s) :
    MemOk (s.passSlot t j beats charge) :=
  .ungrant (.passGate (.ite h h.seqGrant))

theorem MemOk.passReloc {s : State} {k : ThreadKey} (h : MemOk s) : MemOk (s.passReloc k) :=
  .ite (h.foldl (fun _ _ h => h.passSlot)) (.modTh (h.foldl (fun _ _ h => h.passSlot)))

theorem MemOk.recordSample {s : State} {k : ThreadKey} {ent : Entry} (h : MemOk s) : MemOk (s.recordSample k ent) :=
  .ite h (.ite (.trace (.modTh h)) (.modTh h))

theorem MemOk.sampleRelease {s : State} {k : ThreadKey} {ent : Entry} (h : MemOk s) : MemOk (s.sampleRelease k ent).1 := h.setTh

/-! ## Scalar instructions -/

theorem MemOk.alu {s : State} {d : SReg} {x : W64} (h : MemOk s) : MemOk (s.alu d x) := h.setS.advance

/-! ## Scalar memory and atomics -/

theorem MemOk.arm {s : State} {place : Option Nat} (h : MemOk s) : MemOk (s.arm place) := .ite h h.mod

theorem MemOk.performAll {s : State} {k : ThreadKey} (h : MemOk s) : MemOk (s.performAll k) :=
  .modTh (h.foldl (fun _ _ h => h.storeBytes))

protected theorem MemOk.execScalarAccessPerformed {k : ThreadKey} {s : State} (h : MemOk s) :
    NextOk (execScalarAccessPerformed k s) := by
  unfold Machine.execScalarAccessPerformed
  refine .next ?_
  split
  · exact h
  · exact h.modTh.storeBytes

theorem MemOk.putBytes {s : State} {flat : Nat} {bs : List Byte} (h : MemOk s) : MemOk (s.putBytes flat bs) :=
  .ite h.storeBytes h.mod.later

theorem MemOk.scalarAccess {s : State} {kind : AKind} {ea : W64} {n : Nat} {rop : RemoteOp} (h : MemOk s) :
    (s.scalarAccess kind ea n rop).MemOk := by
  unfold State.scalarAccess
  dsimp only
  split
  · exact h.holdOn
  · split
    · exact h.trap
    · split
      · exact h.touched
      · exact h.endReplies
      · exact h.holdOn
      next e =>
        split
        · exact ((along e h.access).endReplies).accessFault
        · exact h.holdOn
      next e => exact (along e h.access).holdOn

theorem MemOk.loadTo {s : State} {sg : Bool} {n : Nat} {d a : SReg} {imm : Imm} (h : MemOk s) : MemOk (s.loadTo sg n d a imm) := by
  unfold State.loadTo
  split
  next e => exact (along e h.scalarAccess :)
  next e => exact (((along e h.scalarAccess).arm).setS).advance

theorem MemOk.storeFrom {s : State} {n : Nat} {d a : SReg} {imm : Imm} (h : MemOk s) : MemOk (s.storeFrom n d a imm) := by
  unfold State.storeFrom
  dsimp only
  split
  next e => exact (along e h.scalarAccess :)
  next e => exact ((along e h.scalarAccess).putBytes).advance
  next e => exact (along e h.scalarAccess).advance

theorem MemOk.atomic {s : State} {k : AmoK} {o : Amo} (h : MemOk s) : MemOk (s.atomic k o) := by
  unfold State.atomic
  have hp : MemOk (if s.lane.isNone then s.performAll s.cur else s) := .ite h.performAll h
  refine .ite h.holdOn (.ite hp.trap (.ite hp.trap ?_))
  split
  next e => exact (along e hp.scalarAccess :)
  next e =>
    have ha {place : Option Nat} := (along e hp.scalarAccess).arm (place := place)
    refine .advance (.setS ?_)
    split
    · exact .ite ha.storeBytes ha
    · exact ha

/-! ## Asynchronous copy -/

theorem MemOk.modCh {s : State} {k : ThreadKey} {ch : Nat} {f : Chan → Chan} (h : MemOk s) : MemOk (s.modCh k ch f) := h.modTh

theorem MemOk.lookAgain {s : State} {k : ThreadKey} (h : MemOk s) : MemOk (s.lookAgain k) := by
  unfold State.lookAgain
  dsimp only
  split
  · exact .ite h.modTh.later h
  · exact h

theorem MemOk.stripDone {s : State} {k : ThreadKey} {ch id : Nat} (h : MemOk s) : MemOk (s.stripDone k ch id) := h.modTh.lookAgain

theorem MemOk.freezeCh {s : State} {k : ThreadKey} {ch id err : Nat} (h : MemOk s) : MemOk (s.freezeCh k ch id err) := h.modTh.lookAgain

theorem MemOk.beginStrip {s : State} {k : ThreadKey} {ch : Nat} {x : Xfer} (h : MemOk s) : MemOk (s.beginStrip k ch x) :=
  .later (.ite h.modCh.later h.modCh.later)

theorem MemOk.startStrip {s : State} {k : ThreadKey} {ch : Nat} (h : MemOk s) : MemOk (s.startStrip k ch) := by
  unfold State.startStrip
  refine .ite h ?_
  split
  · exact h
  · exact .ite h (.ite h.modCh.later (.ite h.beginStrip (.ite h (.ite h.enter.modCh h.enter.beginStrip))))

theorem MemOk.dropAsks {s : State} {k : ThreadKey} (h : MemOk s) : MemOk (s.dropAsks k) := .modTh (.ite h h)

protected theorem MemOk.stripRuns {k : ThreadKey} {who : Nat} {user : Bool} {tg : W64 → Target} {l : List (W64 × Nat)} {s : State}
    (h : MemOk s) : (stripRuns k who user tg l s).1.MemOk := by
  induction l generalizing s with
  | nil => exact h
  | cons x l ih =>
    unfold Machine.stripRuns
    split
    · split
      next e => exact (along_fst e (ih h.elemTouched) :)
      next e => exact (along_fst e (ih h.elemTouched) :)
    · split
      next e => exact (along_fst e (ih h) :)
      · exact ih h
    · exact h
    next e => exact (along e h.access :)
    next e => exact (along e h.access :)

protected theorem MemOk.readElems {k : ThreadKey} {ch : Nat} {user : Bool} {tg : W64 → Target} {n : Nat} {l : List W64} {s : State}
    (h : MemOk s) : (readElems k ch user tg n l s).1.MemOk := by
  induction l generalizing s with
  | nil => exact h
  | cons a l ih =>
    unfold Machine.readElems
    split
    next e => exact (along_fst e h.stripRuns :)
    next e => exact (along_fst e h.stripRuns :)
    next e =>
      have h' := along_fst e h.stripRuns
      split
      next e => exact (along_fst e (ih h') :)
      next e => exact (along_fst e (ih h') :)
      next e => exact (along_fst e (ih h') :)

protected theorem MemOk.placeElems {k : ThreadKey} {ch : Nat} {user : Bool} {tg : W64 → Target} {l : List (W64 × List Byte)}
    {s : State} (h : MemOk s) :
    (placeElems k ch user tg l s).MemOk := by
  induction l generalizing s with
  | nil => exact h
  | cons x l ih =>
    unfold Machine.placeElems
    split
    · split
      next e => exact (along e (ih h) :)
      next e => exact (along e (ih h) :)
      next e => exact (along e (ih h) :)
    · exact ih h
    · exact ih h
    next e => exact (along e h.access :)
    next e => exact (along e h.access :)

protected theorem MemOk.putElems {k : ThreadKey} {ch : Nat} {l : List (Nat × Nat × List Byte)} {s : State} (h : MemOk s) :
    MemOk (putElems k ch l s) := by
  induction l generalizing s with
  | nil => exact h
  | cons x l ih => exact ih h.storeBytes.elemTouched

theorem MemOk.stripReqs {s : State} {k : ThreadKey} {n : Nat} {wr : Bool} {flats : List Nat} (h : MemOk s) :
    MemOk (s.stripReqs k n wr flats) :=
  h.elemReqs

theorem MemOk.passBehind {s : State} {k : ThreadKey} {ch id : Nat} {c : Chan} (h : MemOk s) : MemOk (s.passBehind k ch id c) := h

theorem MemOk.partStrip {s : State} {k : ThreadKey} {ch : Nat} {places : List (Nat × Nat × List Byte)} (h : MemOk s) :
    MemOk (s.partStrip k ch places) :=
  .putElems h

theorem MemOk.performStrip {s : State} {k : ThreadKey} {ch id : Nat} (h : MemOk s) : MemOk (s.performStrip k ch id) := by
  unfold State.performStrip
  have hend {s : State} (h : MemOk s) : MemOk ((s.endReplies k (chWho ch)).clearStall k (chWho ch)) := h.endReplies.clearStall
  dsimp only
  refine .ite h ?_
  split
  · exact h
  · split
    next e => exact (along_fst e h.readElems :)
    next e =>
      have h' := along_fst e h.readElems
      split
      next e =>
        have h'' := along (P := StripOut.MemOk) e (of_ite h' (MemOk.placeElems h'))
        exact .ite (hend h'').faultPending.modCh (hend h'').partStrip.freezeCh
      · exact .ite (hend h').faultPending.modCh (hend h').partStrip.freezeCh
    next e =>
      have h' := along_fst e h.readElems
      split
      next e => exact (along e (MemOk.placeElems h') :)
      next e =>
        have h'' := along e (MemOk.placeElems h')
        exact .ite (hend h'').faultPending.modCh (hend h'').partStrip.freezeCh
      next e =>
        have h'' := along e (MemOk.placeElems h')
        split
        · exact .passBehind (.stripDone (.endReplies (.putElems (.stripReqs (.stripReqs h'')))))
        · split
          next e =>
            exact .passBehind (.stripDone (.endReplies (.putElems
              (.stripReqs (.stripReqs (along e (MemOk.placeElems (.set_freeCtr h'')) :))))))
          · exact h''

theorem MemOk.retryStrips {s : State} (h : MemOk s) : MemOk s.retryStrips := h

protected theorem MemOk.entryRead64 {s : State} {k : ThreadKey} {ent : Entry} {f : State → List Byte → AccHalf} (h : MemOk s)
    (hf : ∀ s, MemOk s → ∀ x, (f s x).MemOk) : (entryRead64 s k ent f).MemOk := by
  unfold Machine.entryRead64
  split
  · exact h
  · split
    next e => exact (along e h.readRun :)
    next e => exact (along e h.readRun).endReplies
    next e => exact hf _ ((along e h.readRun).endReplies) _

protected theorem MemOk.entryTrap {s : State} {ent : Entry} {cause detail : Nat} {va : W64} (h : MemOk s) :
    (entryTrap s ent cause detail va).MemOk :=
  h

protected theorem MemOk.xcfgHalf {s : State} {k : ThreadKey} {ent : Entry} (h : MemOk s) : (xcfgHalf s k ent).MemOk := by
  unfold Machine.xcfgHalf
  refine h.entryRead64 ?_
  intro _ h _
  dsimp only
  split
  · exact h.entryTrap
  · split
    · exact h.entryTrap
    · split
      · exact h.entryTrap
      · split
        · exact h.entryTrap
        · split
          · exact h
          · exact h.modCh.later

/-! ## Accesses of peers and of the host -/

theorem MemOk.answer {s : State} {r : RemoteReq} {o : RemoteOutcome} (h : MemOk s) : MemOk (s.answer r o) := h.send.crosses

theorem MemOk.servePlace {s : State} {r : RemoteReq} {kind : AKind} {va : Nat} (h : MemOk s) : (s.servePlace r kind va).MemOk := by
  unfold State.servePlace
  dsimp only
  split
  · split
    · exact h
    · trivial
  · exact h
  · exact h
  · exact h
  · exact h.log
  · exact h
  · exact .ite h h.startPull

protected theorem MemOk.servePlaces {r : RemoteReq} {l : List (W64 × List Byte)} {s : State} (h : MemOk s) :
    (servePlaces r l s).elim ServeOut.MemOk fun _ => True := by
  induction l with
  | nil => trivial
  | cons x l ih =>
    unfold Machine.servePlaces
    split
    · split
      · trivial
      next e => exact (along e ih :)
    next e => exact (along e h.servePlace :)
    next e => exact (along e h.servePlace :)
    next e => exact (along e h.servePlace :)

protected theorem MemOk.servePuts {r : RemoteReq} {l : List (Nat × Nat × List Byte)} {s : State} (h : MemOk s) :
    MemOk (servePuts r l s) :=
  h.foldl (fun _ _ h => h.storeBytes.accessReqs.nearTouch)

theorem MemOk.serveCapp {s : State} {r : RemoteReq} {idx : List Nat} {old : List Byte} (h : MemOk s) :
    (s.serveCapp r idx old).MemOk := by
  unfold State.serveCapp
  dsimp only
  split
  · exact h
  · split
    next e => exact (along e h.servePlaces :)
    · exact h.servePuts

theorem MemOk.serveRemote {s : State} {r : RemoteReq} (h : MemOk s) : MemOk (s.serveRemote r) := by
  unfold State.serveRemote
  dsimp only
  refine .ite h.answer (.ite h.answer ?_)
  split
  case' h_1 e => refine .answer (along (P := ServeOut.MemOk) e ?_)
  case' h_2 e => refine .set_remoteHeld (along (P := ServeOut.MemOk) e ?_)
  case h_3 => exact h
  all_goals
    split
    · split
      · exact h.accessReqs.nearTouch.serveCapp
      · split
        · exact h.accessReqs.nearTouch.storeBytes
        · exact h.accessReqs.nearTouch
    · exact h.servePlace

theorem MemOk.retryRemote {s : State} (h : MemOk s) : MemOk s.retryRemote := .foldl h (fun _ _ h => h.serveRemote)

theorem MemOk.hostReqs {s : State} {func addr n : Nat} {wr : Bool} (h : MemOk s) : MemOk (s.hostReqs func addr n wr) :=
  h.hostRequest.accessReqs.nearReach

theorem MemOk.inOrder {s : State} {func : Nat} {i : Instr} {f : State → State} (h : MemOk s) (hf : ∀ s, MemOk s → MemOk (f s)) :
    MemOk (s.inOrder func i f) :=
  .ite h (hf _ h)

theorem MemOk.hostPerform {s : State} {x : HostWrite} (h : MemOk s) : MemOk (s.hostPerform x) := by
  unfold State.hostPerform
  split
  · exact h.storeBytes.hostReqs
  · exact h.store.hostReqs.set_hostOut

/-! ## Lifetime links -/

protected theorem MemOk.goHeld {p : State × List Nat} {w : HostWrite} (h : MemOk p.1) : MemOk (goHeld p w).1 := by
  unfold Machine.goHeld
  split
  · exact h.later
  · exact h.hostPerform

theorem MemOk.hostWrites {s : State} (h : MemOk s) : MemOk s.hostWrites := .foldl_fst h (fun _ _ h => h.goHeld)

theorem MemOk.retryFront {s : State} (h : MemOk s) : MemOk s.retryFront := .foldl h (fun _ _ h => h.askHead)

theorem MemOk.clearBlanks {s : State} (h : MemOk s) : MemOk s.clearBlanks := by
  unfold State.clearBlanks
  dsimp only
  split
  · exact h
  · exact wf_filter _ h

theorem MemOk.afterRelease {s : State} (h : MemOk s) : MemOk s.afterRelease :=
  h.clearBlanks.hostWrites.set_agenda_landings.retryRemote.retryFront.retryStrips

theorem MemOk.modOrigin {s : State} {link : Nat} {f : Origin → Origin} (h : MemOk s) : MemOk (s.modOrigin link f) :=
  .ite (.afterRelease h) h

theorem MemOk.stubEnds {s : State} {sid : W64} {last : LinkState} (h : MemOk s) : MemOk (s.stubEnds sid last) := by
  unfold State.stubEnds
  split
  · exact h
  · exact h.modOrigin

theorem MemOk.tellOrigin {s : State} {sid : W64} {drained : Bool} (h : MemOk s) : MemOk (s.tellOrigin sid drained) :=
  .ite h.stubEnds h.send

theorem MemOk.grantRef {s : State} {from_ dest : Nat} {sid : W64} (h : MemOk s) : MemOk (s.grantRef from_ dest sid).1 := by
  unfold State.grantRef
  split
  · exact h
  · split
    · exact h
    · exact h.modOrigin

theorem MemOk.modHolders {s : State} {p : Holder → Bool} {f : Holder → Holder} (h : MemOk s) : MemOk (s.modHolders p f) := h

theorem MemOk.logWalk {s : State} {c va : Nat} (h : MemOk s) : MemOk (s.logWalk c va) := by
  unfold State.logWalk
  split
  · exact h.log
  · exact h

theorem MemOk.sever {s : State} {p : Holder → Bool} (h : MemOk s) : MemOk (s.sever p) := h.modHolders

theorem MemOk.read64 {s : State} {ea : W64} {f : State → List Byte → State} (h : MemOk s)
    (hf : ∀ s, MemOk s → ∀ x, MemOk (f s x)) : MemOk (s.read64 ea f) := by
  unfold State.read64
  refine .ite h.trap (.ite h.holdOn ?_)
  split
  next e => exact (along e h.readRun).holdOn
  next e => exact ((along e h.readRun).endReplies).accessFault
  next e => exact hf _ ((along e h.readRun).endReplies) _

theorem MemOk.readStub {s : State} {ea : W64} {f : State → Stub → State} (h : MemOk s) (hf : ∀ s, MemOk s → ∀ x, MemOk (f s x)) :
    MemOk (s.readStub ea f) :=
  h.read64 (fun _ h _ => .ite (hf _ h _) h.trap)

protected theorem MemOk.sendPages {s : State} {k : ThreadKey} {user : Bool} {tgt : Nat} {sel : W64} {n a : Nat} (h : MemOk s) :
    (sendPages s k user tgt sel n a).MemOk := by
  induction n generalizing a with
  | zero => trivial
  | succ n ih =>
    unfold Machine.sendPages
    dsimp only
    split
    · exact h
    · split
      · split
        · exact h
        · split
          · trivial
          · split
            · trivial
            · exact ih
      · exact h
      · exact h
      · exact h.log
      · trivial
      · exact h
      · exact h

theorem MemOk.soutPlace {s : State} {k : ThreadKey} {user : Bool} {a : W64} (h : MemOk s) : (s.soutPlace k user a).MemOk := by
  unfold State.soutPlace
  dsimp only
  split
  · trivial
  · split
    · split
      · split
        · exact h
        · trivial
      · trivial
      · exact h
      · exact h.log
      · exact h
      · exact h
      · exact .ite h h.startPull
    · split
      · trivial
      · exact h
    · split
      · trivial
      · exact h
    · exact h

theorem MemOk.settlePages {s : State} {pages : List Nat} (h : MemOk s) : MemOk (s.settlePages pages) :=
  h.foldl (fun _ _ h => h.performAll)

theorem MemOk.sendStep {s : State} {k : ThreadKey} {ent : Entry} {x serial : Nat} {pages : List Nat} {place : SoutPlace} (h : MemOk s) :
    MemOk (s.sendStep k ent x serial pages place) := by
  unfold State.sendStep
  refine .crosses (.send (.scalarDest ?_))
  split
  · exact h.settlePages.set_origins.storeBytes.touched
  · exact h.settlePages.set_origins

protected theorem MemOk.takeSerial {s : State} {ent : Entry} (h : MemOk s) : MemOk (takeSerial s ent).1 := by
  unfold Machine.takeSerial
  split <;> exact h

protected theorem MemOk.finishSend {s : State} {k : ThreadKey} {ent : Entry} {x : Nat} {pages : List Nat} {place : SoutPlace}
    {sout : W64} (h : MemOk s) : (finishSend s k ent x pages place sout).MemOk := by
  unfold Machine.finishSend
  split
  next e =>
    split
    · split
      next e' => exact (along e' ((along_fst e h.takeSerial).remote) :)
      next e' => exact ((along e' ((along_fst e h.takeSerial).remote)).endReplies).clearStall
      · exact (((along_fst e h.takeSerial).endReplies).clearStall).sendStep
    · exact (along_fst e h.takeSerial).sendStep

protected theorem MemOk.dsendHalf {s : State} {k : ThreadKey} {ent : Entry} (h : MemOk s) : (dsendHalf s k ent).MemOk := by
  unfold Machine.dsendHalf
  dsimp only
  split
  · exact h.entryTrap
  · refine h.entryRead64 ?_
    intro _ h _
    split
    · exact h.entryTrap
    · split
      · exact h.entryTrap
      · split
        · exact h.entryTrap
        · split
          · exact h
          next e => exact (along e h.sendPages :)
          · split
            · exact h.entryTrap
            · split
              next e => exact (along e h.soutPlace :)
              next e => exact (along e h.soutPlace :)
              · split
                · exact h.entryTrap
                · split
                  · exact h.entryTrap
                  · exact h.finishSend

protected theorem MemOk.dpullHalf {s : State} {k : ThreadKey} {ent : Entry} (h : MemOk s) : (dpullHalf s k ent).MemOk := by
  unfold Machine.dpullHalf
  dsimp only
  split
  · exact h.entryTrap
  · exact h.foldl (fun _ _ h => h.startPull)

protected theorem MemOk.entryStub {s : State} {k : ThreadKey} {ent : Entry} {f : State → Stub → AccHalf} (h : MemOk s)
    (hf : ∀ s, MemOk s → ∀ x, (f s x).MemOk) : (entryStub s k ent f).MemOk := by
  unfold Machine.entryStub
  split
  · exact h.entryTrap
  · refine h.entryRead64 ?_
    intro _ h _
    split
    · exact hf _ h _
    · exact h.entryTrap

theorem MemOk.blank {s : State} {x : Holder} (h : MemOk s) : MemOk (s.blank x) := .clearBlanks h

protected theorem MemOk.ddropHalf {s : State} {k : ThreadKey} {ent : Entry} (h : MemOk s) : (ddropHalf s k ent).MemOk := by
  unfold Machine.ddropHalf
  refine h.entryStub ?_
  intro _ h _
  dsimp only
  split
  · exact h.entryTrap
  · split
    · exact h
    · exact .modCtx (.set_holders (.blank (.ite h.tellOrigin h)))

protected theorem MemOk.finishResend {s : State} {k : ThreadKey} {ent : Entry} {x : Stub} {r : RefReply} (h : MemOk s) :
    (finishResend s k ent x r).MemOk := by
  unfold Machine.finishResend
  dsimp only
  split
  · exact h.modTh.sever.retryFront.entryTrap
  · exact h.modTh.entryTrap
  · exact h.modTh.scalarDest.send.crosses

protected theorem MemOk.dresendHalf {s : State} {k : ThreadKey} {ent : Entry} (h : MemOk s) : (dresendHalf s k ent).MemOk := by
  unfold Machine.dresendHalf
  dsimp only
  split
  · exact h.finishResend
  · exact h
  · refine h.entryStub ?_
    intro _ h _
    split
    · exact h.entryTrap
    · split
      · exact h.entryTrap
      · split
        · exact h.entryTrap
        · split
          · exact h.entryTrap
          · split
            · exact h.entryTrap
            · split
              · exact h.grantRef.finishResend
              · exact h.send.modTh

theorem MemOk.ownAccess {s : State} {c va : Nat} {kind : AKind} (h : MemOk s) : (s.ownAccess c kind va).MemOk := by
  unfold State.ownAccess
  dsimp only
  split
  · trivial
  · split
    · trivial
    · trivial
    · exact .ite h h.startPull
    · trivial

protected theorem MemOk.zeroFrom {s : State} {pages : List Nat} {n : Nat} (h : MemOk s) : MemOk (zeroFrom s pages n) :=
  h.foldl (fun _ _ h => h.storeBytes)

theorem MemOk.waitStub {s : State} {from_ c : Nat} {x : Stub} {bad : Option Nat} (h : MemOk s) : MemOk (s.waitStub from_ c x bad) := by
  unfold State.waitStub
  refine .congr ?_ rfl
  split
  · exact .ite h h.logWalk.log
  · exact h

theorem MemOk.ackStub {s : State} {from_ : Nat} {x : Stub} (h : MemOk s) : MemOk (s.ackStub from_ x) :=
  .ite (.ite h.modOrigin h.send) (.send (.ite h.modOrigin h.send))

theorem MemOk.leavesTransit {s : State} {from_ c : Nat} {x : Stub} (h : MemOk s) : MemOk (s.leavesTransit from_ c x) := h

theorem MemOk.refuseStub {s : State} {from_ c : Nat} {x : Stub} (h : MemOk s) : MemOk (s.refuseStub from_ c x) :=
  .ite h.leavesTransit.log.stubEnds h.leavesTransit.log.send

theorem MemOk.takeStub {s : State} {from_ c off slot wrAt : Nat} {x : Stub} {d : Inbound} {pages : List Nat} (h : MemOk s) :
    MemOk (s.takeStub from_ c x d off pages slot wrAt) :=
  h.leavesTransit.zeroFrom.set_holders.modCtx.storeBytes.store.ackStub

theorem MemOk.deliverTo {s : State} {from_ c : Nat} {x : Stub} {d : Inbound} (h : MemOk s) : MemOk (s.deliverTo from_ c x d) := by
  unfold State.deliverTo
  refine .ite h.waitStub ?_
  split
  · exact h.waitStub
  · split
    · exact h.waitStub
    · exact h.waitStub
    · split
      · exact h.takeStub
      next e => exact (along e h.ownAccess).waitStub
      next e _ => exact (along e h.ownAccess).waitStub
      · exact h.waitStub

theorem MemOk.deliver {s : State} {from_ c : Nat} {x : Stub} (h : MemOk s) : MemOk (s.deliver from_ c x) := by
  unfold State.deliver
  refine .ite h.leavesTransit.ackStub (.ite h.refuseStub ?_)
  split
  · exact .ite h.refuseStub (.ite h.waitStub (.ite h.waitStub h.deliverTo))
  next e => exact .waitStub (.ite (along e h.ownAccess :) h)
  · exact h.waitStub

protected theorem MemOk.execPullRequest {from_ seg : Nat} {sid : W64} {s : State} (h : MemOk s) :
    NextOk (execPullRequest from_ sid seg s) := by
  unfold Machine.execPullRequest
  refine .next ?_
  split
  · exact h.send
  · exact h.crosses.accessReqs.crosses.nearReach.send.modOrigin

theorem MemOk.land {s : State} {x : Holder} {seg : Nat} {bs : List Byte} (h : MemOk s) : MemOk (s.land x seg bs) := by
  unfold State.land
  dsimp only
  split
  · exact h.logWalk.modHolders
  · exact .ite h (.ite h.storeBytes.crosses.accessReqs.nearTouch.modHolders.tellOrigin
      h.storeBytes.crosses.accessReqs.nearTouch.modHolders)

theorem MemOk.retrySaves {s : State} (h : MemOk s) : MemOk s.retrySaves := h

protected theorem MemOk.execSegmentLanding {sid : W64} {seg : Nat} {r : PullReply} {s : State} (h : MemOk s) :
    NextOk (execSegmentLanding sid seg r s) := by
  unfold Machine.execSegmentLanding
  refine .next ?_
  split
  · exact h
  · refine .retrySaves (.retryStrips (.retryFront (.retryRemote ?_)))
    split
    · exact h.sever
    · exact h.land

protected theorem MemOk.execReferenceRequest {from_ dest : Nat} {sid : W64} {s : State} (h : MemOk s) :
    NextOk (execReferenceRequest from_ dest sid s) := by
  unfold Machine.execReferenceRequest
  refine .next (.send ?_)
  split
  · exact h
  · split
    · exact h
    · exact h.modOrigin

protected theorem MemOk.execReferenceGrant {ask : RefAsk} {r : RefReply} {s : State} (h : MemOk s) :
    NextOk (execReferenceGrant ask r s) := by
  unfold Machine.execReferenceGrant
  refine .next ?_
  split
  · exact h
  · exact h.modTh.retrySaves

protected theorem MemOk.execHostLentWriteTimeout {s : State} (h : MemOk s) : NextOk (execHostLentWriteTimeout s) := by
  unfold Machine.execHostLentWriteTimeout
  refine .next ?_
  split
  · exact h
  · exact .hostWrites (.log h)

theorem MemOk.tearLinks {s : State} {c : Nat} (h : MemOk s) : MemOk (s.tearLinks c) :=
  .modCtx (.set_holders (.foldl (h.foldl (fun _ _ h => .modOrigin (h.foldl (fun _ _ h => .ite h.later h.send))))
    (fun _ _ h => .ite h.tellOrigin h)))

theorem MemOk.lostPackage {s : State} {pkg : Nat} (h : MemOk s) : MemOk (s.lostPackage pkg) :=
  h.sever.foldl (fun _ _ h => h.foldl (fun _ _ h => h.stubEnds))

/-! ## Routed instructions -/

theorem MemOk.putEntry {s : State} {k : ThreadKey} {ent e' : Entry} (h : MemOk s) : MemOk (s.putEntry k ent e') := h.modTh

theorem MemOk.retire {s : State} {k : ThreadKey} {ent : Entry} (h : MemOk s) : MemOk (s.retire k ent) := .ite h.modTh.sweepSlots h.modTh

theorem MemOk.retireDropped {s : State} {k : ThreadKey} {ent : Entry} (h : MemOk s) : MemOk (s.retireDropped k ent) := by
  unfold State.retireDropped
  refine .retire ?_
  split
  · exact h.modTh.scalarDest
  · exact h.modTh

theorem MemOk.trapEntry {s : State} {k : ThreadKey} {ent e' : Entry} {cause detail index : Nat} {va : W64} (h : MemOk s) :
    MemOk (s.trapEntry k ent e' cause detail index va) :=
  h.modTh.takeTrap

theorem MemOk.arithTrap {s : State} {k : ThreadKey} {ent : Entry} {r : Raised} (h : MemOk s) : MemOk (s.arithTrap k ent r) := h.takeTrap

protected theorem MemOk.finish {s : State} {k : ThreadKey} {ent : Entry} {v : VecState} {r : Raised} (h : MemOk s) :
    (finish s k ent v r).MemOk := by
  unfold Machine.finish
  dsimp only
  split
  · exact h.modTh.recordSample.retire
  · exact h.modTh.recordSample.retire.arithTrap

theorem MemOk.xchReqs {s : State} {k : ThreadKey} {ent : Entry} (h : MemOk s) : MemOk (s.xchReqs k ent) := by
  unfold State.xchReqs
  refine h.foldl ?_
  intro _ _ h
  dsimp only
  split
  · exact h.message
  · exact h

theorem MemOk.computeReqs {s : State} {k : ThreadKey} {ent : Entry} (h : MemOk s) : MemOk (s.computeReqs k ent) := by
  unfold State.computeReqs
  split
  · exact h.xchReqs
  · exact h

protected theorem MemOk.completeCompute {s : State} {k : ThreadKey} {ent : Entry} (h : MemOk s) : (completeCompute s k ent).MemOk := by
  unfold Machine.completeCompute
  split
  · exact h.trapEntry
  · exact h.scalarDest.set_freeCtr.finish
  · refine MemOk.finish (.computeReqs ?_)
    split
    · exact h.scalarDest
    · exact h

protected theorem MemOk.completeEntry {s : State} {k : ThreadKey} {ent : Entry} (h : MemOk s) : (completeEntry s k ent).MemOk := by
  unfold Machine.completeEntry
  split
  · exact h.finish
  · split
    · exact h.completeCompute
    · exact h.retire

protected theorem MemOk.accessHalf {s : State} {k : ThreadKey} {ent : Entry} (h : MemOk s) : (accessHalf s k ent).MemOk := by
  unfold Machine.accessHalf
  split
  · exact h.elemsHalf
  · exact h.elemsHalf
  · exact h.elemsHalf
  · exact h.elemsHalf
  · exact h.mldtHalf
  · exact h.cbldHalf
  · exact h.cappHalf
  · exact h.bxldHalf
  · exact h.xcfgHalf
  · exact h.dsendHalf
  · exact h.dpullHalf
  · exact h.ddropHalf
  · exact h.dresendHalf
  · exact h

protected theorem MemOk.accessFaulted {s : State} {k : ThreadKey} {e e' : Entry} {cause detail i : Nat} {va : W64} {kind : AKind}
    {migw : Bool}
    (h : MemOk s) : (accessFaulted s k e e' cause detail i va kind migw).elim EntryOut.MemOk fun p => MemOk p.1 := by
  unfold Machine.accessFaulted
  split
  · exact h.modTh
  · exact MemOk.ite h.modTh.trapEntry.pageFault h.modTh.trapEntry

protected theorem MemOk.runAccess {s : State} {k : ThreadKey} {e : Entry} (h : MemOk s) :
    (runAccess s k e).elim EntryOut.MemOk fun p => MemOk p.1 := by
  unfold Machine.runAccess
  split
  · exact h
  · split
    next e => exact (along e h.accessHalf :)
    next e => exact MemOk.putEntry (along e h.accessHalf :)
    next e => exact MemOk.accessFaulted (along e h.accessHalf :)

theorem MemOk.release {s : State} {k : ThreadKey} {ent : Entry} (h : MemOk s) : MemOk (s.release k ent).1 := by
  unfold State.release
  split
  · exact h
  · exact MemOk.sampleRelease (ent := ent) (h.foldl fun _ _ h => h.passSlot)

protected theorem MemOk.runHead {s : State} {k : ThreadKey} {ent : Entry} (h : MemOk s) : (runHead s k ent).MemOk := by
  unfold Machine.runHead
  dsimp only
  split
  · exact h.retireDropped
  · split
    · exact h.trapEntry
    · split
      next e => exact (along e h.runAccess :)
      next e => exact (((along e h.runAccess).release).putEntry).completeEntry

protected theorem MemOk.runEntry {s : State} {k : ThreadKey} {ent : Entry} (h : MemOk s) : (runEntry s k ent).MemOk := by
  unfold Machine.runEntry
  split
  next e =>
    split
    · exact (along e h.runHead :)
    · exact h
  · exact h.runHead

protected theorem MemOk.drainLoop {n : Nat} {s : State} {k : ThreadKey} (h : MemOk s) : MemOk (drainLoop n s k).1 := by
  induction n generalizing s with
  | zero => exact h
  | succ n ih =>
    unfold Machine.drainLoop
    split
    · exact h
    · split
      next e => exact ih (along e h.runEntry :)
      next e => exact (along e h.runEntry :)
      next e => exact (along e h.runEntry :)

theorem MemOk.startFetch {s : State} {k : ThreadKey} (h : MemOk s) : MemOk (s.startFetch k) := by
  unfold State.startFetch
  dsimp only
  split
  · exact h
  · exact .ite h h.modTh

theorem MemOk.drain {s : State} {k : ThreadKey} (h : MemOk s) : MemOk (s.drain k).1 := by
  unfold State.drain
  dsimp only
  split
  · exact h.drainLoop
  · exact h.drainLoop.startFetch

theorem MemOk.route {s : State} {r : Routing} (h : MemOk s) : MemOk (s.route r) := by
  unfold State.route
  split
  · exact h.trap
  · exact .ite h.holdOn (.ite h.holdOn (.ite h.mod.drain h.mod.gateArrivals))

/-! ## Barriers -/

theorem MemOk.putBar {s : State} {flat : Nat} {o : BarObj} (h : MemOk s) : MemOk (s.putBar flat o) := h

theorem MemOk.barReqs {s : State} {key flat : Nat} {wr : Bool} (h : MemOk s) : MemOk (s.barReqs key flat wr) := h.accessReqs

theorem MemOk.dropIdle {s : State} {flat : Nat} (h : MemOk s) : MemOk (s.dropIdle flat) := by
  unfold State.dropIdle
  split
  · exact h
  · exact .ite (.barReqs (.storeBytes h)) h

theorem MemOk.barPlace {s : State} {flat : Nat} (h : MemOk s) : (s.barPlace flat).MemOk := by
  unfold State.barPlace
  dsimp only
  split
  · exact h
  · split
    · exact h
    · split
      · exact h.dropIdle
      · split <;> trivial

theorem MemOk.releaseBar {s : State} {flat : Nat} (h : MemOk s) : MemOk (s.releaseBar flat) := h

theorem MemOk.holdWaiters {s : State} {flat : Nat} {x : Hold} (h : MemOk s) : MemOk (s.holdWaiters flat x) := h

theorem MemOk.barAt {s : State} {kind : AKind} {a : W64} {f : State → Nat → State} (h : MemOk s)
    (hf : ∀ s, MemOk s → ∀ x, MemOk (f s x)) : MemOk (s.barAt kind a f) := by
  unfold State.barAt
  refine .ite h.trap (.ite h.trap ?_)
  split
  · exact hf _ h.clearStall _
  · exact h.trap
  · exact h.trap
  next e => exact (along e h.access).accessFault
  next e => exact (along e h.access).holdOn

theorem MemOk.barFault {s : State} {detail : Nat} (h : MemOk s) : MemOk (s.barFault detail) := h.trap

protected theorem MemOk.execBarinit {a b : SReg} {s : State} (h : MemOk s) : NextOk (execBarinit a b s) := by
  unfold Machine.execBarinit
  refine .next ?_
  split
  · exact h.barFault
  · exact h.barAt (fun _ h _ => h.whenPerformed (fun _ h => .advance
      (.holdWaiters (.ite h.storeBytes.message.barReqs.putBar h.storeBytes.message.barReqs))))

theorem MemOk.arriveAt {s : State} {flat : Nat} {o : BarObj} {a : W64} (h : MemOk s) : MemOk (s.arriveAt flat o a).1 := by
  unfold State.arriveAt
  dsimp only
  refine .ite (.releaseBar (.putBar ?_)) (.putBar ?_) <;> refine .ite (.message ?_) (.barReqs (.message ?_))
  all_goals
    split
    · exact h.mod
    · exact h

theorem MemOk.arriveThen {s : State} {a : W64} {hidden : Bool} {f : State → Nat → W64 → State} (h : MemOk s)
    (hf : ∀ s, MemOk s → ∀ x y, MemOk (f s x y)) : MemOk (s.arriveThen a hidden f) := by
  unfold State.arriveThen
  refine h.barAt ?_
  intro _ h _
  split
  · exact h.barFault
  · exact h.holdOn
  next e =>
    dsimp only
    split
    · exact (along e h.barPlace).barFault
    · exact (along e h.barPlace).whenPerformed (fun _ h => hf _ h.arriveAt _ _)

theorem MemOk.barWait {s : State} {flat : Nat} {a ent : W64} (h : MemOk s) : MemOk (s.barWait flat a ent) := by
  unfold State.barWait
  refine .ite h.mod.barFault (.ite (.advance (.mod (.ite h.putBar h))) ?_)
  split
  next e => exact .holdOn (.putBar (.ite (along e h.barPlace :) ((along e h.barPlace).barReqs)))
  · exact h.holdOn

theorem MemOk.barBroke {s : State} (h : MemOk s) : MemOk s.barBroke := .ite h.mod.barFault h

protected theorem MemOk.execBarwait {a : SReg} {s : State} (h : MemOk s) : NextOk (execBarwait a s) := by
  unfold Machine.execBarwait
  refine .next (.ite h.barBroke ?_)
  refine h.barAt ?_
  intro _ h _
  split
  · exact h.barFault
  · exact h.barWait

protected theorem MemOk.execBarwaitA {a : SReg} {s : State} (h : MemOk s) : NextOk (execBarwaitA a s) := by
  unfold Machine.execBarwaitA
  refine .next (.ite h.barBroke ?_)
  split
  · exact h.barAt (fun _ h _ => h.barWait)
  · exact h.arriveThen (fun _ h _ _ => h.mod.barWait)

protected theorem MemOk.execBarrierBroken {flat : Nat} {s : State} (h : MemOk s) : NextOk (execBarrierBroken flat s) := by
  unfold Machine.execBarrierBroken
  refine .next ?_
  split
  · exact h
  · exact h.putBar.holdWaiters

theorem MemOk.dropBars {s : State} {c : Nat} (h : MemOk s) : MemOk (s.dropBars c) := h

theorem MemOk.endWaits {s : State} {g : Nat} (h : MemOk s) : MemOk (s.endWaits g) := h

/-! ## Branches, fetches and lane threads -/

theorem MemOk.fetchWord {s : State} {a : W64} (h : MemOk s) : (s.fetchWord a).MemOk := by
  unfold State.fetchWord
  split
  · exact h.accessReqs
  · exact h
  · exact h
  next e => exact (along e h.access :)
  next e => exact (along e h.access).holdOn

theorem MemOk.branch {s : State} {taken : Bool} {off : BitVec 38} (h : MemOk s) : MemOk (s.branch taken off) := .ite h.jump h.advance

theorem MemOk.maskBranch {s : State} {m : SReg} {off : BitVec 38} {taken : List Bool → Bool} (h : MemOk s) :
    MemOk (s.maskBranch m off taken) :=
  .ite h.illReg (.ite h.holdOn h.branch)

theorem MemOk.skipTo {s : State} {ent : W64} (h : MemOk s) : MemOk (s.skipTo ent) := h.mod

theorem MemOk.handFetch {s : State} {f : FetchRec} (h : MemOk s) : MemOk (s.handFetch f) :=
  .ite h.mod.advance.startFetch h.mod.advance.later

theorem MemOk.header {s : State} {off : BitVec 38} (h : MemOk s) : (s.header off).MemOk := by
  unfold State.header
  dsimp only
  split
  next e => exact (along e h.fetchWord :)
  next e => exact .ite ((along e h.fetchWord).accessFault) h.holdOn
  next e =>
    split
    · exact (along e h.fetchWord).trap
    · exact (along e h.fetchWord :)

protected theorem MemOk.execVfetch {k : MReg} {off : BitVec 38} {s : State} (h : MemOk s) : NextOk (execVfetch k off s) := by
  unfold Machine.execVfetch
  refine .next ?_
  split
  next e => exact (along e h.header :)
  next e => exact .ite ((along e h.header).holdOn) ((along e h.header).handFetch)

protected theorem MemOk.execVjoin {s : State} (h : MemOk s) : NextOk (execVjoin s) := by
  unfold Machine.execVjoin
  refine .next ?_
  split
  · exact h.mod
  · exact .ite h.holdOn h.advance

/-! ## Vector configuration -/

theorem MemOk.moveCores {s : State} {k : ThreadKey} {new : List Member} (h : MemOk s) : MemOk (s.moveCores k new) := by
  unfold State.moveCores
  refine .ite h ?_
  dsimp only
  split
  · exact h.foldl (fun _ _ h => h.modCore.ungrant.setTh)
  · exact .later (.modGrp (h.foldl (fun _ _ h => h.modCore.ungrant.setTh)))

theorem MemOk.changeShare {s : State} {k : ThreadKey} {req : Nat} (h : MemOk s) : MemOk (s.changeShare k req) :=
  .ite h.moveCores.modTh.passReloc h.moveCores.modTh.gateArrivals

theorem MemOk.setLength {s : State} {sd sa : VReg} (h : MemOk s) : MemOk (s.setLength sd sa) :=
  .advance (.ite (.later (.ite h.mod.later h.mod)) (.ite h.mod.later h.mod))

protected theorem MemOk.execVsetl {sd sa : VReg} {s : State} (h : MemOk s) : NextOk (execVsetl sd sa s) := by
  unfold Machine.execVsetl
  refine .next ?_
  split
  · exact h.illReg
  · exact .ite (.ite h.holdOn h.changeShare.setLength) h.setLength

protected theorem MemOk.execVmt {sa : VReg} {s : State} (h : MemOk s) : NextOk (execVmt sa s) := by
  unfold Machine.execVmt
  refine .next ?_
  split
  · exact h.illReg
  · exact h.writeReg

protected theorem MemOk.execVcfg {first last : SReg} {tag : BitVec 6} {gc : BitVec 2} {cb : BitVec 4} {s : State} (h : MemOk s) :
    NextOk (execVcfg first last tag gc cb s) := by
  unfold Machine.execVcfg
  refine .next ?_
  split
  · exact h.trap
  · exact h.mod.advance

/-! ## Groups and slices -/

theorem MemOk.setLg {s : State} {c t x : Nat} (h : MemOk s) : MemOk (s.setLg c t x) := h.modCore

theorem MemOk.giveLg {s : State} {c t x : Nat} (h : MemOk s) : MemOk (s.giveLg c t x) := h.setLg.modCore

theorem MemOk.seat {s : State} {l : Launch} {w : Want} {quad : Bool} {cores : List Nat} (h : MemOk s) :
    SomeOk (s.seat l w quad cores) := by
  unfold State.seat
  dsimp only
  split
  · trivial
  · split
    · exact .later (.modGrp (h.foldl (fun _ _ h => h.giveLg)))
    · split
      · trivial
      · exact .later (.set_groups_nextId (h.foldl (fun _ _ h => h.giveLg)))

protected theorem MemOk.seatAll {l : Launch} {quad : Bool} {spots : List (List Nat)} {ws : List (Want × Nat)} {s : State} (h : MemOk s) :
    SomeOk (seatAll l quad spots ws s) := by
  induction ws generalizing s with
  | nil => exact h
  | cons w ws ih =>
    unfold Machine.seatAll
    split
    · trivial
    next e => exact ih (along e h.seat :)

theorem MemOk.seatBundle {s : State} {l : Launch} {ws : List Want} {spots : List (List Nat)} (h : MemOk s) :
    SomeOk (s.seatBundle l ws spots) :=
  h.seatAll

theorem MemOk.placeBundle {s : State} {l : Launch} {ws rest : List Want} (h : MemOk s) : SomeOk (s.placeBundle l ws rest) := by
  unfold State.placeBundle
  dsimp only
  have hx (x) : SomeOk ((s.seatBundle l ws x).bind fun s' =>
      if l.kern.bks && rest.any (fun w => !s'.takes l w rest.length) then none else some s') := by
    refine .bind fun t ht => ?_
    split
    · trivial
    · exact (along ht h.seatBundle :)
  split
  · exact SomeOk.bind fun x _ => hx x
  · exact SomeOk.findSome? fun ds => SomeOk.bind fun x _ => hx x

protected theorem MemOk.placeMany {l : Launch} {ws : List Want} {s : State} (h : MemOk s) : SomeOk (placeMany l ws s) := by
  induction ws, s using Machine.placeMany.induct l with
  | case1 a b c d rest s t e ih =>
    simp only [Machine.placeMany, e]
    exact ih (along e h.placeBundle :)
  | case2 a b c d rest s e hb => simp only [Machine.placeMany, e, hb]; trivial
  | case3 a b c d rest s e hb e' => simp only [Machine.placeMany, e, hb, e']; trivial
  | case4 a b c d rest s e hb t e' ih =>
    simp only [Machine.placeMany, e, hb, e']
    exact ih (along e' h.placeBundle :)
  | case5 w rest s hr e =>
    rw [Machine.placeMany.eq_2 _ _ _ _ hr, e]
    trivial
  | case6 w rest s hr t e ih =>
    rw [Machine.placeMany.eq_2 _ _ _ _ hr, e]
    exact ih (along e h.placeBundle :)
  | case7 s => exact h

theorem MemOk.tryItem {s : State} {i : PendItem} (h : MemOk s) : SomeOk (s.tryItem i) := by
  unfold State.tryItem
  split
  · trivial
  · exact h.placeMany

theorem MemOk.settleCtx {s : State} {c : Nat} (h : MemOk s) : MemOk (s.settleCtx c) := by
  unfold State.settleCtx
  split
  · exact h
  · exact h
  · exact h
  · exact h.modCtx

theorem MemOk.updateHolds {s : State} {p : Nat} (h : MemOk s) : MemOk (s.updateHolds p) :=
  h.foldl (fun _ _ h => .ite h.modCtx.settleCtx h)

theorem MemOk.applySlices {s : State} {p : Nat} (h : MemOk s) : MemOk (s.applySlices p) := by
  unfold State.applySlices
  refine h.foldl ?_
  intro _ _ h
  split
  · exact h
  · exact h.modCtx

theorem MemOk.becomesRunnable {s : State} {c : Nat} (h : MemOk s) : MemOk (s.becomesRunnable c) := by
  unfold State.becomesRunnable
  dsimp only
  split
  · exact h
  · exact .ite h.modCtx h

theorem MemOk.placed {s : State} {p k : Nat} {i : PendItem} (h : MemOk s) : MemOk (s.placed p i k) := by
  unfold State.placed
  split
  · exact h
  · dsimp only
    split
    · exact h.modLau
    · exact .ite h.modLau (.ite (.askHead (.modQ h.modLau.set_pend)) h.modLau.set_pend)

theorem MemOk.tryPlace {s : State} {p : Nat} {i : PendItem} (h : MemOk s) : SomeOk (s.tryPlace p i) := by
  unfold State.tryPlace
  split
  next e _ => exact (((((along e h.tryItem).placed).modPart).settleCtx).updateHolds).later
  · trivial

theorem MemOk.placeGroup {s : State} {p : Nat} (h : MemOk s) : MemOk (s.placeGroup p) :=
  SomeOk.getD (.findSome? fun _ => h.applySlices.tryPlace) h.applySlices.updateHolds

theorem MemOk.endStrips {s : State} {k : ThreadKey} (h : MemOk s) : MemOk (s.endStrips k) := by
  unfold State.endStrips
  split
  · exact h.later
  · exact h

theorem MemOk.zeroSpad {s : State} {c off n : Nat} (h : MemOk s) : MemOk (s.zeroSpad c off n) := wf_filter _ h

theorem MemOk.chargeClean {s : State} {c : Nat} {incoming : Option Nat} (h : MemOk s) : MemOk (s.chargeClean c incoming) := by
  unfold State.chargeClean
  split
  · exact h
  · dsimp only
    split
    · exact .modCtx h
    · exact .recordWait (.modCtx h)

theorem MemOk.cleanThread {s : State} {k : ThreadKey} (h : MemOk s) : MemOk (s.cleanThread k) := h.endStrips.dropAsks.setTh

theorem MemOk.dropTlb {s : State} {f : TlbEnt → Bool} (h : MemOk s) : MemOk (s.dropTlb f) := h

theorem MemOk.cleanCore {s : State} {c : Nat} (h : MemOk s) : MemOk (s.cleanCore c) :=
  .dropTlb (.zeroSpad (.modCore (h.foldl (fun _ _ h => h.cleanThread))))

theorem MemOk.cleanFor {s : State} {part owner ctx c : Nat} (h : MemOk s) : MemOk (s.cleanFor part owner ctx c) := by
  unfold State.cleanFor
  refine .modCore ?_
  split
  · exact h
  · exact .ite h h.chargeClean.cleanCore

theorem MemOk.fillBytes {s : State} {a : Nat} {bs : List Byte} (h : MemOk s) : MemOk (s.fillBytes a bs) := wf_memFill bs a h

theorem MemOk.writeRecord {s : State} {base : Nat} {secs : List (Nat × List Byte)} (h : MemOk s) : MemOk (s.writeRecord base secs) :=
  h.fillBytes.set_freeCtr.foldl (fun _ _ h => h.fillBytes)

theorem MemOk.writeRecords {s : State} {l : List (Nat × Nat × List (Nat × List Byte))} (h : MemOk s) : MemOk (s.writeRecords l) :=
  h.foldl (fun _ _ h => h.writeRecord)

theorem MemOk.recordReqs {s : State} {g : Machine.Group} {wr : Bool} {l : List (Nat × Nat × List (Nat × List Byte))} (h : MemOk s) :
    MemOk (s.recordReqs g wr l) :=
  h.foldl (fun _ _ h => h.accessReqs.foldl (fun _ _ h => h.accessReqs))

theorem MemOk.restoreCores {s : State} {g : Machine.Group} {k : ThreadKey} {r : SaveRec} (h : MemOk s) : MemOk (s.restoreCores g k r) :=
  .foldl (h.foldl (fun _ _ h => h.modCore)) (fun _ _ h => h.fillBytes)

theorem MemOk.restartEngines {s : State} {k : ThreadKey} (h : MemOk s) : MemOk (s.restartEngines k) :=
  .ite (.ite h.later.later.later h.later.later) (.ite (.later (.ite h.later.later.later h.later.later))
    (.ite (.later (.ite h.later.later.later h.later.later)) (.later (.ite h.later.later.later h.later.later))))

theorem MemOk.enterSeq {s : State} {w : Nat} {j : ThreadKey} (h : MemOk s) : MemOk (s.enterSeq w j) := h.modTh

theorem MemOk.loadGroup {s : State} {g : Machine.Group} {l : Launch} (h : MemOk s) : MemOk (s.loadGroup g l) := by
  unfold State.loadGroup
  refine .settleCtx (.ite (.later ?_) ?_)
  all_goals
    refine .gateArrivals (.restartEngines (.modGrp (.modCtx ?_)))
    split
    · exact .foldl (.setTh (h.foldl fun _ _ h => h.cleanFor)) fun _ _ h => h.enterSeq
    · exact .recordReqs (.restoreCores (.foldl (.setTh (h.foldl fun _ _ h => h.cleanFor)) fun _ _ h => h.enterSeq))

protected theorem MemOk.execGroupLoadComplete {id : Nat} {s : State} (h : MemOk s) : NextOk (execGroupLoadComplete id s) := by
  unfold Machine.execGroupLoadComplete
  refine .next ?_
  split
  · exact h
  · split
    · exact h
    · exact .ite h.loadGroup h

theorem MemOk.finishStrips {s : State} {k : ThreadKey} {ch : Nat} (h : MemOk s) : MemOk (s.finishStrips k ch) :=
  h.foldl (fun _ _ h => h.performStrip)

theorem MemOk.stopWaiting {s : State} {k : ThreadKey} (h : MemOk s) : MemOk (s.stopWaiting k).1 := by
  unfold State.stopWaiting
  dsimp only
  split
  · exact h
  · split
    · exact h.modTh
    · exact h

protected theorem MemOk.stopPipe {n : Nat} {s : State} {k : ThreadKey} (h : MemOk s) : MemOk (stopPipe n s k).1 := by
  induction n generalizing s with
  | zero => exact h
  | succ n ih =>
    unfold Machine.stopPipe
    split
    · exact h
    · split
      · exact h
      · split
        next e => exact ih (along e h.runEntry :)
        next e => exact (along e h.runEntry :)
        next e => exact MemOk.stopWaiting (along e h.runEntry :)

theorem MemOk.freeClaims {s : State} {k : ThreadKey} (h : MemOk s) : MemOk (s.freeClaims k) := h.modCore

theorem MemOk.leaveSlot {s : State} {k : ThreadKey} {m : Nat × Nat} (h : MemOk s) : MemOk (s.leaveSlot k m) :=
  .ite h.setLg.ungrant h.setLg.ungrant.setTh

theorem MemOk.leaveCores {s : State} {g : Machine.Group} {k : ThreadKey} (h : MemOk s) : MemOk (s.leaveCores g k) :=
  .freeClaims (h.foldl (fun _ _ h => h.leaveSlot))

theorem MemOk.requeue {s : State} {c : Nat} (h : MemOk s) : MemOk (s.requeue c) := .ite h h

theorem MemOk.saveGroup {s : State} {g : Machine.Group} (h : MemOk s) : MemOk (s.saveGroup g) :=
  h.performAll.writeRecords.recordReqs.leaveCores.dropAsks.setTh.modGrp.requeue.settleCtx.updateHolds.later

theorem MemOk.unloadGroup {s : State} {g : Machine.Group} (h : MemOk s) : MemOk (s.unloadGroup g) :=
  h.leaveCores.modGrp.settleCtx.updateHolds.later

protected theorem MemOk.execSaveComplete {id : Nat} {s : State} (h : MemOk s) : NextOk (execSaveComplete id s) := by
  unfold Machine.execSaveComplete
  refine .next ?_
  split
  · exact h
  · exact .ite h (.ite h.unloadGroup (.ite h.passReloc.finishStrips.finishStrips.stopPipe.saveGroup
      h.passReloc.finishStrips.finishStrips.stopPipe))

theorem MemOk.retireGroup {s : State} {k : ThreadKey} (h : MemOk s) : MemOk (s.retireGroup k) := by
  unfold State.retireGroup
  split
  · exact h
  · refine .ite h (.later (.updateHolds (.settleCtx (.ite (.later (.modLau ?_)) (.modLau ?_)))))
    all_goals
      refine .ite ?_ (.foldl ?_ fun _ _ h => h.modCore)
      all_goals exact h.leaveCores.setTh.set_groups.endWaits

protected theorem MemOk.giveLanes {s : State} {c l n : Nat} {ts : List Nat} (h : MemOk s) : MemOk (giveLanes s c l n ts).1 := by
  induction ts generalizing s n with
  | nil => exact h
  | cons t ts ih =>
    cases n with
    | zero => exact h
    | succ n =>
      unfold Machine.giveLanes
      dsimp only
      split
      · exact ih h.setLg
      · exact ih h

protected theorem MemOk.execReturnedLanesTimeout {c : Nat} {s : State} (h : MemOk s) : NextOk (execReturnedLanesTimeout c s) := by
  unfold Machine.execReturnedLanesTimeout
  refine .next ?_
  split
  · exact h
  · exact .ite h (.foldl_fst h.modCore (fun _ _ h => h.giveLanes))

protected theorem MemOk.execSvtCharge {k : ThreadKey} {s : State} (h : MemOk s) : NextOk (execSvtCharge k s) := by
  unfold Machine.execSvtCharge
  refine .next ?_
  split
  · exact h
  · exact h.modCtx

theorem MemOk.stopGroup {s : State} {id : Nat} (h : MemOk s) : MemOk (s.stopGroup id) := by
  unfold State.stopGroup
  split
  · exact h
  · exact .ite h h.modGrp.settleCtx.later

theorem MemOk.without {s : State} {id : Nat} {cs : List Nat} (h : MemOk s) : MemOk (s.without id cs) := by
  unfold State.without
  split
  · exact h
  · exact .modGrp (h.foldl (fun _ _ h => h.setLg))

theorem MemOk.clear {s : State} {i : PendItem} {others : List (List Machine.Group)} {u : List Machine.Group} (h : MemOk s) :
    MemOk (s.clear i others u) := by
  unfold State.clear
  split
  · split
    · exact h.modTh
    · exact h.stopGroup
  · exact h.foldl (fun _ _ h => h.stopGroup)

theorem MemOk.preemptForSpace {s : State} {p : Nat} (h : MemOk s) : MemOk (s.preemptForSpace p) := by
  unfold State.preemptForSpace
  dsimp only
  split
  · exact h.applySlices
  · exact .ite (h.applySlices.foldl (fun _ _ h => h.clear)) h.applySlices

protected theorem MemOk.execSpanDetachTimeout {k : ThreadKey} {s : State} (h : MemOk s) : NextOk (execSpanDetachTimeout k s) := by
  unfold Machine.execSpanDetachTimeout
  refine .next ?_
  split
  · exact .ite (h.foldl (fun _ _ h => h.stopGroup)) h
  · exact h

protected theorem MemOk.execSpanAttachMark {k : ThreadKey} {c : Nat} {s : State} (h : MemOk s) : NextOk (execSpanAttachMark k c s) := by
  unfold Machine.execSpanAttachMark
  refine .next ?_
  split
  · exact h
  · split
    · exact h
    · exact .ite h.setLg.enterSeq.modGrp.cleanFor.modTh h

/-! ## Work queues and launches -/

theorem MemOk.violate {s : State} {func addr : Nat} (h : MemOk s) : MemOk (s.violate func addr) := h.log.modFn

theorem MemOk.asFront {s : State} {n : Nat} (h : MemOk s) : MemOk (s.asFront n) := h.modTh

theorem MemOk.frontRead {s : State} {n who len : Nat} {tg : W64 → Target} {a : W64} (h : MemOk s) :
    (s.frontRead n who tg a len).MemOk :=
  h.asFront.readRun

theorem MemOk.endFront {s : State} {n : Nat} (h : MemOk s) : MemOk (s.endFront n) := h.endReplies.endReplies

theorem MemOk.settleQueue {s : State} {n : Nat} (h : MemOk s) : MemOk (s.settleQueue n) := by
  unfold State.settleQueue
  dsimp only
  split
  · exact h.modQ
  · exact h.modQ
  · exact h.modQ
  · exact h

theorem MemOk.kickQueue {s : State} {n : Nat} (h : MemOk s) : MemOk (s.kickQueue n) := h.settleQueue.askHead

theorem MemOk.frontWrite {s : State} {n seq : Nat} {a : W64} {bs : List Byte} (h : MemOk s) : (s.frontWrite n seq a bs).MemOk := by
  unfold State.frontWrite
  dsimp only
  split
  · split
    · split
      · exact h.asFront
      · exact h.asFront.storeBytes.touched
    · exact h.asFront
    · exact .ite h.asFront h.asFront.startPull
    · exact h.asFront.log
    · exact h.asFront
  · split
    · exact h.asFront.endReplies
    next e => exact (along e h.asFront.remote :)
    · exact h.asFront.endReplies
  · exact h.asFront

theorem MemOk.unblock {s : State} (h : MemOk s) : MemOk s.unblock := h.foldl (fun _ _ h => .ite h.settleQueue h.settleQueue.askHead)

theorem MemOk.endEntry {s : State} {l : Launch} (h : MemOk s) : MemOk (s.endEntry l) :=
  .settleCtx (.kickQueue (.unblock (.ite (.modFn (.ite h (.modQ h))) (.ite h (.modQ h)))))

theorem MemOk.completeEntryOf {s : State} {l : Launch} (h : MemOk s) : MemOk (s.completeEntryOf l) := by
  unfold State.completeEntryOf
  refine .ite h.endEntry (.ite h.log.endEntry ?_)
  split
  next e => exact (along e h.frontWrite).endEntry
  next e => exact (along e h.frontWrite :)
  next e => exact ((along e h.frontWrite).log).endEntry

protected theorem MemOk.execLaunchComplete {id : Nat} {s : State} (h : MemOk s) : NextOk (execLaunchComplete id s) := by
  unfold Machine.execLaunchComplete
  refine .next ?_
  split
  · exact h
  · exact .ite h h.completeEntryOf

theorem MemOk.errQueue {s : State} {n code : Nat} (h : MemOk s) : MemOk (s.errQueue n code) := h.endFront.modQ

theorem MemOk.endAtHead {s : State} {l : Launch} {status : Nat} (h : MemOk s) : MemOk (s.endAtHead l status) := .completeEntryOf h

theorem MemOk.submit {s : State} {l : Launch} (h : MemOk s) : MemOk (s.submit l) :=
  .ite h.endAtHead (.ite h.endAtHead (.later (.updateHolds (.modQ (.ite (.becomesRunnable h) h)))))

theorem MemOk.takeHead {s : State} {n x : Nat} {sel : Bool} {desc : Option Nat} (h : MemOk s) : MemOk (s.takeHead n x sel desc) := by
  unfold State.takeHead
  have hs : MemOk ((s.endFront n).modQ n fun q => { q with head := q.head + 1 }) := h.endFront.modQ
  refine .ite (.endAtHead (.kickQueue (.congr hs rfl))) (.ite (.endAtHead (.kickQueue (.congr hs rfl))) ?_)
  split
  · exact .endAtHead (.kickQueue (.congr hs rfl))
  · exact .ite (.endAtHead (.kickQueue (.congr hs rfl))) (.submit (.kickQueue (.congr hs rfl)))

theorem MemOk.readDesc {s : State} {n x : Nat} (h : MemOk s) : (s.readDesc n x).MemOk := by
  unfold State.readDesc
  dsimp only
  split
  · exact h
  · split
    next e => exact (along e h.frontRead :)
    next e => exact (along e h.frontRead :)
    next e => exact (along e h.frontRead :)

theorem MemOk.judgeHead {s : State} {n x : Nat} (h : MemOk s) : MemOk (s.judgeHead n x) := by
  unfold State.judgeHead
  split
  next e => exact (along e h.readDesc :)
  next e =>
    refine .ite ((along e h.readDesc).takeHead) ?_
    dsimp only
    split
    next e' => exact (along e' ((along e h.readDesc).frontRead) :)
    next e' => exact (along e' ((along e h.readDesc).frontRead)).errQueue
    next e' => exact (along e' ((along e h.readDesc).frontRead)).takeHead

theorem MemOk.headTake {s : State} {n : Nat} (h : MemOk s) : MemOk (s.headTake n) := by
  unfold State.headTake
  refine .ite h ?_
  split
  next e => exact (along e h.frontRead :)
  next e => exact (along e h.frontRead).errQueue
  next e =>
    have h' := along e h.frontRead
    exact .ite h'.errQueue (.ite h'.errQueue (.ite h'.errQueue (.ite h'.errQueue (.ite (.ite h' h'.modQ) h'.judgeHead))))

theorem MemOk.writeTail {s : State} {func n v : Nat} (h : MemOk s) : MemOk (s.writeTail func n v) := by
  unfold State.writeTail
  refine .ite h.log ?_
  split
  · exact .ite h h.modQ.kickQueue
  · exact .ite h h.modQ.kickQueue
  · exact .ite h h.modQ.kickQueue
  · exact h

theorem MemOk.clearQueue {s : State} {n : Nat} (h : MemOk s) : MemOk (s.clearQueue n) := .ite h h.modQ.unblock

theorem MemOk.drainQueue {s : State} {n : Nat} (h : MemOk s) : MemOk (s.drainQueue n) := by
  unfold State.drainQueue
  split
  · exact h.modQ.askHead
  · exact h.modQ.askHead
  · exact h.modQ.askHead
  · exact h

theorem MemOk.enableQueue {s : State} {n : Nat} (h : MemOk s) : MemOk (s.enableQueue n) := .ite h.modQ h

theorem MemOk.writeCtl {s : State} {func n v : Nat} (h : MemOk s) : MemOk (s.writeCtl func n v) := by
  unfold State.writeCtl
  refine .ite h.log (.ite (.enableQueue (.ite (.drainQueue ?_) ?_)) (.ite (.drainQueue ?_) ?_))
  all_goals exact .ite h.modQ.clearQueue h.modQ

theorem MemOk.queueWrite {s : State} {func n off : Nat} {w : W64} (h : MemOk s) : MemOk (s.queueWrite func n off w) := by
  unfold State.queueWrite
  refine .ite h ?_
  split
  · exact h
  · refine .ite h.violate ?_
    split
    · exact .ite h (.ite h.log h.modQ)
    · exact h.writeCtl
    · exact h.writeTail
    · exact h
    · exact h
    · exact h
    · exact h.violate

theorem MemOk.hostQueue {s : State} {i : Instr} {func n off : Nat} {w : W64} (h : MemOk s) : MemOk (s.hostQueue i func n off w) :=
  h.inOrder (fun _ h => h.queueWrite)

theorem MemOk.appendEntry {s : State} {qn : Nat} {ent : List Byte} (h : MemOk s) : MemOk (s.appendEntry qn ent) := by
  unfold State.appendEntry
  refine .ite h.trap ?_
  split
  · exact h.storeBytes.touched.modQ.kickQueue.advance
  · exact h.trap
  · exact h.trap
  next e => exact (along e h.access).accessFault
  next e => exact (along e h.access).holdOn

protected theorem MemOk.execLaunch {a b : SReg} {s : State} (h : MemOk s) : NextOk (execLaunch a b s) := by
  unfold Machine.execLaunch
  refine .next (.ite h.trap ?_)
  split
  · exact h.trap
  · exact h.whenPerformed (fun _ h => h.read64 (fun _ h _ => h.appendEntry))

/-! ## Contexts and fault records -/

theorem MemOk.finishCmd {s : State} {func status : Nat} {state : Nat} {qraised : Bool} (h : MemOk s) :
    MemOk (s.finishCmd func status state qraised) :=
  h.modFn.later

theorem MemOk.command {s : State} {func op : Nat} {f : State → Nat → State} (h : MemOk s)
    (hf : ∀ s, MemOk s → ∀ x, MemOk (f s x)) : MemOk (s.command func op f) := by
  unfold State.command
  split
  · exact .ite h.finishCmd h
  · exact .ite (hf _ h _) h

theorem MemOk.zeroMem {s : State} {a n : Nat} (h : MemOk s) : MemOk (s.zeroMem a n) := wf_filter _ h

theorem MemOk.createCtx {s : State} {func p : Nat} (h : MemOk s) : MemOk (s.createCtx func p) := by
  unfold State.createCtx
  refine .ite h.finishCmd ?_
  dsimp only
  split
  · exact h.hostRequest.finishCmd
  · exact .finishCmd (h.hostRequest.modCtx.zeroMem.foldl (fun _ _ h => h.kickQueue))

theorem MemOk.poison {s : State} {c : Nat} {k : Option ThreadKey} (h : MemOk s) : MemOk (s.poison c k) := h

theorem MemOk.putFault {s : State} {func : Nat} {r : FaultRec} (h : MemOk s) : MemOk (s.putFault func r) := h.ringPut.modFn

theorem MemOk.deliverFault {s : State} {func : Nat} {r : FaultRec} (h : MemOk s) : MemOk (s.deliverFault func r) :=
  .ite h.putFault h.modFn

theorem MemOk.deliverWaiting {n : Nat} {s : State} (h : MemOk s) : MemOk (State.deliverWaiting n s) := by
  induction n generalizing s with
  | zero => exact h
  | succ n ih =>
    unfold State.deliverWaiting
    split
    · exact h
    · exact ih h.modFn.putFault

theorem MemOk.flushRings {s : State} (h : MemOk s) : MemOk s.flushRings := h.deliverWaiting

theorem MemOk.retryPosts {s : State} (h : MemOk s) : MemOk s.retryPosts := h

theorem MemOk.dropRecords {s : State} {p : FaultRec → Bool} (h : MemOk s) : MemOk (s.dropRecords p) := .retryPosts (.flushRings h)

protected theorem MemOk.execFaultRecordPost {d : Nat} {s : State} (h : MemOk s) : NextOk (execFaultRecordPost d s) := by
  unfold Machine.execFaultRecordPost
  refine .next ?_
  split
  · exact h
  · exact .ite h (.deliverFault h)

theorem MemOk.dropQueues {s : State} {c : Nat} (h : MemOk s) : MemOk (s.dropQueues c) := h

theorem MemOk.chargeTeardown {s : State} {c core : Nat} {reset : Bool} (h : MemOk s) : MemOk (s.chargeTeardown c core reset) :=
  .ite h.chargeClean h

theorem MemOk.cleanOf {s : State} {c core : Nat} (h : MemOk s) : MemOk (s.cleanOf c core) :=
  .ite h (.ite h.chargeTeardown.cleanCore.modCore (.dropTlb (.foldl (h.chargeTeardown.foldl (fun _ _ h => .ite h.zeroSpad h))
    (fun _ _ h => h.freeClaims.cleanThread))))

theorem MemOk.stopAll {s : State} {c : Nat} (h : MemOk s) : MemOk (s.stopAll c).1 := h.foldl_fst (fun _ _ h => h.stopPipe.performAll)

theorem MemOk.strip {s : State} {c : Nat} (h : MemOk s) : MemOk (s.strip c).1 := by
  unfold State.strip
  dsimp only
  split
  · exact .stopAll h
  · exact .set_groups (.foldl (.foldl (.stopAll h) (fun _ _ h => h.cleanOf))
      (fun _ _ h => .endWaits (.ite (h.foldl (fun _ _ h => h.setLg)) h)))

theorem MemOk.beginTear {s : State} {c : Nat} {reset : Bool} (h : MemOk s) : MemOk (s.beginTear c reset) :=
  h.modCtx.dropQueues.set_launches_pend

theorem MemOk.goOnTear {s : State} {c : Nat} (h : MemOk s) : MemOk (s.goOnTear c) := h.strip.updateHolds.later.later

theorem MemOk.tearDown {s : State} {c : Nat} {reset : Bool} (h : MemOk s) : MemOk (s.tearDown c reset) := h.beginTear.goOnTear

protected theorem MemOk.execTeardownComplete {c : Nat} {s : State} (h : MemOk s) : NextOk (execTeardownComplete c s) := by
  unfold Machine.execTeardownComplete
  refine .next (.ite h ?_)
  exact .ite h.strip h.strip.tearLinks.dropBars.dropTlb.dropRecords.modCtx.later

protected theorem MemOk.execFunctionReset {func : Nat} {s : State} (h : MemOk s) : NextOk (execFunctionReset func s) := by
  unfold Machine.execFunctionReset
  refine .next ?_
  split
  · exact h
  · exact .foldl (h.modFn.foldl (fun _ _ h => h.beginTear)) (fun _ _ h => h.goOnTear)

theorem MemOk.performCtx {s : State} {c : Nat} (h : MemOk s) : MemOk (s.performCtx c) := h.foldl (fun _ _ h => h.performAll)

theorem MemOk.endCommand {s : State} {src : CmdSrc} (h : MemOk s) : MemOk (s.endCommand src) := by
  unfold State.endCommand
  split
  · exact .ite h (.modFn (.ite h.performCtx h))
  · exact .ite h h.performCtx.modTh
  · refine .ite h ?_
    split <;> exact h

/-! ## Pages -/

theorem MemOk.walkReqs {s : State} {core c va : Nat} (h : MemOk s) : MemOk (s.walkReqs core c va) :=
  h.request.foldl (fun _ _ h => h.accessReqs)

theorem MemOk.cacheLeaf {s : State} {unit c page lvl : Nat} {leaf : W64} (h : MemOk s) : MemOk (s.cacheLeaf unit c page leaf lvl) :=
  .ite h h

protected theorem MemOk.execPageWalk {miss : Miss} {va : W64} {s : State} (h : MemOk s) : NextOk (execPageWalk miss va s) := by
  unfold Machine.execPageWalk
  refine .next (.ite h ?_)
  split
  · exact .ite h.cacheLeaf h
  · dsimp only
    split
    · exact .ite h.walkReqs.cacheLeaf.cacheLeaf h.walkReqs.cacheLeaf
    · exact h.walkReqs.log
    · exact h.walkReqs

theorem MemOk.discard {s : State} {c : Nat} {r : PageRange} (h : MemOk s) : MemOk (s.discard c r) := h.dropTlb.set_nearLines

theorem MemOk.invalRange {s : State} {c : Nat} {r : PageRange} (h : MemOk s) : MemOk (s.invalRange c r).1 := by
  unfold State.invalRange
  split
  · exact h
  · exact h.discard

theorem MemOk.pageForStrips {s : State} {c ch : Nat} {r : PageRange} {refused : Bool} {k : ThreadKey} (h : MemOk s) :
    MemOk (s.pageForStrips c r refused k ch) :=
  .ite h (.ite h.freezeCh (h.modCh.foldl (fun _ _ h => h.later)))

theorem MemOk.arrive {s : State} {c : Nat} {r : PageRange} {refused : Bool} (h : MemOk s) : MemOk (s.arrive c r refused) := by
  unfold State.arrive
  refine .ite (.later (.updateHolds (.becomesRunnable (.settleCtx ?_)))) (.settleCtx ?_)
  all_goals exact h.dropRecords.modCtx.foldl fun _ _ h => h.pageForStrips.pageForStrips

theorem MemOk.doneRange {s : State} {c : Nat} {r : PageRange} {refused : Bool} (h : MemOk s) : MemOk (s.doneRange c r refused).1 := by
  unfold State.doneRange
  split
  · exact h
  · exact h.discard.arrive

theorem MemOk.pageCommand {s : State} {src : CmdSrc} {op : Nat} {f : State → Nat → Nat → State × Nat} (h : MemOk s)
    (hf : ∀ s c x, MemOk s → MemOk (f s c x).1) : MemOk (s.pageCommand src op f) := by
  unfold State.pageCommand
  split
  · refine h.command fun s h p => .ite h.finishCmd ?_
    split
    · exact h.finishCmd
    · exact .finishCmd (hf _ _ _ h)
  · refine .ite h (.later (.modTh ?_))
    split
    · exact h
    · exact hf _ _ _ h
  · exact h

/-! ## Traps, fences and debug stops -/

theorem MemOk.traceDebug {s : State} {k : ThreadKey} {ev : Nat} (h : MemOk s) : MemOk (s.traceDebug k ev) := .trace h

theorem MemOk.exit {s : State} (h : MemOk s) : MemOk s.exit := .ite h.holdOn (.ite h.holdOn h.performAll.retireGroup)

protected theorem MemOk.execTrap {code : BitVec 10} {s : State} (h : MemOk s) : NextOk (execTrap code s) := by
  unfold Machine.execTrap
  refine .next (.ite h.trapAfter ?_)
  split
  · exact h.mod
  · exact h.exit

theorem MemOk.breakHalt {s : State} {code : Nat} (h : MemOk s) : MemOk (s.breakHalt code) := .ite h.holdOn h.mod.traceDebug

/-! ## Strings and power -/

theorem MemOk.powerTrace {s : State} {cl : Nat} {bs : List Byte} (h : MemOk s) : MemOk (s.powerTrace cl bs) := by
  unfold State.powerTrace
  split
  · exact h.trace
  · exact h

theorem MemOk.strTrace {s : State} {str cause what old new : Nat} (h : MemOk s) : MemOk (s.strTrace str cause what old new) :=
  .ite h h.powerTrace.modStr

theorem MemOk.cluTrace {s : State} {cl cause what old new : Nat} (h : MemOk s) : MemOk (s.cluTrace cl cause what old new) :=
  .ite h h.powerTrace.modClu

protected theorem MemOk.stringInterval {s : State} {str : Nat} (h : MemOk s) : MemOk (stringInterval s str) :=
  h.modStr.strTrace.strTrace.modStr.foldl (fun _ _ h => h.modCore)

theorem MemOk.bookWash {s : State} {c units : Nat} (h : MemOk s) : MemOk (s.bookWash c units) := by
  unfold State.bookWash
  split
  · exact h
  · exact .ite h.modPart h.modPart

protected theorem MemOk.washIssue {s : State} {c : Nat} (h : MemOk s) : MemOk (washIssue s c) :=
  .ite h (.ite h.modCore h.modCore.modCore.modStr.bookWash)

theorem MemOk.setCap {s : State} {cl cause new : Nat} (h : MemOk s) : MemOk (s.setCap cl cause new) := h.modClu.cluTrace

theorem MemOk.setStep {s : State} {cl new : Nat} (h : MemOk s) : MemOk (s.setStep cl new) := h.modClu.cluTrace

protected theorem MemOk.powerRows {inp : PowerInputs} {s : State} {cl : Nat} (h : MemOk s) : MemOk (powerRows inp s cl).1 := by
  unfold Machine.powerRows
  extract_lets c t
  split
  next s₁ _ _ e₁ =>
    have h₁ : MemOk s₁ := along_fst e₁ (MemOk.ite_fst h.setCap h)
    dsimp only
    split
    · exact .ite_fst h₁.setCap h₁
    · have h₂ {cause new : Nat} : MemOk (if c.cur == 0 then s₁.setCap cl cause new else s₁) := .ite h₁.setCap h₁
      exact .ite_fst h₂.setCap h₂

protected theorem MemOk.powerRowsAll {inp : PowerInputs} {cls : List Nat} {s : State} (h : MemOk s) :
    MemOk (powerRowsAll inp cls s).1 := by
  induction cls generalizing s with
  | nil => exact h
  | cons cl cls ih => exact ih h.powerRows

protected theorem MemOk.boostStep {p cl t : Nat} {s : State} (h : MemOk s) : MemOk (boostStep p s cl t) :=
  .ite h.setStep h.setStep.modPart

protected theorem MemOk.boostAlloc {s : State} {p : Nat} {l : List (Nat × Nat)} (h : MemOk s) : MemOk (boostAlloc s p l) :=
  .foldl (h.foldl (fun _ _ h => h.boostStep)) (fun _ _ h => h.setStep)

theorem MemOk.refill {s : State} {cl : Nat} (h : MemOk s) : MemOk (s.refill cl) := by
  unfold State.refill
  dsimp only
  split
  · exact .ite h.modPart h
  · exact h

theorem MemOk.boundCap {s : State} {cl : Nat} (h : MemOk s) : MemOk (s.boundCap cl) := .ite h.setCap h

protected theorem MemOk.closeCluster {s : State} {x : Nat × Nat × Bool} (h : MemOk s) : MemOk (closeCluster s x) :=
  .modClu (.ite h.setCap h)

protected theorem MemOk.powerInterval {s : State} {die : Nat} {inp : PowerInputs} (h : MemOk s) : MemOk (powerInterval s die inp) := by
  unfold Machine.powerInterval
  dsimp only
  exact .foldl (.foldl (.foldl (MemOk.powerRowsAll (.foldl (h.foldl fun _ _ h => h.refill) fun _ _ h => h.boundCap))
    fun _ _ h => h.boostAlloc)
    fun _ _ h => h.setStep) fun _ _ h => h.closeCluster

/-! ## Events of the units -/

theorem Machine.EntryOut.MemOk.state {k : ThreadKey} {o : EntryOut} (h : o.MemOk) : Sys2Proof.MemOk (o.state k) := by
  cases o with
  | retired s => exact Sys2Proof.MemOk.startFetch h
  | waiting s => exact h
  | trapped s => exact h

protected theorem MemOk.accessTurn {s : State} {k : ThreadKey} {older : List Entry} {ent : Entry} (h : MemOk s) :
    (accessTurn s k older ent).MemOk := by
  unfold Machine.accessTurn
  split
  next e => exact (along e h.runAccess :)
  next e =>
    split
    · exact (along e h.runAccess :)
    · exact h
  next e =>
    dsimp only
    split
    · exact (along e h.runAccess).putEntry
    · exact ((along e h.runAccess).putEntry).completeEntry

protected theorem MemOk.execAccessUnitComplete {k : ThreadKey} {s : State} (h : MemOk s) : NextOk (execAccessUnitComplete k s) := by
  unfold Machine.execAccessUnitComplete
  refine .next ?_
  split
  · exact h
  · exact .ite h (.ite (.ite h.retireDropped.startFetch.gateArrivals h) (.ite (.ite h.trapEntry h) h.accessTurn.state.gateArrivals))

protected theorem MemOk.execVectorSequencerGrant {c : Nat} {s : State} (h : MemOk s) : NextOk (execVectorSequencerGrant c s) := by
  unfold Machine.execVectorSequencerGrant
  refine .next ?_
  split
  · exact h.gateArrive
  · exact h.gateArrive
  · exact h.gateArrive.seqGrant.modCore

theorem MemOk.postContenders {s : State} {n c : Nat} (h : MemOk s) : MemOk (s.postContenders n c) := h.foldl (fun _ _ h => h.postCell)

theorem MemOk.passedGate {s : State} {c : Nat} {k : ThreadKey} {ent : Entry} (h : MemOk s) : MemOk (s.passedGate c k ent) :=
  .ite h.setTh.putEntry h.putEntry

theorem MemOk.gateTurn {s idle : State} {c : Nat} {j k : ThreadKey} {older : List Entry} {e : Entry} {p : GateSpot} (h : MemOk s)
    (hi : MemOk idle) : MemOk (s.gateTurn idle c j k older e p) := by
  unfold State.gateTurn
  refine .ite (.ite h.trapEntry.ungrant hi) ?_
  split
  · exact .ite h.trapEntry.ungrant hi
  · exact .ite h.passedGate.ungrant.gateArrivals (.ite h.gateCycle.passedGate.ungrant.gateArrivals h.gateCycle)

theorem MemOk.relocTurn {s : State} {j k : ThreadKey} {n : Nat} (h : MemOk s) : MemOk (s.relocTurn j k n) := by
  unfold State.relocTurn
  extract_lets t ch
  split
  next t ok e =>
    have ht : MemOk t := along_fst e (MemOk.ite_fst h h.gateCycle)
    exact .ite ht.modTh.ungrant.gateArrivals ht

protected theorem MemOk.execInstructionRelease {c : Nat} {s : State} (h : MemOk s) : NextOk (execInstructionRelease c s) := by
  unfold Machine.execInstructionRelease
  refine .next ?_
  split
  · exact h.modCore
  · split
    · exact h.modCore.modCore
    · exact h.relocTurn
    · exact h.gateTurn h.modCore

protected theorem MemOk.execInstructionComplete {k : ThreadKey} {s : State} (h : MemOk s) : NextOk (execInstructionComplete k s) := by
  unfold Machine.execInstructionComplete
  refine .next ?_
  split
  · exact h
  · refine .ite ?_ (.ite h.retireDropped.startFetch.gateArrivals h)
    split
    next e => exact .ite (along e h.completeEntry :) h
    · exact h.completeEntry.state.gateArrivals

/-! ## Debug requests -/

theorem MemOk.applyHalt {s : State} {k : ThreadKey} (h : MemOk s) : MemOk (s.applyHalt k) :=
  .ite h.stopPipe.modTh.traceDebug h.stopPipe

theorem MemOk.doHalt {s : State} {k : ThreadKey} (h : MemOk s) : MemOk (s.doHalt k) := .ite h h.modTh.applyHalt

theorem MemOk.doResume {s : State} {k : ThreadKey} {after : Bool} (h : MemOk s) : MemOk (s.doResume k after) :=
  .ite h.modTh (.traceDebug (.gateArrivals (.ite h.modTh.modTh (.ite h.modTh.modTh h.modTh.takeTrap))))

theorem MemOk.debugSrw {s : State} {k : ThreadKey} {num : Nat} {w : W64} (h : MemOk s) : (s.debugSrw k num w).MemOk := by
  unfold State.debugSrw
  split
  · exact h
  · split
    next e => exact (along e h.regWrite :)
    · exact h

theorem MemOk.asDebug {s : State} {who k : ThreadKey} (h : MemOk s) : MemOk (s.asDebug who k) := h.modTh

theorem MemOk.debugAt {s : State} {k : ThreadKey} {flat leaf : Nat} {w : Option W64} (h : MemOk s) :
    (s.debugAt k flat leaf w).MemOk := by
  unfold State.debugAt
  dsimp only
  split
  · exact h.accessReqs.nearTouch
  · exact h.accessReqs.nearTouch.store

theorem MemOk.debugMem {s : State} {who k : ThreadKey} {a : W64} {w : Option W64} (h : MemOk s) : (s.debugMem who k a w).MemOk := by
  unfold State.debugMem
  dsimp only
  split
  · exact h
  · split
    · exact h
    · split
      · exact h.debugAt
      · exact h
    · split
      · split
        · exact h
        · exact h.debugAt
      · exact h
      · exact h
      · exact h.log
      · exact h
    · split
      · exact h.endReplies
      next e => exact (along e h.asDebug.remote :)
      · exact h.endReplies

theorem MemOk.debugOp {s : State} {who : ThreadKey} {dcmd darg ddata : W64} (h : MemOk s) : (s.debugOp who dcmd darg ddata).MemOk := by
  unfold State.debugOp
  dsimp only
  split
  · exact h
  · split
    · exact h
    · split
      · exact h
      · split
        · exact h.doHalt
        · exact h.doResume
        · split <;> exact h
        · exact h.debugSrw
        · exact h
        · exact h.modTh
        · exact h.debugMem
        · exact h.debugMem
        · exact h.modTh
        · split <;> exact h

theorem MemOk.endDebug {s : State} {status : Nat} {data : Option W64} (h : MemOk s) : MemOk (s.endDebug status data) := .later h

theorem MemOk.startDebug {s : State} (h : MemOk s) : MemOk s.startDebug :=
  .ite (.endDebug h) (.ite (.later h) (.ite (.send h) (.endDebug h)))

theorem MemOk.debugWrite {s : State} {off : Nat} {w : W64} (h : MemOk s) : MemOk (s.debugWrite off w) := by
  unfold State.debugWrite
  split
  · exact .ite h (.ite h (.startDebug h))
  · exact h
  · exact h
  · exact h

theorem MemOk.debugRow {s : State} {op : Nat} (h : MemOk s) : MemOk (s.debugRow op) := by
  unfold State.debugRow
  refine .ite ?_ ?_
  · split
    next e => exact (along e h.debugOp).endDebug
    next e => exact (along e h.debugOp :)
  · exact h

protected theorem MemOk.runForwarded {n : Nat} {s : State} (h : MemOk s) : MemOk (runForwarded n s) := by
  induction n generalizing s with
  | zero => exact h
  | succ n ih =>
    unfold Machine.runForwarded
    split
    · exact h
    · split
      next e => exact (along e h.debugOp :)
      next e => exact ih (.send (along e h.debugOp).set_dbgFwd)

/-! ## The host, the links and the package -/

theorem MemOk.badMgmt {s : State} {func off : Nat} (h : MemOk s) : MemOk (s.badMgmt func off) := h.log

theorem MemOk.writeMcmd {s : State} {func : Nat} {w : W64} (h : MemOk s) : MemOk (s.writeMcmd func w) :=
  .ite h (.ite h.badMgmt (.ite h.modFn (.ite h.modFn.finishCmd h.modFn.modFn.later)))

theorem MemOk.mgmtWrite {s : State} {func off : Nat} {w : W64} (h : MemOk s) : MemOk (s.mgmtWrite func off w) := by
  unfold State.mgmtWrite
  refine .ite h ?_
  split
  · exact h.writeMcmd
  · exact h.modFn
  · exact h
  · exact .ite h.badMgmt h.modFn
  · exact .ite h.badMgmt h.modFn.flushRings
  · exact h
  · exact h.modFn.flushRings
  · exact h
  · exact .ite h.badMgmt h.modFn
  · exact .ite h.badMgmt h.modFn
  · exact h
  · exact h.modFn
  · exact h
  · exact .ite h.debugWrite h.violate

theorem MemOk.managerWrite {s : State} {num p : Nat} {w : W64} (h : MemOk s) : MemOk (s.managerWrite num p w) := by
  unfold State.managerWrite
  refine .ite (.ite h h) ?_
  split <;> exact h

protected theorem MemOk.execRegisterWrite {t : RegTarget} {w : W64} {s : State} (h : MemOk s) : NextOk (execRegisterWrite t w s) := by
  unfold Machine.execRegisterWrite
  refine .next ?_
  split
  · exact h.hostQueue
  · exact h.inOrder (fun _ h => h.mgmtWrite)
  · exact h.managerWrite
  · exact h

theorem MemOk.hostChange {s : State} {x : HostWrite} (h : MemOk s) : MemOk (s.hostChange x) := .ite h h.hostPerform

theorem MemOk.toHost {s : State} {bs : List Byte} (h : MemOk s) : MemOk (s.toHost bs) := h

theorem MemOk.readWindow {s : State} {func at_ : Nat} {x : Option W64} (h : MemOk s) : MemOk (s.readWindow func at_ x) := by
  unfold State.readWindow
  refine .ite h.toHost ?_
  split
  · exact h.toHost
  · exact h.toHost.violate

theorem MemOk.readBar4 {s : State} {func addr n : Nat} (h : MemOk s) : MemOk (s.readBar4 func addr n) :=
  .ite h.toHost (.ite h.toHost.violate h.hostReqs.toHost)

protected theorem MemOk.execHostMemoryRead {func n : Nat} {place : HostPlace} {s : State} (h : MemOk s) :
    NextOk (execHostMemoryRead func place n s) := by
  unfold Machine.execHostMemoryRead
  refine .next ?_
  split
  · exact h.inOrder (fun _ h => h.readBar4)
  · exact h.inOrder (fun _ h => h.readWindow)
  · exact h.inOrder (fun _ h => h.readWindow)
  · exact h.toHost
  · exact h.toHost

theorem MemOk.holdLink {s : State} {link : Nat} {on : Bool} (h : MemOk s) : MemOk (s.holdLink link on) := h.modArb.modArb

theorem MemOk.logAll {s : State} {code info : Nat} (h : MemOk s) : MemOk (s.logAll code info) := h.foldl (fun _ _ h => h.log)

theorem MemOk.retryParty {s : State} {k : ThreadKey} (h : MemOk s) : MemOk (s.retryParty k) :=
  .ite h.retryFront.retryStrips.retrySaves.runForwarded (.ite h.retryFront.retryStrips.retrySaves.later
    h.retryFront.retryStrips.retrySaves)

theorem MemOk.remoteWritten {s : State} {w : Option ThreadKey} {pkg : Nat} {va : W64} (h : MemOk s) :
    MemOk (s.remoteWritten w pkg va) :=
  h

protected theorem MemOk.execRemoteReply {k : ThreadKey} {pkg : Nat} {va : W64} {o : RemoteOutcome} {s : State} (h : MemOk s) :
    NextOk (execRemoteReply k pkg va o s) := by
  unfold Machine.execRemoteReply
  refine .next ?_
  split
  · exact h
  · exact .ite h (.retryParty (.modTh (.ite h.crosses.remoteWritten h.crosses)))

protected theorem MemOk.execPeerLossTimeout {pkg : Nat} {s : State} (h : MemOk s) : NextOk (execPeerLossTimeout pkg s) := by
  unfold Machine.execPeerLossTimeout
  refine .next (.ite h (.ite (.later ?_) (.ite (.endDebug ?_) ?_)))
  all_goals
    refine .runForwarded (.retrySaves (.retryStrips (.retryFront (.set_threads (.lostPackage (.logAll ?_))))))
    exact .congr h rfl

theorem MemOk.moveClean {s : State} {from_ : Option Nat} {c : Nat} (h : MemOk s) : MemOk (s.moveClean from_ c) := by
  unfold State.moveClean
  refine .modCore (.cleanCore ?_)
  split <;> exact h

protected theorem MemOk.execClusterMove {cl p : Nat} {s : State} (h : MemOk s) : NextOk (execClusterMove cl p s) := by
  unfold Machine.execClusterMove
  refine .next (.ite ?_ ?_)
  · refine .later (.foldl ?_ (fun _ _ h => h.modStr))
    refine .modPart ?_
    split
    · exact .modPart (h.foldl (fun _ _ h => h.moveClean))
    · exact h.foldl (fun _ _ h => h.moveClean)
  · exact h

/-! ## Matrix instructions -/

theorem MemOk.setSlot {s : State} {c x : Nat} {f : Slot → Slot} (h : MemOk s) : MemOk (s.setSlot c x f) := h.modCore

protected theorem MemOk.execMclaim {sa : VReg} {x : BitVec 5} {s : State} (h : MemOk s) : NextOk (execMclaim sa x s) := by
  unfold Machine.execMclaim
  refine .next ?_
  split
  · exact h.illReg
  · dsimp only
    split
    · exact h.trap
    · refine .ite h.trap ?_
      split
      · exact .ite h.trap (.ite h.holdOn h.setSlot.advance)
      · exact .ite h.trap h.holdOn
      · exact .ite h.trap h.setSlot.advance

protected theorem MemOk.execMrel {x : BitVec 5} {s : State} (h : MemOk s) : NextOk (execMrel x s) := by
  unfold Machine.execMrel
  refine .next ?_
  split
  · exact h.illReg
  · split
    · exact h.trap
    · exact h.setSlot.sweepSlots.advance

/-! ## Every instruction and event -/

protected theorem MemOk.exec {i : Instr} {s : State} (h : MemOk s) : NextOk (exec i s) := by
  cases i
  case add | sub | mul | mulh | mulhu | div | divu | rem | remu | and | or | xor | sll | srl | sra | slt | sltu | seq | min | max
     | minu | maxu | clz | ctz | popc | sel | addi | andi | ori | xori | slti | slli | srli | srai | lih => exact h.alu
  case lb | lbu | lh | lhu | lw | lwu | ld => exact h.loadTo
  case sb | sh | sw | sd => exact h.storeFrom
  case amoadd | amomin | amomax | amominu | amomaxu | amoand | amoor | amoxor | amoswap | amocas => exact h.atomic
  case beq | bne | blt | bge | bltu | bgeu => exact h.branch
  case bany | ball | bnone => exact h.maskBranch
  case j => exact h.jump
  case jal => exact h.setS.jump
  case loop => exact NextOk.next (.ite h.trap (.ite h.trap (.ite h.skipTo h.mod)))
  case vfetch => exact h.execVfetch
  case vthr => exact NextOk.next (.ite h.holdOn h.handFetch)
  case vjoin => exact h.execVjoin
  case srr => exact h.execSrr
  case srw => exact h.execSrw
  case vadd | vsub | vmul | vmulh | vdiv | vrem | vmin | vmax | vand | vor | vxor | vsll | vsrl | vsra | vsadd | vssub | vfma | vfms
     | vfnma | vfnms | vsqrt | vrcpe | vrsqe | vexp2 | vlog2 | vabs | vneg | vnot | vclz | vpopc | vceq | vcne | vclt | vcle | vcgt
     | vcge | vcun | mand | mor | mxor | mandn | mnot | msbf | msif | vperm | vslideup | vslidedn | vcompress | vexpand | viota
     | vmerge | vins | vext | xch | mpop | mff1 | vraddT | vraddO | vrminT | vrminO | vrmaxT | vrmaxO | vrand | vror | vrxor | vcvt
     | vld | vldS | vldX | vldFf | vldO | vldSo | vldXo | vst | vstS | vstX | vstO | vstSo | vstXo | vamoAdd | vamoMin | vamoMax
     | vamoAnd | vamoOr | vamoXor | vamoSwap | vscadd | bxld | capp | mma | mmax | mmab | mldt | cbld | xcfg | dsend | dpull | ddrop
     | dresend => exact h.route
  case vsetl => exact h.execVsetl
  case vmt => exact h.execVmt
  case vcfg => exact h.execVcfg
  case mclaim => exact h.execMclaim
  case mrel => exact h.execMrel
  case barinit => exact h.execBarinit
  case bararr => exact h.arriveThen (fun _ h _ _ => h.advance)
  case barwait => exact h.execBarwait
  case barwaitA => exact h.execBarwaitA
  case launch => exact h.execLaunch
  case xtid | rdharm | rdimb | rdsamp => exact h.setS.advance
  case xwait => exact NextOk.next (.ite h.trap (.ite h.advance (.ite h.trap h.holdOn)))
  case dlstat => exact NextOk.next (.ite h.holdOn (h.readStub (fun _ h _ => h.arm.setS.advance)))
  case trap => exact h.execTrap
  case eret => exact NextOk.next (.ite h.trap (.ite h.holdOn h.mod.startFetch.gateArrivals))
  case brk => exact NextOk.next (.ite h.breakHalt h.trap)
  case wait => exact NextOk.next (.ite h.advance.mod h.holdOn)
  case uiret => exact NextOk.next (.ite h.trap h.mod)
  case jalr => exact NextOk.next (.ite h.trap h.setS.jump)
  case fence | xfence => exact NextOk.next (.ite h.advance h.holdOn)
  case hclr => exact NextOk.next (.ite h.trap (.ite h.trap (.advance (h.foldl (fun _ _ h => h.hclrOwner)))))
  case setwash => exact NextOk.next (.ite h.trap (.ite h.trap h.modStr.advance))
  case laneThreadStart => exact h.startFetch
  case relocation => exact h.foldl (fun _ _ h => .ite h.relocTurn h)
  case waitTimeout | spanMemberLost => exact h.modTh
  case userInterruptEntry => exact NextOk.next (.ite h.modTh h)
  case vectorSequencerGrant => exact h.execVectorSequencerGrant
  case instructionRelease => exact h.execInstructionRelease
  case washIssue => exact h.washIssue
  case instructionComplete => exact h.execInstructionComplete
  case accessUnitComplete => exact h.execAccessUnitComplete
  case pageWalk => exact h.execPageWalk
  case faultRecordPost => exact h.execFaultRecordPost
  case inval => exact h.pageCommand (fun _ _ _ h => h.invalRange)
  case pagedone => exact h.pageCommand (fun _ _ _ h => h.doneRange)
  case queueHeadTake => exact h.headTake
  case launchComplete => exact h.execLaunchComplete
  case placeGroup => exact h.placeGroup
  case groupLoadComplete => exact h.execGroupLoadComplete
  case saveComplete => exact h.execSaveComplete
  case teardownComplete => exact h.execTeardownComplete
  case barrierWriteback => exact h.dropIdle
  case barrierBroken => exact h.execBarrierBroken
  case stubDelivery => exact h.deliver
  case stripStart => exact h.startStrip
  case stripComplete => exact h.performStrip
  case bxldComplete => exact NextOk.next (.ite h.performStrip h)
  case scalarAccessPerformed => exact h.execScalarAccessPerformed
  case unallocatedWordFetch => exact h.trap
  case instructionFetchFault => exact h.mod.accessFault
  case commandComplete => exact h.endCommand
  case lentwriteBound => exact h.modTh.retryStrips
  case segmentLanding => exact h.execSegmentLanding
  case returnedLanesTimeout => exact h.execReturnedLanesTimeout
  case spanDetachTimeout => exact h.execSpanDetachTimeout
  case freeze => exact h.command (fun _ h _ => .ite h.finishCmd (.ite h.finishCmd h.freezeCtx.finishCmd))
  case attest => exact NextOk.next (.ite h.storeBytes.finishCmd h)
  case query => exact h.command (fun _ h _ => .ite h.finishCmd h.finishCmd)
  case create => exact h.command (fun _ h _ => h.createCtx)
  case setslice => exact h.command (fun _ h _ => .ite h.finishCmd (.ite h.finishCmd (.ite h.finishCmd h.modCtx.finishCmd)))
  case teardown => exact h.command (fun _ h _ => .ite h.finishCmd (.ite h.finishCmd h.tearDown.finishCmd))
  case severNotice => exact h.sever.retryRemote.retryFront.retryStrips.retrySaves
  case preemptForSpace => exact h.preemptForSpace
  case nearCacheEvict | packageReset | flushReadComplete => exact h
  case qtailWrite | queueEnable | queueDrain | queueClear => exact h.hostQueue
  case registerWrite => exact h.execRegisterWrite
  case xchFrzClear => exact h.modTh.lookAgain
  case pendingAgeLimit => exact NextOk.next (.ite h h.modPart.later)
  case spanAttachMark => exact h.execSpanAttachMark
  case svtCharge => exact h.execSvtCharge
  case softError => exact NextOk.next (.ite h.poison.freezeCtx h)
  case functionReset => exact h.execFunctionReset
  case firmwareLoad | partitionSetup | domainSetup | cxlPortTraining | glasalLinkTraining | glasalFlitRetry =>
    exact NextOk.next (.ite h h)
  case clusterMove => exact h.execClusterMove
  case deliveryAck => exact h.modOrigin
  case deliveryRefusal | endMessage | dropMessage => exact h.stubEnds
  case pullRequest => exact h.execPullRequest
  case referenceRequest => exact h.execReferenceRequest
  case referenceGrant => exact h.execReferenceGrant
  case peerLossTimeout => exact h.execPeerLossTimeout
  case hostLentWriteTimeout => exact h.execHostLentWriteTimeout
  case arbiterGrant => exact h.arbiterGrant
  case quantumPost => exact NextOk.next (.ite h.postContenders h.postQuanta)
  case budgetInterval => exact NextOk.next (.passArbBudgets (.passArbBudgets h))
  case stringIntervalEnd => exact h.stringInterval
  case powerInterval => exact h.powerInterval
  case supplyDroop => exact h.setCap.modClu
  case hostMemoryWrite => exact h.inOrder (fun _ h => .ite h (.ite h.violate h.hostChange))
  case hostMemoryRead => exact h.execHostMemoryRead
  case hostAtomicop => exact h.inOrder (fun _ h => .ite h (.ite h.violate (.ite h.toHost.log h.hostChange)))
  case pcieLinkTraining | pcieLinkDown => exact NextOk.next (.ite (.holdLink h) h)
  case cxlPortDown => exact NextOk.next (.ite (.logAll h) h)
  case remoteAccessRequest => exact h.crosses.serveRemote
  case remoteReply => exact h.execRemoteReply
  case halt | resume | srrd | srwr | sregrd | sregwr | memrd | memwr | brkhalt | stoprd => exact h.debugRow
  case debugForward => exact NextOk.next (.ite h.crosses.set_dbgFwd.runForwarded h.send)
  case hbmRefresh => exact h.hbmRefresh
  case stripBufferError => exact NextOk.next (.ite h h.freezeCh)

/-! ## A turn of a thread -/

theorem MemOk.disabled {s : State} {i : Instr} (h : MemOk s) : (s.disabled i).MemOk := by
  unfold State.disabled
  dsimp only
  split
  · exact h.mod
  · split
    · split
      · exact h.mod.trap
      · exact h.mod.advance
    · split
      · exact h.mod.trap
      · exact h.mod.advance
    · exact h.mod.skipTo
    · split
      next e => exact (along e h.mod.header :)
      next e => exact (along e h.mod.header).advance
    · split
      · exact h.mod
      · exact h.mod.advance

theorem MemOk.fetchUnit {s : State} {a : W64} (h : MemOk s) : (s.fetchUnit a).MemOk := by
  unfold State.fetchUnit
  split
  next e => exact (along e h.fetchWord :)
  next e => exact (along e h.fetchWord :)
  next e =>
    split
    · split
      next e' => exact (along e' ((along e h.fetchWord).fetchWord) :)
      next e' => exact (along e' ((along e h.fetchWord).fetchWord) :)
      next e' => exact (along e' ((along e h.fetchWord).fetchWord) :)
    · exact (along e h.fetchWord :)

theorem MemOk.noteUnit {s : State} {f : FetchForm} (h : MemOk s) : MemOk (s.noteUnit f) := h.mod

theorem MemOk.pickFront {s : State} (h : MemOk s) : s.pickFront.MemOk := by
  unfold State.pickFront
  split
  next e => exact (along e h.fetchUnit :)
  next e =>
    split
    · exact (along e h.fetchUnit).noteUnit
    · exact h.holdOn
  next e =>
    have hn {f : FetchForm} := (along e h.fetchUnit).noteUnit (f := f)
    dsimp only
    split
    · exact hn
    · exact hn
    · split
      · exact hn
      · split
        · exact hn
        · exact hn.disabled

theorem MemOk.laneInstr {s : State} {l : LaneTh} {i : Instr} (h : MemOk s) : (s.laneInstr l i).MemOk := by
  unfold State.laneInstr
  split
  · split
    · exact h
    · exact h.trap
  · split
    · exact h
    · split
      · exact h.trap
      · exact h.trap
      · split
        next e => exact (along e h.header :)
        next e => exact (along e h.header).trap
      · split
        · exact h
        · exact h.trap

theorem MemOk.pickLane {s : State} {vp : Nat} {l : LaneTh} (h : MemOk s) : (s.pickLane vp l).MemOk := by
  unfold State.pickLane
  dsimp only
  split
  next e => exact (along e (MemOk.fetchUnit h) :)
  next e => exact (along e (MemOk.fetchUnit h)).noteUnit
  next e =>
    have hn {f : FetchForm} := (along e (MemOk.fetchUnit h)).noteUnit (f := f)
    split
    · exact hn.mod
    · split
      · exact hn
      · exact hn
      · split
        · exact hn
        · exact hn.laneInstr

theorem MemOk.boundary {s : State} {k : ThreadKey} (h : MemOk s) : SomeOk (s.boundary k).1 ∧ MemOk (s.boundary k).2 := by
  unfold State.boundary
  split
  next t trapped e =>
    have ht : MemOk t := along_fst e (MemOk.ite_fst h.drain h)
    split
    · exact ⟨ht, ht⟩
    · split
      · exact ⟨ht.applyHalt, ht.applyHalt⟩
      · split
        · exact ⟨ht.modTh, ht.modTh⟩
        · exact ⟨trivial, ht⟩

theorem MemOk.pick {s : State} {k : ThreadKey} (h : MemOk s) : (s.pick k).MemOk := by
  unfold State.pick
  have hb := MemOk.boundary (k := k) (MemOk.set_cur_lane (x := k) (y := none) h)
  dsimp only at hb ⊢
  split
  next e => exact (along (congrArg Prod.fst e) hb.1 :)
  next e =>
    have hs := along (congrArg Prod.snd e) hb.2
    split
    · exact hs.mod.pickLane
    · split
      · exact hs.mod.pickFront
      · exact hs.mod

protected theorem MemOk.onNext {f : State → State} {o : Host.Outcome State Fault Refusal} (h : NextOk o)
    (hf : ∀ s, MemOk s → MemOk (f s)) :
    NextOk (onNext f o) := by
  cases o with
  | next s => exact hf s h
  | fault r => trivial
  | refused r => trivial

theorem MemOk.chargeLane {s s' : State} {i : Instr} (h1 : MemOk s') : MemOk (s.chargeLane i s') := by
  unfold State.chargeLane
  split
  · exact h1
  · exact .ite h1.passGate h1

theorem MemOk.runTurn {s : State} {k : ThreadKey} (h : MemOk s) : NextOk (s.runTurn k) := by
  unfold State.runTurn
  split
  · trivial
  · split
    · exact h
    · split
      next e => exact (along e h.pick :)
      next e => exact MemOk.onNext (MemOk.exec (along e h.pick :)) fun _ h => .set_lane h.chargeLane

/-! ## The step -/

protected theorem MemOk.step {s : State} (h : MemOk s) : NextOk (step s) := by
  unfold Machine.step
  split
  · exact MemOk.exec (.congr h rfl)
  · exact MemOk.runTurn (.congr h rfl)
  · split
    · exact h.runTurn
    · exact h

/-! ## The obligation -/

/-- Settles O32: every operation that a step is composed of keeps the canonical form. -/
theorem stepKeepsMemory : Obligations.StepKeepsMemory := by
  unfold Obligations.StepKeepsMemory
  intro s t h e
  exact (along e h.step :)

end Sys2Proof

/-! # The values at reset

Every table of `State.reset` is empty, so that each thread, core, context, queue, string and function reads as its type's default. -/

namespace Sys2Proof

open Machine

/-! ## A thread -/

/-- The machine at reset, as thread `k` sees it. -/
abbrev resetAt (k : ThreadKey) : State := { State.reset with cur := k }

theorem getScalar_default (n : Nat) : getScalar {} none n = 0 := by
  unfold getScalar
  split
  · rfl
  · exact ite_self _

theorem getS_resetAt (k : ThreadKey) (r : SReg) : (resetAt k).getS r = 0 := getScalar_default r.toNat

/-- m0 reads all-true (R43); every other mask's word is 0. -/
theorem maskBit_default {n : Nat} (j : Nat) : maskBit {} [] n j = (n == 0) := by
  unfold maskBit
  split
  next h => exact h.symm
  next h => simpa [Tab.get, bit] using h

theorem maskBit_default_of_pos {n : Nat} (h : 1 ≤ n) (j : Nat) : maskBit {} [] n j = false := by
  rw [maskBit_default, beq_eq_false_iff_ne]
  exact Nat.ne_of_gt h

/-- No register of R51 tells one thread from another at reset: the values below are those of every thread. -/
theorem special_resetAt (k : ThreadKey) (n : Nat) : Claim.special (resetAt k) n = Claim.special State.reset n := rfl

theorem special_reset_eq_zero : ∀ n ∈ [0x000, 0x001, 0x002, 0x003, 0x020, 0x021, 0x022, 0x023, 0x024, 0x025, 0x026, 0x027, 0x038, 0x039,
    0x040, 0x041, 0x042, 0x050, 0x05F, 0x060, 0x070, 0x071, 0x072, 0x073, 0x400, 0x401, 0x402, 0x403, 0x411, 0x420, 0x430],
    Claim.special State.reset n = some 0 := by
  decide

/-- VTAG0 to VTAG3 hold eight N64 tags each. -/
theorem special_reset_vtag : ∀ n ∈ [0x008, 0x009, 0x00A, 0x00B], Claim.special State.reset n = some 0x0303030303030303 := by
  decide

theorem special_reset_others :
    Claim.special State.reset 0x004 = some 0x300 ∧ Claim.special State.reset 0x010 = some 2 ∧ Claim.special State.reset 0x030 = some 7
      ∧ Claim.special State.reset 0x044 = some 1 ∧ Claim.special State.reset 0x045 = some 1
      ∧ Claim.special State.reset 0x061 = some (BitVec.ofNat 64 (2048 + 18432 * 2 ^ 16)) ∧ Claim.special State.reset 0x431 = some 4096
      ∧ Claim.special State.reset 0x450 = some 0x100 := by
  decide

/-! ## The manager's registers -/

theorem mgrReg_reset (n : Nat) : State.reset.mgrReg n = mgrReset n := rfl

theorem mgrReset_of_lt {n : Nat} (h : n < 128) : mgrReset (0x900 + n) = 0x4040404040404040 := by
  simp only [mgrReset, Bool.and_eq_true, decide_eq_true_eq]
  exact if_pos (by omega)

theorem mgrReset_hparm {p : Nat} (h : p ≤ 16) : mgrReset (0x980 + p) = 0x4040 := by
  simp only [mgrReset, Bool.and_eq_true, decide_eq_true_eq]
  rw [if_neg (by omega), if_pos (by omega)]

theorem mgrReset_pwrp {p : Nat} (h : p < 16) : mgrReset (0x9D0 + p) = BitVec.ofNat 64 (64 + 3200 * 2 ^ 8 + 64 * 2 ^ 20) := by
  simp only [mgrReset, Bool.and_eq_true, decide_eq_true_eq]
  rw [if_neg (by omega), if_neg (by omega), if_neg (by omega), if_neg (by omega), if_pos (by omega)]
  rfl

/-! ## The obligation -/


/-- Settles O34: the tables are empty, so each clause is about a default. -/
theorem resetHolds : Obligations.ResetHolds := by
  unfold Obligations.ResetHolds
  refine ⟨memOk_reset, fun _ => rfl, rfl, fun k _ => ?_, fun _ => ⟨rfl, fun _ => rfl, fun _ => rfl⟩,
    fun p hp => ⟨mgrReset_hparm (Nat.le_of_lt hp), mgrReset_pwrp hp⟩, fun n hn => mgrReset_of_lt hn, rfl, fun _ => ⟨rfl, rfl, rfl, rfl⟩,
    fun _ => rfl, fun _ => ⟨rfl, rfl, rfl, rfl⟩, fun _ => ⟨rfl, rfl, rfl, rfl⟩⟩
  refine ⟨getS_resetAt k, fun _ _ => rfl, fun _ _ => rfl, fun _ j hn _ => maskBit_default_of_pos hn j, maskBit_default,
    rfl, rfl, rfl, rfl, rfl, fun n hn => (special_resetAt k n).trans (special_reset_eq_zero n hn),
    fun n hn => (special_resetAt k n).trans (special_reset_vtag n hn), special_reset_others⟩

end Sys2Proof

/-! # A cluster that moves while a frozen channel's request waits at the copy engine

R300 freezes a channel whose strip fails, and the thread of an exited group is then done with its strips (R301, R239). The request of
the channel's next strip still waits at its engine. So the cluster is free to move, and the clean of its cores withdraws that request
(`State.dropAsks`): the move changes an arbiter, which the frame of the obligation's third clause does not allow. -/

namespace Sys2Proof

open Machine

namespace WithdrawnAsk

/-- The request of strip 2 of channel 0 of thread 256, whose core 64 is the first of cluster 2. -/
def ask : Req := { key := keyOf 1 0, beats := 1, blame := keyOf 1 0, age := 0, strip := some (256, 0) }

/-- A transfer of two strips, the first of which is started. -/
def twoStrips : Xfer := { first := 1, count := 2, total := 2, started := 1 }

/-- Thread 256 after its group of launch 7 has exited: strip 1 is in flight, and strip 2 waits at the engine. -/
def exited : Thread :=
  { ch0 := { next := 3, xfers := [twoStrips], asked := true, active := [1] }, part := 1, exitedOf := some 7 }

/-- The thread once strip 1 has failed: its channel is frozen, and its error interrupt is pending (R300). -/
def released : Thread :=
  { exited with
    ch0 := { exited.ch0 with frz := true, err := 5, active := [] }, exitedOf := none
    ui := { exited.ui with pend := 2 ^ 3 } }

/-- Partition 1 holds clusters 0 and 2, partition 2 holds cluster 1, and the environment holds the engine (R15). -/
def before : State :=
  { State.reset with
    parts := [(1, { up := true, func := 1, clusters := [0, 2] }), (2, { up := true, func := 2, clusters := [1] })]
    threads := [(256, exited)]
    arbs := [(engineOf 64, { waiting := [ask], env := true })] }

/-- The same package once strip 1 has failed. -/
def frozen : State := before.freezeCh 256 0 0 5

/-- An event of the model makes this state: STRIP_BUFFER_ERROR (R300). -/
theorem exec_stripBufferError : exec (.stripBufferError 256 0) before = .next frozen := rfl

theorem threads_frozen : frozen.threads = [(256, released)] := by decide +kernel

/-- The failure ends the thread's wait for its strips, so that no thread of the package waits for any. -/
theorem exitedOf_frozen (k : ThreadKey) : (frozen.thOf k).exitedOf = none := by
  rw [State.thOf, threads_frozen, Tab.get, Tab.get]
  split <;> rfl

theorem partOfCluster_frozen : frozen.partOfCluster 2 = some 1 := by decide +kernel

/-- The failure leaves the next strip's request at the engine. -/
theorem waiting_frozen : (frozen.arb (engineOf 64)).waiting = [ask] := by decide +kernel

/-- The move withdraws the request. -/
theorem exec_clusterMove_withdraws : ∃ t, exec (.clusterMove 2 2) frozen = .next t ∧ (t.arb (engineOf 64)).waiting = [] :=
  ⟨_, rfl, by decide +kernel⟩

end WithdrawnAsk

open WithdrawnAsk

/-- Refutes O59 by its third clause: cluster 2 may move, and its move withdraws a request that waits at a copy engine. -/
theorem not_packageConfigured : ¬ Obligations.PackageConfigured := by
  unfold Obligations.PackageConfigured
  rintro ⟨-, -, hmove, -, -⟩
  have hfree : ∀ core, Claim.InCluster 2 core → (∀ g ∈ frozen.groups, g.st.holds = true → ∀ m ∈ g.mems, m.1 ≠ core)
      ∧ ∀ tid, tid < 4 → (frozen.thOf (4 * core + tid)).exitedOf = none :=
    fun core _ => ⟨fun g hg => absurd hg List.not_mem_nil, fun tid _ => exitedOf_frozen _⟩
  have hkeeps : ∀ q, frozen.partOfCluster 2 = some q → 1 < (frozen.part q).clusters.length := by
    rw [partOfCluster_frozen]
    rintro q ⟨⟩
    decide +kernel
  obtain ⟨t, ht, hframe, -⟩ := (hmove frozen 2 2).2 ⟨by decide, by decide +kernel, by decide +kernel, hfree, hkeeps⟩
  obtain ⟨u, hu, hnone⟩ := exec_clusterMove_withdraws
  obtain rfl : t = u := by rw [ht] at hu; exact Host.Outcome.next.inj hu
  have hsame : t.arbs = frozen.arbs := by rw [hframe]
  rw [State.arb, hsame, ← State.arb, waiting_frozen] at hnone
  exact List.cons_ne_nil _ _ hnone

end Sys2Proof

/-! # What a turn runs (R36, R38, R72, R91, R105, R107, R270, R323)

`step` answers what a turn of one thread answers (`step_turn`), a turn runs what `State.pick` leaves to run (`runTurn_run`), and a fetch
unit as the claims describe it is the one that `State.fetchUnit` reads (`fetchUnit_at`). -/

namespace Sys2Proof

open Machine

/-! ## Every instruction answers -/

/-- The meaning of each constructor of `Instr` is a next state. -/
theorem exec_next (i : Instr) (s : State) : ∃ t, exec i s = .next t := by
  cases i <;> exact ⟨_, rfl⟩

theorem onNext_next {f : State → State} {o : Host.Outcome State Fault Refusal} (h : ∃ t, o = .next t) : ∃ t, onNext f o = .next t := by
  obtain ⟨t, rfl⟩ := h
  exact ⟨f t, rfl⟩

/-! ## A turn -/

theorem runTurn_absent {s : State} {k : ThreadKey} (hk : 6144 ≤ k) : s.runTurn k = .fault (.noSuchThread k) := by
  rw [State.runTurn, if_pos hk]

theorem runTurn_idle {s : State} {k : ThreadKey} (hk : k < 6144) (hr : s.ready k = false) : s.runTurn k = .next s := by
  rw [State.runTurn, if_neg (Nat.not_le.2 hk), if_pos (by rw [hr]; rfl)]

theorem runTurn_done {s t : State} {k : ThreadKey} (hk : k < 6144) (hr : s.ready k = true) (hp : s.pick k = .done t) :
    s.runTurn k = .next { t with lane := none } := by
  rw [State.runTurn, if_neg (Nat.not_le.2 hk), if_neg (by rw [hr]; decide), hp]

theorem runTurn_run {s t : State} {k : ThreadKey} {i : Instr} (hk : k < 6144) (hr : s.ready k = true) (hp : s.pick k = .run i t) :
    s.runTurn k = onNext (fun u => { t.chargeLane i u with lane := none }) (exec i t) := by
  rw [State.runTurn, if_neg (Nat.not_le.2 hk), if_neg (by rw [hr]; decide), hp]

theorem runTurn_next {s : State} {k : ThreadKey} (hk : k < 6144) : ∃ t, s.runTurn k = .next t := by
  cases hr : s.ready k with
  | false => exact ⟨s, runTurn_idle hk hr⟩
  | true =>
    cases hp : s.pick k with
    | done t => exact ⟨_, runTurn_done hk hr hp⟩
    | run i t =>
      rw [runTurn_run hk hr hp]
      exact onNext_next (exec_next i t)

/-! ## The step -/

/-- A ready thread is one of the package's. -/
theorem lt_of_ready {s : State} {k : ThreadKey} (h : s.ready k = true) : k < 6144 := by
  simp only [State.ready, Bool.and_eq_true, decide_eq_true_eq] at h
  obtain ⟨⟨⟨⟨hk, -⟩, -⟩, -⟩, -⟩ := h
  exact hk

/-- The thread whose turn comes without an agenda is ready. -/
theorem ready_of_nextReady {s : State} {k : ThreadKey} (h : s.nextReady = some k) : s.ready k = true := by
  suffices hk : k ∈ (s.threads.map (·.1)).filter s.ready from (List.mem_filter.1 hk).2
  unfold State.nextReady at h
  dsimp only at h
  split at h
  next e =>
    cases h
    exact List.mem_of_find?_eq_some e
  · exact List.mem_of_head? h

theorem step_event {s : State} {i : Instr} {rest : List Turn} (h : s.agenda = .event i :: rest) :
    step s = exec i { s with agenda := rest } := by
  unfold step
  rw [h]

theorem step_turn {s u : State} {k : ThreadKey} (h : Claim.NextTurn s k u) : step s = u.runTurn k := by
  unfold step
  rcases h with ⟨rest, ha, rfl⟩ | ⟨ha, hk, rfl⟩
  · rw [ha]
  · rw [ha]
    dsimp only
    rw [hk]

theorem step_idle {s : State} (ha : s.agenda = []) (hk : s.nextReady = none) : step s = .next s := by
  unfold step
  rw [ha]
  dsimp only
  rw [hk]

/-- Settles O33: a step is an instruction's meaning, a turn of a thread, or nothing. -/
theorem nothingStops : Obligations.NothingStops := by
  unfold Obligations.NothingStops
  refine ⟨exec_next, fun s => ?_⟩
  cases ha : s.agenda with
  | nil =>
    left
    cases hk : s.nextReady with
    | none => exact ⟨s, step_idle ha hk⟩
    | some k =>
      rw [step_turn (.inr ⟨ha, hk, rfl⟩)]
      exact runTurn_next (lt_of_ready (ready_of_nextReady hk))
  | cons x rest =>
    cases x with
    | event i =>
      left
      rw [step_event ha]
      exact exec_next i _
    | run k =>
      rw [step_turn (.inl ⟨rest, ha, rfl⟩)]
      rcases Nat.lt_or_ge k 6144 with hk | hk
      · exact .inl (runTurn_next hk)
      · exact .inr ⟨k, rest, rfl, hk, runTurn_absent hk⟩

/-! ## Fetching -/

/-- What a fetch's request changes: the arbiters and a host link's budget. -/
theorem accessReqs_frame (s : State) (unit key flat n : Nat) (wr : Bool) (src : Option ThreadKey) :
    ∃ x y, s.accessReqs unit key flat n wr src = { s with arbs := x, budgets := y } := by
  unfold State.accessReqs
  dsimp only
  split
  · exact ⟨_, _, rfl⟩
  · exact ⟨_, s.budgets, rfl⟩

theorem fetchesAt_frame {s u : State} {a : W64} {w : W32} (h : Claim.FetchesAt s a w u) :
    ∃ x y, u = { s with arbs := x, budgets := y } := by
  obtain ⟨flat, leaf, -, -, rfl⟩ := h
  exact accessReqs_frame ..

theorem fetchUnitAt_frame {s u : State} {a : W64} {ws : List W32} {f : FetchForm} (h : Claim.FetchUnitAt s a ws f u) :
    ∃ x y, u = { s with arbs := x, budgets := y } := by
  rcases h with ⟨w, -, -, hw, -⟩ | ⟨w0, w1, u0, -, -, hw0, hw1, -⟩
  · exact fetchesAt_frame hw
  · obtain ⟨x0, y0, rfl⟩ := fetchesAt_frame hw0
    obtain ⟨x, y, rfl⟩ := fetchesAt_frame hw1
    exact ⟨x, y, rfl⟩

theorem fetchUnitAt_addr {s u : State} {a : W64} {ws : List W32} {f : FetchForm} (h : Claim.FetchUnitAt s a ws f u) : f.addr = a := by
  rcases h with ⟨w, -, -, -, rfl⟩ | ⟨w0, w1, u0, -, -, -, -, rfl⟩ <;> rfl

theorem fetchWord_at {s u : State} {a : W64} {w : W32} (h : Claim.FetchesAt s a w u) : s.fetchWord a = .word u w := by
  obtain ⟨flat, leaf, hr, rfl, rfl⟩ := h
  unfold Claim.ReachesAt at hr
  unfold State.fetchWord
  rw [hr]

theorem fetchUnit_at {s u : State} {a : W64} {ws : List W32} {f : FetchForm} (h : Claim.FetchUnitAt s a ws f u) :
    s.fetchUnit a = .unit u f (decode ws) := by
  unfold State.fetchUnit
  rcases h with ⟨w, hp, rfl, hw, rfl⟩ | ⟨w0, w1, u0, hp, rfl, hw0, hw1, rfl⟩
  · rw [fetchWord_at hw]
    dsimp only
    rw [if_neg (by rw [hp]; decide)]
    rfl
  · rw [fetchWord_at hw0]
    dsimp only
    rw [if_pos hp, fetchWord_at hw1]
    rfl

/-! ## The party of a turn -/

/-- Nothing comes before the turn of a thread whose queues are idle and which has neither a halt nor an interrupt to take. -/
theorem boundary_none {s : State} {k : ThreadKey} (hq : s.lockstep = true → (s.thOf k).pipe = [])
    (hb : (s.thOf k).atBoundary = true → (s.thOf k).haltPend = false ∧ (s.thOf k).uiDue = false) : s.boundary k = (none, s) := by
  have hdrain : (s.lockstep && !(s.thOf k).pipe.isEmpty) = false := by
    cases hl : s.lockstep with
    | false => rfl
    | true => rw [hq hl]; rfl
  unfold State.boundary
  rw [hdrain]
  cases ha : (s.thOf k).atBoundary with
  | false => simp [ha]
  | true =>
    obtain ⟨hh, hu⟩ := hb ha
    simp [hh, hu]

/-- The control front's turn, and the turn after it. -/
theorem choose_front {t : Thread} (h : t.turn = 0 ∨ t.laneList = []) : t.choose = (none, 1) := by
  unfold Thread.choose
  rcases h with h | h
  · rw [h]
  · split
    · rfl
    · rw [h]; rfl

/-- A lane thread's turn, and the turn after it. -/
theorem choose_lane {t : Thread} {vp : Nat} {l : LaneTh} (h0 : t.turn ≠ 0)
    (h : t.laneList.find? (fun p => decide (t.turn - 1 ≤ p.1)) = some (vp, l)) : t.choose = (some (vp, l), vp + 2) := by
  obtain ⟨n, hn⟩ := Nat.exists_eq_succ_of_ne_zero h0
  have hfind : t.laneList.find? (fun p => decide (n ≤ p.1)) = some (vp, l) := by rwa [hn] at h
  unfold Thread.choose
  rw [hn]
  dsimp only
  rw [hfind]

theorem pick_front {s : State} {k : ThreadKey} (h : Claim.FrontTurn s k) : s.pick k = (Claim.fetching s k).pickFront := by
  obtain ⟨-, -, hq, hb, ht, hasks, hheld⟩ := h
  unfold State.pick
  dsimp only
  rw [boundary_none (s := { s with cur := k, lane := none }) hq hb]
  dsimp only
  rw [show (({ s with cur := k, lane := none } : State).th.choose) = (none, 1) from choose_front ht]
  dsimp only
  have hgo : ((Claim.fetching s k).th.hold.asks && !(Claim.fetching s k).th.frontHeld) = true := by
    rw [Claim.fetching, th_mod]
    exact (Bool.and_eq_true _ _).mpr ⟨hasks, (Bool.not_eq_true' _).mpr hheld⟩
  exact if_pos hgo

theorem pick_lane {s : State} {k : ThreadKey} {vp : Nat} {l : LaneTh} (h : Claim.LaneTurn s k vp l) :
    s.pick k = (({ s with cur := k, lane := none } : State).mod fun t => { t with turn := vp + 2 }).pickLane vp l := by
  obtain ⟨-, -, hq, hb, h0, hl⟩ := h
  unfold State.pick
  dsimp only
  rw [boundary_none (s := { s with cur := k, lane := none }) hq hb]
  dsimp only
  rw [show (({ s with cur := k, lane := none } : State).th.choose) = (some (vp, l), vp + 2) from choose_lane h0 hl]

end Sys2Proof
namespace Sys2Proof

open Machine

/-! ## The control front's instruction -/

theorem th_running (s : State) (f : FetchForm) : (Claim.running s f).th = { s.th with fu := f, off := false } := by
  rw [Claim.running, th_mod]

theorem stageOn_of {loops : List LoopRec} {stg : Nat} (h : Claim.StageOn loops stg) :
    stageBad loops stg = false ∧ stageOn loops stg = true := by
  rcases h with rfl | ⟨r, rest, rfl, h1, h2, h3⟩
  · exact ⟨rfl, rfl⟩
  · simp only [stageBad, stageOn, Bool.and_eq_false_iff, Bool.or_eq_true, Bool.and_eq_true, decide_eq_false_iff_not, decide_eq_true_eq]
    exact ⟨.inr (by omega), .inr ⟨by omega, by omega⟩⟩

theorem stageBad_of {loops : List LoopRec} {stg : BitVec 4} (h0 : stg ≠ 0) (h : ∀ r rest, loops = r :: rest → r.s < stg.toNat) :
    stageBad loops stg.toNat = true := by
  have hn : (stg.toNat != 0) = true := bne_iff_ne.2 fun e => h0 (BitVec.eq_of_toNat_eq e)
  unfold stageBad
  rw [hn, Bool.true_and]
  cases loops with
  | nil => rfl
  | cons r rest => exact decide_eq_true (h r rest rfl)

theorem cutsPair_iff {f : FetchForm} {e : W64} : cutsPair f e = true ↔ f.long = true ∧ e = f.addr + 4 := by
  simp [cutsPair]

theorem any_cutsPair {loops : List LoopRec} {f : FetchForm} :
    (loops.any fun r => cutsPair f r.e) = true ↔ ∃ r ∈ loops, f.long = true ∧ r.e = f.addr + 4 := by
  simp only [List.any_eq_true, cutsPair_iff]

section

variable {s x : State} {f : FetchForm}

theorem pickFront_run {i : Instr} {long : Bool} {stg : BitVec 4} (hu : s.fetchUnit s.th.pc = .unit x f (.ok ⟨i, long, stg⟩))
    (hcut : ∀ r ∈ x.th.loops, f.long = true → r.e ≠ f.addr + 4) (hstg : Claim.StageOn x.th.loops stg.toNat) :
    s.pickFront = .run i (Claim.running x f) := by
  have hloops : (Claim.running x f).th.loops = x.th.loops := by rw [th_running]
  have hno : ((Claim.running x f).th.loops.any fun r => cutsPair f r.e) = false := by
    rw [hloops, ← Bool.not_eq_true, any_cutsPair]
    rintro ⟨r, hr, hl, he⟩
    exact hcut r hr hl he
  obtain ⟨hbad, hon⟩ := stageOn_of hstg
  unfold State.pickFront
  rw [hu]
  change (if (((Claim.running x f).th.loops.any fun r => cutsPair f r.e) || stageBad (Claim.running x f).th.loops stg.toNat) = true then _
    else if stageOn (Claim.running x f).th.loops stg.toNat = true then _ else _) = _
  rw [hno, hloops, hbad, hon]
  rfl

theorem pickFront_illop {n : Nat} (hu : s.fetchUnit s.th.pc = .unit x f (.error (.illop n))) :
    s.pickFront = .run (.unallocatedWordFetch n) (Claim.running x f) := by
  unfold State.pickFront
  rw [hu]
  rfl

/-- A pair that a body's end cuts, or a stage out of range, is check 4 of R91. -/
theorem pickFront_misplaced {i : Instr} {long : Bool} {stg : BitVec 4} (hu : s.fetchUnit s.th.pc = .unit x f (.ok ⟨i, long, stg⟩))
    (h : (∃ r ∈ x.th.loops, f.long = true ∧ r.e = f.addr + 4) ∨ (stg ≠ 0 ∧ ∀ r rest, x.th.loops = r :: rest → r.s < stg.toNat)) :
    s.pickFront = .run (.unallocatedWordFetch 4) (Claim.running x f) := by
  have hloops : (Claim.running x f).th.loops = x.th.loops := by rw [th_running]
  have hbad : (((Claim.running x f).th.loops.any fun r => cutsPair f r.e) || stageBad (Claim.running x f).th.loops stg.toNat) = true := by
    rw [hloops, Bool.or_eq_true, any_cutsPair]
    exact h.imp id fun ⟨h0, hs⟩ => stageBad_of h0 hs
  unfold State.pickFront
  rw [hu]
  exact if_pos hbad

end

/-- A front's turn runs what its front picks; its scalar instructions charge no gate. -/
theorem runTurn_front {s x : State} {k : ThreadKey} {f : FetchForm} {i : Instr} (h : Claim.FrontTurn s k) (hx : x.lane = none)
    (hp : (Claim.fetching s k).pickFront = .run i (Claim.running x f)) :
    s.runTurn k = onNext (fun t => { t with lane := none }) (exec i (Claim.running x f)) := by
  have hcharge : ∀ t, (Claim.running x f).chargeLane i t = t := chargeLane_front (s := Claim.running x f) hx i
  have ⟨hk, hready, _⟩ := h
  rw [runTurn_run hk hready ((pick_front h).trans hp)]
  simp only [hcharge]

theorem frontStepRunsDecoded : Claim.FrontStepRunsDecoded := by
  refine ⟨fun s i rest h => step_event h, ?_⟩
  intro s u x k ws f hturn hfront v runs hfetch
  obtain ⟨arbs, budgets, hx⟩ := fetchUnitAt_frame hfetch
  have hxv : x = { v with arbs := x.arbs, budgets := x.budgets } := by rw [hx]
  have hth : x.th = v.th := by rw [hxv]; rfl
  have hlane : x.lane = none := by rw [hxv]; rfl
  have haddr := fetchUnitAt_addr hfetch
  have hunit := fetchUnit_at hfetch
  have go : ∀ i, v.pickFront = .run i (Claim.running x f) → runs i := fun i hp =>
    (step_turn hturn).trans (runTurn_front hfront hlane hp)
  refine ⟨hxv, fun i long stg hd hcut hstg => ?_, fun n hd => ?_, fun i long stg hd hbad => ?_⟩
  · rw [hd] at hunit
    refine go i (pickFront_run hunit ?_ (by rwa [hth]))
    rwa [hth, haddr]
  · rw [hd] at hunit
    exact go _ (pickFront_illop hunit)
  · rw [hd] at hunit
    refine go _ (pickFront_misplaced hunit ?_)
    rwa [hth, haddr]

/-! ## Lane threads -/

/-- The lane thread that a turn from `n` on finds is the one that its virtual processor's number names. -/
theorem laneOf_of_find {t : Thread} {n vp : Nat} {l : LaneTh} (h : t.laneList.find? (fun p => decide (n ≤ p.1)) = some (vp, l)) :
    ∃ r, t.fetch = some r ∧ laneOf r vp = some l := by
  obtain ⟨hn, before, after, hlist, hbefore⟩ := List.find?_eq_some_iff_append.1 h
  cases hf : t.fetch with
  | none => simp [Thread.laneList, hf] at hlist
  | some r =>
    refine ⟨r, rfl, ?_⟩
    have hlanes : r.lanes = before ++ (vp, l) :: after := by
      cases hs : r.started with
      | false => simp [Thread.laneList, hf, hs, Option.filter] at hlist
      | true => simpa [Thread.laneList, hf, hs, Option.filter] using hlist
    have hnone : before.find? (fun p => p.1 == vp) = none := by
      refine List.find?_eq_none.2 fun p hp heq => ?_
      have := hbefore p hp
      rw [eq_of_beq heq] at this
      simp [of_decide_eq_true hn] at this
    rw [laneOf, hlanes, List.find?_append, hnone, Option.none_or, List.find?_cons_of_pos (by simp)]
    rfl

/-- A changed lane thread reads as changed. -/
theorem laneOf_setLane {r : FetchRec} {vp : Nat} {l l' : LaneTh} (h : laneOf r vp = some l) : laneOf (setLane r vp (some l')) vp = some l' := by
  unfold laneOf setLane at *
  dsimp only
  generalize r.lanes = ls at h ⊢
  induction ls with
  | nil => simp at h
  | cons p ls ih =>
    by_cases hp : p.1 = vp
    · rw [List.filterMap_cons, if_pos (beq_iff_eq.2 hp)]
      simp
    · rw [List.find?_cons_of_neg (by simpa using hp)] at h
      rw [List.filterMap_cons, if_neg (by simpa using hp)]
      dsimp only
      rw [List.find?_cons_of_neg (by simpa using hp)]
      exact ih h

/-- A fetch in which some lane thread is left stays. -/
theorem tidyFetch_of_laneOf {r : FetchRec} {vp : Nat} {l : LaneTh} (h : laneOf r vp = some l) : tidyFetch r = some r := by
  have hne : r.lanes ≠ [] := by
    rintro he
    simp [laneOf, he] at h
  unfold tidyFetch
  rw [if_neg (by simp [hne])]

theorem laneOf_modLane {t : Thread} {r : FetchRec} {vp : Nat} {l l' : LaneTh} {g : LaneTh → Option LaneTh} (hf : t.fetch = some r)
    (hl : laneOf r vp = some l) (hg : g l = some l') : (t.modLane vp g).fetch.bind (laneOf · vp) = some l' := by
  have hset := laneOf_setLane (l' := l') hl
  unfold Thread.modLane
  rw [hf]
  dsimp only
  rw [hl]
  dsimp only
  rw [hg, tidyFetch_of_laneOf hset]
  exact hset

/-- Registers of 1, 2, 4 or 8 bytes (R105). -/
theorem laneSizesOk_of {t : Thread} {regs : List SReg} (h : ∀ r ∈ regs, r ≠ 0 → (t.laneTag r.toNat).bits ∈ [8, 16, 32, 64]) :
    laneSizesOk t regs = true := by
  refine List.all_eq_true.2 fun r hr => ?_
  by_cases h0 : r = 0
  · simp [h0]
  · have hm := h r hr h0
    simp only [List.mem_cons, List.not_mem_nil, or_false] at hm
    simp [hm, or_assoc]

theorem laneInstr_run {s : State} {l : LaneTh} {i : Instr} {regs : List SReg} (hregs : laneRegs i = some regs)
    (hsizes : laneSizesOk s.th regs = true) : s.laneInstr l i = .run i s := by
  unfold State.laneInstr
  rw [hregs]
  exact if_pos hsizes

section

variable {s x : State} {vp : Nat} {l : LaneTh} {f : FetchForm}

theorem pickLane_enters {n : Nat} {d : Except DecErr FetchUnit} (hu : ({ s with lane := some vp } : State).fetchUnit l.pc = .unit x f d)
    (h : Claim.EntersBlock l f n) :
    s.pickLane vp l = .done ((Claim.running x f).mod fun t => t.modLane vp fun l => some (enterBlock n l)) := by
  obtain ⟨hj, hb, hlong, hn⟩ := h
  unfold State.pickLane
  dsimp only
  rw [hu]
  dsimp only
  rw [hj, hb, hlong, if_pos (by rfl), hn]
  rfl

theorem pickLane_run {i : Instr} {long : Bool} {regs : List SReg}
    (hu : ({ s with lane := some vp } : State).fetchUnit l.pc = .unit x f (.ok ⟨i, long, 0⟩)) (hno : ∀ n, ¬Claim.EntersBlock l f n)
    (hcut : ¬(f.long = true ∧ l.blkEnd = some (f.addr + 4))) (hregs : laneRegs i = some regs) (hsizes : laneSizesOk x.th regs = true) :
    s.pickLane vp l = .run i (Claim.running x f) := by
  have hheader : (if l.jumped && l.blkEnd.isNone && !f.long then headerLen f.word else none) = none := by
    split
    next hc =>
      simp only [Bool.and_eq_true, Option.isNone_iff_eq_none, Bool.not_eq_true'] at hc
      obtain ⟨⟨hj, hb⟩, hshort⟩ := hc
      exact Option.eq_none_iff_forall_ne_some.2 fun n hn => hno n ⟨hj, hb, hshort, hn⟩
    · rfl
  have hends : (l.blkEnd.any (cutsPair f) || (0 : BitVec 4) != 0) = false := by
    rw [Bool.or_eq_false_iff]
    refine ⟨?_, rfl⟩
    cases hb : l.blkEnd with
    | none => rfl
    | some e =>
      rw [Option.any_some, ← Bool.not_eq_true, cutsPair_iff]
      rintro ⟨hl, rfl⟩
      exact hcut ⟨hl, hb⟩
  have hok : laneSizesOk (Claim.running x f).th regs = true := by
    rw [th_running]
    exact hsizes
  unfold State.pickLane
  dsimp only
  rw [hu]
  dsimp only
  rw [hheader]
  dsimp only
  rw [hends, if_neg Bool.false_ne_true]
  exact laneInstr_run hregs hok

end

/-- What the release of a charge at a gate changes (R325). -/
theorem gateCharged_passGate {c ch : Nat} (t : Thread) (s : State) (h : ch ≠ 0) :
    Claim.GateCharged c ch t s (s.passGate c t.part t.owner ch) := by
  unfold State.passGate
  rw [if_neg (by simpa using h)]
  refine ⟨⟨cyclesToOpen (s.core c).bucket ch (s.drainOf c), Nat.le_max_left _ _, ?_⟩, ?_, ?_, fun d hd => ?_, rfl⟩
  · simp [State.book]
  · simp [State.book]
  · simp [State.book]
  · simp [State.book, hd]

/-- The charge of a lane thread's instruction, once it has issued (R323). -/
theorem chargeLane_lane {s t : State} {i : Instr} {vp : Nat} (h : s.lane = some vp) :
    s.chargeLane i t = if isTransfer i = true ∨ t.th.fetch.bind (laneOf · vp) ≠ s.th.fetch.bind (laneOf · vp) then
      t.passGate s.partyCore s.th.part s.th.owner (s.wtab 17) else t := by
  unfold State.chargeLane
  rw [h]
  simp only [Bool.or_eq_true, bne_iff_ne]

theorem laneStepRunsDecoded : Claim.LaneStepRunsDecoded := by
  intro s u x k vp l ws f hturn hlane v hfetch
  obtain ⟨arbs, budgets, hx⟩ := fetchUnitAt_frame hfetch
  have hxv : x = { v with arbs := x.arbs, budgets := x.budgets } := by rw [hx]
  have hth : x.th = v.th := by rw [hxv]; rfl
  have hxlane : x.lane = some vp := by rw [hxv]; rfl
  have hunit := fetchUnit_at hfetch
  have hpick := pick_lane hlane
  have ⟨hk, hready, _, _, _, hfind⟩ := hlane
  refine ⟨fun n henter => ?_, fun i long regs hd hno hcut hregs hsizes => ?_⟩
  · obtain ⟨r, hr, hl⟩ := laneOf_of_find hfind
    refine ⟨_, (step_turn hturn).trans (runTurn_done hk hready (hpick.trans (pickLane_enters hunit henter))), ?_⟩
    have hfetch' : (Claim.running x f).th.fetch = some r := by
      rw [th_running, hth, show v.th = _ from th_mod _ _]
      exact hr
    have := laneOf_modLane (g := fun l => some (enterBlock n l)) hfetch' hl rfl
    rw [← th_mod (Claim.running x f) fun t => t.modLane vp fun l => some (enterBlock n l)] at this
    exact this
  · rw [hd] at hunit
    have hp := hpick.trans (pickLane_run hunit hno (by rwa [fetchUnitAt_addr hfetch]) hregs (laneSizesOk_of (by rwa [hth])))
    obtain ⟨t, ht⟩ := exec_next i (Claim.running x f)
    have hrun : (Claim.running x f).th = { v.th with fu := f, off := false } := by rw [th_running, hth]
    have hsame : (Claim.running x f).th.fetch = v.th.fetch := by rw [hrun]
    have hwtab : (Claim.running x f).wtab 17 = v.wtab 17 := by rw [hxv]; rfl
    have hcore : (Claim.running x f).partyCore = coreAt v.th.laneDist vp := by
      rw [State.partyCore, show (Claim.running x f).lane = some vp from hxlane, hrun]
      rfl
    refine ⟨t, (Claim.running x f).chargeLane i t, ht, ?_, ?_⟩
    · rw [step_turn hturn, runTurn_run hk hready hp, ht]
      rfl
    · rw [chargeLane_lane (s := Claim.running x f) hxlane, hsame, hwtab, hcore, hrun]
      refine ⟨fun hfree => ?_, fun hcost hissued => ?_⟩
      · split
        next hissued =>
          have h0 : v.wtab 17 = 0 := hfree.resolve_right fun ⟨hbr, hsame⟩ =>
            hissued.elim (fun e => by simp [hbr] at e) (· hsame)
          rw [h0]
          rfl
        · rfl
      · rw [if_pos hissued]
        exact gateCharged_passGate v.th t hcost

/-- Settles O31: a step is a turn, a turn runs what its party picks, and its party picks what the fetched words decode to. -/
theorem stepRunsDecoded : Obligations.StepRunsDecoded := ⟨frontStepRunsDecoded, laneStepRunsDecoded⟩

end Sys2Proof

/-! # Routing (R29, R30, R32, R50, R53, R91, R104)

An instruction that `Claim.routing` knows is routed: its meaning is `State.route` of its routing (`exec_of_routing`). What is common to
the routings follows, then what `State.route` does with one. -/

namespace Sys2Proof

open Machine

/-! ## The routings -/

theorem exec_of_routing {s : State} {i : Instr} {r : Routing} (h : Claim.routing s i = some r) : exec i s = .next (s.route r) := by
  cases i <;> cases h <;> rfl

/-- What an instruction captures at routing (R50, R53): of its entry, the operands, their tags and values, the halves it has, its ORD and
SCOPE, its start and its buffer are its own. -/
theorem ent_of_routing {s : State} {i : Instr} {r : Routing} (h : Claim.routing s i = some r) :
    r.ent = { s.th.entry r.ent.op with
      d := r.ent.d, a := r.ent.a, b := r.ent.b, k := r.ent.k, c := r.ent.c, x := r.ent.x, y := r.ent.y, capA := r.ent.capA
      capB := r.ent.capB, tagA := r.ent.tagA, tagB := r.ent.tagB, tagD := r.ent.tagD, inAcc := r.ent.inAcc, inExe := r.ent.inExe
      ord := r.ent.ord, scope := r.ent.scope, start := r.ent.start, buf := r.ent.buf } := by
  cases i <;> cases h <;> rfl

theorem bit_toNat (x : W64) (i : Nat) : bit x.toNat i = x.getLsbD i := by
  rw [bit, BitVec.getLsbD, Nat.testBit_eq_decide_div_mod_eq]
  rfl

theorem entry_rm (t : Thread) (op : VOp) : (t.entry op).rm = rmOfCode (t.v.fstat.toNat % 4) :=
  congrArg (fun n => rmOfCode (n % 4)) (Nat.div_one _)

theorem entry_arm (t : Thread) (op : VOp) : (t.entry op).arm = rmOfCode (t.v.fstat.toNat / 4 % 4) := rfl

theorem entry_ftz (t : Thread) (op : VOp) : (t.entry op).ftz = t.v.fstat.getLsbD 4 := bit_toNat t.v.fstat 4

theorem entry_daz (t : Thread) (op : VOp) : (t.entry op).daz = t.v.fstat.getLsbD 5 := bit_toNat t.v.fstat 5

theorem noVector_iff {op : VOp} : Claim.noVector op ↔ op.noVector = true := by
  cases op <;> simp [Claim.noVector, VOp.noVector]

/-- VSTART is captured, but by the fills, the copy engine and the links, which start at 0 (R53). -/
theorem start_of_routing {s : State} {i : Instr} {r : Routing} (h : Claim.routing s i = some r) :
    r.ent.start = (s.th.entry r.ent.op).start ∨ r.ent.op = .mldt ∨ r.ent.op = .cbld ∨ Claim.noVector r.ent.op := by
  cases i <;> cases h
  case mldt => exact .inr (.inl rfl)
  case cbld => exact .inr (.inr (.inl rfl))
  case xcfg | dsend | dpull | ddrop | dresend => exact .inr (.inr (.inr trivial))
  all_goals exact .inl rfl

theorem nodup_eraseDups {α : Type} [DecidableEq α] : ∀ l : List α, l.eraseDups.Nodup
  | [] => List.nodup_nil
  | a :: l => by
    rw [List.eraseDups_cons, List.nodup_cons, List.mem_eraseDups]
    exact ⟨by simp, nodup_eraseDups _⟩
termination_by l => l.length
decreasing_by exact Nat.lt_succ_of_le (List.length_filter_le _ _)

theorem nodup_popsOf (l : List Nat) : (popsOf l).Nodup := nodup_eraseDups _

/-- An instruction pops a queue once (R32). -/
theorem nodup_pops_of_routing {s : State} {i : Instr} {r : Routing} (h : Claim.routing s i = some r) : r.pops.Nodup := by
  cases i <;> cases h
  case vst | vstS | vstX | vstO | vstSo | vstXo =>
    unfold storeRouting
    dsimp only
    split
    · exact List.nodup_cons.2 ⟨List.not_mem_nil, List.nodup_nil⟩
    · exact List.nodup_nil
  case mand | mor | mxor | mandn | mnot | msbf | msif | viota | vins | mpop | mff1 | vld | vldS | vldX | vldFf | vldO | vldSo | vldXo
     | vamoAdd | vamoMin | vamoMax | vamoAnd | vamoOr | vamoXor | vamoSwap | vscadd | bxld | capp | mma | mmab | mldt | cbld | xcfg
     | dsend | dpull | ddrop | dresend => exact List.nodup_nil
  all_goals exact nodup_popsOf _

theorem setTag_of_routing {s : State} {i : Instr} {r : Routing} (h : Claim.routing s i = some r) (hv : Claim.noVector r.ent.op) :
    r.setTag = none := by
  cases i <;> cases h
  case xcfg | dsend | dpull | ddrop | dresend => rfl
  all_goals exact hv.elim

/-! ## The queue counts (R32) -/

/-- A queue's count loses its head. -/
def popCount (v : VecState) (n : Nat) : VecState := { v with counts := v.counts.upd [] n (·.drop 1) }

theorem countQueues_none (v : VecState) (pops : List Nat) (tag : ETag) : countQueues v pops none tag = pops.foldl popCount v := rfl

theorem countQueues_some (v : VecState) (pops : List Nat) (n : Nat) (tag : ETag) : countQueues v pops (some n) tag =
    { pops.foldl popCount v with counts := (pops.foldl popCount v).counts.upd [] n (· ++ [tag]) } := rfl

theorem foldl_popCount_frame (pops : List Nat) (v : VecState) :
    pops.foldl popCount v = { v with counts := (pops.foldl popCount v).counts } := by
  induction pops generalizing v with
  | nil => rfl
  | cons n pops ih =>
    rw [List.foldl_cons, ih]
    rfl

/-- Counts alone move. -/
theorem countQueues_frame (v : VecState) (pops : List Nat) (push : Option Nat) (tag : ETag) :
    countQueues v pops push tag = { v with counts := (countQueues v pops push tag).counts } := by
  cases push with
  | none => exact foldl_popCount_frame pops v
  | some n => rw [countQueues_some, foldl_popCount_frame]

/-- Each queue popped loses its head. -/
theorem counts_foldl_popCount {pops : List Nat} (h : pops.Nodup) (v : VecState) (n : Nat) :
    (pops.foldl popCount v).counts.get [] n = if n ∈ pops then (v.counts.get [] n).drop 1 else v.counts.get [] n := by
  induction pops generalizing v with
  | nil => rfl
  | cons m pops ih =>
    obtain ⟨hm, hpops⟩ := List.nodup_cons.1 h
    rw [List.foldl_cons, ih hpops]
    by_cases hn : n = m
    · subst hn
      simp [popCount, hm]
    · simp [popCount, hn]

theorem counts_countQueues {pops : List Nat} (h : pops.Nodup) (v : VecState) (push : Option Nat) (tag : ETag) (n : Nat) :
    (countQueues v pops push tag).counts.get [] n =
      (if n ∈ pops then (v.counts.get [] n).drop 1 else v.counts.get [] n) ++ if push = some n then [tag] else [] := by
  cases push with
  | none =>
    rw [countQueues_none, counts_foldl_popCount h]
    simp
  | some m =>
    rw [countQueues_some]
    dsimp only
    rw [Tab.get_upd, counts_foldl_popCount h, counts_foldl_popCount h]
    by_cases hn : n = m
    · simp [hn]
    · simp [hn, Ne.symm hn]

/-! ## The thread that has routed -/

section

variable {s : State} {r : Routing}

theorem routed_tags (hset : Claim.noVector r.ent.op → r.setTag = none) (hoff : s.th.off = false) (n : Nat) :
    tagOf (s.th.routed r).v n = match r.setTag with
      | some (d, g) => if n = d then g else tagOf s.th.v n
      | none => tagOf s.th.v n := by
  have hkeep : (countQueues s.th.v r.pops r.push r.pushTag).tags = s.th.v.tags := by rw [countQueues_frame]
  unfold Thread.routed tagOf
  dsimp only
  rw [hoff, Bool.false_or]
  split
  next hv => rw [hset (noVector_iff.2 hv), hkeep]
  · cases r.setTag with
    | none => rw [← hkeep]; rfl
    | some p => simp [setRoutedTag, hkeep]

theorem routed_counts (hpops : r.pops.Nodup) (n : Nat) :
    (s.th.routed r).v.counts.get [] n = (if n ∈ r.pops then (s.th.v.counts.get [] n).drop 1 else s.th.v.counts.get [] n)
      ++ if r.push = some n then [r.pushTag] else [] := by
  rw [← counts_countQueues hpops]
  unfold Thread.routed
  dsimp only
  split
  · rfl
  · cases r.setTag <;> rfl

/-- Of the vector state, the counts, the tag that the routing sets and VSTART. -/
theorem routed_v (r : Routing) (t : Thread) : (t.routed r).v = { t.v with
    counts := (t.routed r).v.counts
    tags := if t.off then t.v.tags else (t.routed r).v.tags
    vstart := (t.routed r).v.vstart } := by
  unfold Thread.routed
  dsimp only
  rw [countQueues_frame]
  cases t.off with
  | true => rfl
  | false =>
    cases r.ent.op.noVector with
    | true => rfl
    | false => cases r.setTag <;> rfl

theorem routed_vstart_kept {t : Thread} (h : t.off = true ∨ Claim.noVector r.ent.op) : (t.routed r).v.vstart = t.v.vstart := by
  rw [noVector_iff] at h
  unfold Thread.routed
  dsimp only
  rw [if_pos (by simpa using h), countQueues_frame]

theorem routed_vstart_zero {t : Thread} (hoff : t.off = false) (h : ¬Claim.noVector r.ent.op) : (t.routed r).v.vstart = 0 := by
  rw [noVector_iff] at h
  unfold Thread.routed
  dsimp only
  rw [if_neg (by simp [hoff, h])]

/-- What a routing changes. -/
theorem routed_mod (hpops : r.pops.Nodup) (hset : Claim.noVector r.ent.op → r.setTag = none) :
    Claim.Routed r s (s.mod (·.routed r)) := by
  refine ⟨onlyThread_mod _ _, ?_⟩
  rw [th_mod]
  exact ⟨rfl, rfl, routed_v r s.th, routed_vstart_kept, routed_vstart_zero, routed_counts hpops, routed_tags hset⟩

end

/-! ## Routing's checks and holds -/

section

variable {s : State} {r : Routing}

theorem qbalFault_eq_some {n : Nat} : qbalFault s.th r.pops r.push.toList = some n ↔ Claim.Unbalanced s r n := by
  unfold qbalFault Claim.Unbalanced Thread.occ
  cases r.pops.find? fun q => (s.th.v.counts.get [] q).length == 0 with
  | some m => simp
  | none =>
    cases r.push with
    | none => simp
    | some m =>
      simp only [reduceCtorEq, false_or, true_and, Option.toList_some, List.find?_cons]
      by_cases h : 4 ≤ (s.th.v.counts.get [] m).length
      · rw [decide_eq_true h]
        exact ⟨fun e => ⟨e, Option.some.inj e ▸ h⟩, And.left⟩
      · rw [decide_eq_false h]
        exact ⟨nofun, fun ⟨e, hn⟩ => absurd (Option.some.inj e ▸ hn) h⟩

theorem routeFault_bad {f x : Nat} (h : r.bad = some (f, x)) : s.th.routeFault r = some (cILLREG, f * 2 ^ 8 + x % 2 ^ 8) := by
  rw [Thread.routeFault, h]

theorem routeFault_unbalanced {n : Nat} (hb : r.bad = none) (h : Claim.Unbalanced s r n) : s.th.routeFault r = some (cQBAL, n) := by
  rw [Thread.routeFault, hb, qbalFault_eq_some.2 h]

theorem routeFault_balanced (hb : r.bad = none) (h : ∀ n, ¬Claim.Unbalanced s r n) : s.th.routeFault r = r.typ := by
  rw [Thread.routeFault, hb, Option.eq_none_iff_forall_ne_some.2 fun n hn => h n (qbalFault_eq_some.1 hn)]

theorem queuesFull_iff {e : Entry} : queuesFull s.th e = true ↔ Claim.Full s e := by
  simp only [queuesFull, Claim.Full, Bool.or_eq_true, Bool.and_eq_true, decide_eq_true_eq]

theorem route_traps {c d : Nat} (h : s.th.routeFault r = some (c, d)) : s.route r = s.trap c d := by
  rw [State.route, h]

theorem route_joins (h : s.th.routeFault r = none) (hf : s.th.fetch ≠ none) : s.route r = s.holdOn .join := by
  rw [State.route, h]
  exact if_pos (Option.isSome_iff_ne_none.2 hf)

theorem route_full (h : s.th.routeFault r = none) (hf : s.th.fetch = none) (hq : Claim.Full s r.ent) : s.route r = s.holdOn .none := by
  rw [State.route, h, hf]
  exact if_pos (queuesFull_iff.2 hq)

theorem route_enters (h : s.th.routeFault r = none) (hf : s.th.fetch = none) (hq : ¬Claim.Full s r.ent) :
    s.route r = if s.lockstep then ((s.mod (·.routed r)).drain s.cur).1 else (s.mod (·.routed r)).gateArrivals s.cur := by
  rw [State.route, h, hf]
  exact if_neg fun hfull => hq (queuesFull_iff.1 hfull)

end

theorem traps_of_route {s : State} {i : Instr} {r : Routing} {c d : Nat} (hr : Claim.routing s i = some r) (hl : s.lane = none)
    (h : s.th.routeFault r = some (c, d)) (hm : Claim.MayTrap s) : Claim.Traps i c d 0 s :=
  ⟨s.trap c d, by rw [exec_of_routing hr, route_traps h], trap_front hl hm.1 hm.2 c d 0⟩

theorem holds_of_route {s : State} {i : Instr} {r : Routing} {x : Hold} (hr : Claim.routing s i = some r) (hl : s.lane = none)
    (h : s.route r = s.holdOn x) : Claim.Holds x i s := by
  rw [Claim.Holds, exec_of_routing hr, h, holdOn_front hl]

/-- Settles O13: the routings share their captures (`ent_of_routing`), and `State.route` makes the checks, holds and queues. -/
theorem routedInstructionsEnterTheQueues : Obligations.RoutedInstructionsEnterTheQueues := by
  intro i s r hr hl balanced passes
  have hnone : passes → s.th.routeFault r = none := fun ⟨hb, hbal, ht⟩ => (routeFault_balanced hb hbal).trans ht
  refine ⟨fun f x hb => traps_of_route hr hl (routeFault_bad hb), fun n hb hu => traps_of_route hr hl (routeFault_unbalanced hb hu),
    fun c d hb hbal ht => traps_of_route hr hl ((routeFault_balanced hb hbal).trans ht),
    fun hp hf => holds_of_route hr hl (route_joins (hnone hp) hf), fun hp hf hq => holds_of_route hr hl (route_full (hnone hp) hf hq),
    fun hp hf hq => ⟨_, routed_mod (nodup_pops_of_routing hr) (setTag_of_routing hr), ?_⟩, ?_⟩
  · rw [exec_of_routing hr, route_enters (hnone hp) hf hq]
  · have hent := ent_of_routing hr
    exact ⟨congrArg Entry.fu hent, congrArg Entry.vl hent, congrArg Entry.gc hent, congrArg Entry.cb hent, congrArg Entry.mtr hent,
      (congrArg Entry.rm hent).trans (entry_rm s.th r.ent.op), (congrArg Entry.arm hent).trans (entry_arm s.th r.ent.op),
      (congrArg Entry.ftz hent).trans (entry_ftz s.th r.ent.op), (congrArg Entry.daz hent).trans (entry_daz s.th r.ent.op), congrArg Entry.mdest hent,
      congrArg Entry.dist hent, congrArg Entry.user hent, congrArg Entry.dropped hent, start_of_routing hr⟩

end Sys2Proof

/-! # Lost members of a span, and relocations (R25, R34, R126, R229, R325)

A routed instruction that uses a lost member traps at the head of its queues (`runHead_lost`). A lane cycle of a gate changes buckets,
GATEU and the relocation, and asks who has come to stand at the gates (`OnlyRelocates`). -/

namespace Sys2Proof

open Machine

/-! ## Losing a member -/

theorem getElem?_markLost (ms : List Member) (n i : Nat) :
    (ms.zipIdx.map fun p => if p.2 == n && p.1.attached then { p.1 with lost := true } else p.1)[i]? =
      ms[i]?.map fun m => if i = n ∧ m.attached then { m with lost := true } else m := by
  rw [List.getElem?_map, List.getElem?_zipIdx, Option.map_map]
  congr 1
  funext m
  simp

/-- SPAN_MEMBER_LOST marks the member, where it is an attached one of a span. -/
theorem spanMemberLost_marks (s : State) (k : ThreadKey) (n : Nat) : ∃ t, exec (.spanMemberLost k n) s = .next t ∧ OnlyThread k s t
    ∧ t.thOf k = { s.thOf k with v := { (s.thOf k).v with members := (t.thOf k).v.members } }
    ∧ (t.thOf k).v.members.length = (s.thOf k).v.members.length
    ∧ ∀ i, (t.thOf k).v.members[i]? = (s.thOf k).v.members[i]?.map fun m =>
      if 2 ≤ (s.thOf k).v.members.length ∧ i = n ∧ m.attached then { m with lost := true } else m := by
  refine ⟨_, rfl, ⟨rfl, fun j hj => ?_⟩, ?_⟩
  · rw [thOf_modTh, if_neg hj]
  · rw [thOf_modTh, if_pos rfl]
    by_cases hspan : 2 ≤ (s.thOf k).v.members.length
    · rw [if_neg (by omega)]
      refine ⟨rfl, by simp, fun i => ?_⟩
      simp only [hspan, true_and]
      exact getElem?_markLost _ n i
    · rw [if_pos (by omega)]
      exact ⟨rfl, rfl, fun i => by simp [hspan]⟩

/-! ## Which entries use a lost member -/

theorem locate_base (ms : List Member) (b i : Nat) : (locate ms b i).1 = b + (locate ms 0 i).1 := by
  induction ms generalizing b i with
  | nil => rfl
  | cons x ms ih =>
    cases ms with
    | nil => rfl
    | cons y rest =>
      unfold locate
      split
      · rfl
      · rw [ih (b + 1), ih (0 + 1)]
        omega

/-- A lost member that holds the element at `b + j` makes the blocks from `b` on ones that the entry cannot use (R25). -/
theorem lostBlock_of_locate {start vl j b : Nat} {ms : List Member} {m : Member} (hj : j < vl) (hstart : start ≤ b + j)
    (hm : ms[(locate ms 0 j).1]? = some m) (ha : m.attached = true) (hlost : m.lost = true) :
    lostBlock start (shares ms vl) ms b = true := by
  induction ms generalizing vl j b with
  | nil => simp at hm
  | cons x ms ih =>
    cases ms with
    | nil =>
      obtain rfl : x = m := by simpa [locate] using hm
      have hne : vl ≠ 0 := by omega
      have hlt : start < b + vl := by omega
      simp [shares, lostBlock, ha, hlost, hne, hlt]
    | cons y rest =>
      unfold locate at hm
      by_cases hx : x.attached = true ∧ j < x.grant
      · obtain ⟨hxa, hxj⟩ := hx
        obtain rfl : x = m := by simpa [hxa, hxj] using hm
        have hall : vl ≠ 0 ∧ start < b + vl := by omega
        have hmin : min x.grant vl ≠ 0 ∧ start < b + min x.grant vl := by omega
        unfold shares
        rw [if_neg (by simp [ha])]
        split
        · simp [lostBlock, ha, hlost, hall]
        · unfold lostBlock
          simp only [ha, hlost, Bool.true_and, Bool.or_eq_true, Bool.and_eq_true, bne_iff_ne, decide_eq_true_eq]
          exact .inl hmin
      · rw [if_neg (by simpa using hx), locate_base, Nat.zero_add, Nat.add_comm, List.getElem?_cons_succ] at hm
        unfold shares
        cases hxa : x.attached with
        | false =>
          rw [hxa] at hm
          rw [if_pos (by rfl), lostBlock, Nat.add_zero, ih hj hstart hm, Bool.or_true]
        | true =>
          rw [hxa, if_pos rfl] at hm
          have hgrant : x.grant ≤ j := Nat.le_of_not_lt fun h => hx ⟨hxa, h⟩
          have hsome : ¬ (y :: rest).all (fun x => !x.attached) = true := fun hnone => by
            have := List.all_eq_true.1 hnone m (List.mem_of_getElem? hm)
            simp [ha] at this
          rw [if_neg (by simp), if_neg hsome, lostBlock, ih (by omega) (by omega) hm, Bool.or_true]

/-- A product or a fill, which uses its home member alone (R25). -/
def UsesHome (e : Entry) : Prop := isProduct e = true ∨ e.op = .mldt ∨ e.op = .cbld

theorem usesHome_iff {e : Entry} : (isProduct e || e.op == .mldt || e.op == .cbld) = true ↔ UsesHome e := by
  simp [UsesHome, or_assoc]

theorem lostMember_of {s : State} {k : ThreadKey} {e : Entry} (hv : ¬Claim.noVector e.op) (hdist : e.dist = (s.thOf k).v.members)
    (hhome : UsesHome e → ∃ m, (s.thOf k).v.members.head? = some m ∧ m.lost = true)
    (hblock : ¬UsesHome e → ∃ j m, (e.isMem = true → e.start ≤ j) ∧ j < e.vl
      ∧ (s.thOf k).v.members[(locate (s.thOf k).v.members 0 j).1]? = some m ∧ m.attached = true ∧ m.lost = true) :
    lostMember s k e = true := by
  have hop : e.op.noVector = false := by simpa [noVector_iff] using hv
  unfold lostMember
  dsimp only
  rw [hop, if_neg Bool.false_ne_true]
  split
  next h =>
    obtain ⟨m, hm, hlost⟩ := hhome (usesHome_iff.1 h)
    rw [hm]
    exact hlost
  next h =>
    obtain ⟨j, m, hstart, hj, hm, ha, hlost⟩ := hblock (h ∘ usesHome_iff.2)
    rw [hdist]
    refine lostBlock_of_locate hj ?_ hm ha hlost
    split
    next hmem => exact Nat.le_trans (hstart hmem) (Nat.le_add_left _ _)
    · exact Nat.zero_le _

/-! ## The trap at the head of the queues (R25, R114) -/

theorem runHead_lost {s : State} {k : ThreadKey} {e : Entry} (hd : isDropped (s.thOf k).v e = false) (hl : lostMember s k e = true) :
    runHead s k e = .trapped (s.trapEntry k e e cSPANFAULT 0 0 0) := by
  rw [runHead, if_neg (by simp [hd]), if_pos hl]

/-- A trap of the one entry in the queues ends their drain. -/
theorem drain_trapped {s t : State} {k : ThreadKey} {e : Entry} (hp : (s.thOf k).pipe = [e]) (h : runHead s k e = .trapped t) :
    s.drain k = (t, true) := by
  have hmay : (s.thOf k).headMayTrap = true := by rw [Thread.headMayTrap, hp]; rfl
  have hentry : runEntry s k e = .trapped t := by
    rw [runEntry, h]
    exact if_pos hmay
  have hloop : drainLoop (s.thOf k).pipe.length s k = (t, true) := by
    rw [hp, List.length_singleton, drainLoop, hp]
    dsimp only
    rw [hentry]
  rw [State.drain, hloop]
  rfl

theorem markPart_frame (e e' : Entry) (t : Thread) : ∃ p v, markPart e e' t = { t with pipe := p, v := v } := by
  unfold markPart
  dsimp only
  split
  · exact ⟨_, _, rfl⟩
  · exact ⟨_, t.v, rfl⟩

/-- Outside a handler that has not returned, a routed instruction's trap enters the handler. -/
theorem trapEntry_enters {s : State} {k : ThreadKey} (h : ¬((s.thOf k).sup = true ∧ (s.thOf k).trap.inTrap = true)) (e e' : Entry)
    (cause detail index : Nat) (va : W64) :
    let t := s.trapEntry k e e' cause detail index va
    t.cur = s.cur ∧ t.mem = s.mem ∧ (t.thOf k).pc = pcField (s.thOf k).trap.tvec
      ∧ (t.thOf k).trap.info = TrapDesc.info { cause, detail, index, va, fu := e.fu, resume := (s.thOf k).pc } := by
  obtain ⟨p, v, hv⟩ := markPart_frame e e' (s.thOf k)
  have hth : (s.modTh k (markPart e e')).thOf k = { s.thOf k with pipe := p, v := v } := by rw [thOf_modTh, if_pos rfl, hv]
  unfold State.trapEntry State.takeTrap
  dsimp only
  rw [hth, if_neg (by simpa using h), thOf_modTh, if_pos rfl, hth]
  exact ⟨rfl, rfl, rfl, rfl⟩

theorem spanFault_info (fu : FetchForm) (resume : W64) :
    TrapDesc.info { cause := cSPANFAULT, fu, resume } = BitVec.ofNat 64 (cSPANFAULT + if fu.long then 2 ^ 57 else 0) := by
  simp [TrapDesc.info, cSPANFAULT]

theorem lostMembersTrap : Claim.LostMembersTrap := by
  refine ⟨spanMemberLost_marks, ?_⟩
  intro i s r hr hl hlock hpipe hfetch hfault hdrop hv ms home hhome hblock hmay
  have hent := ent_of_routing hr
  have hdist : r.ent.dist = s.th.v.members := congrArg Entry.dist hent
  have hvl : r.ent.vl = s.th.v.vl := congrArg Entry.vl hent
  have hfu : r.ent.fu = s.th.fu := congrArg Entry.fu hent
  have hfull : ¬Claim.Full s r.ent := by
    rintro (⟨-, h⟩ | ⟨-, h⟩)
    · simp [hpipe] at h
    · simp [hpipe] at h
  have hu : (s.mod (·.routed r)).thOf s.cur = s.th.routed r := th_mod _ _
  have hmembers : (s.th.routed r).v.members = s.th.v.members := by rw [routed_v]
  have hup : (s.th.routed r).pipe = [r.ent] := congrArg (· ++ [r.ent]) hpipe
  have hudrop : isDropped (s.th.routed r).v r.ent = false := by
    rw [← hdrop, routed_v]
    rfl
  have hulost : lostMember (s.mod (·.routed r)) s.cur r.ent = true := by
    refine lostMember_of hv ?_ ?_ ?_
    all_goals rw [hu, hmembers]
    · exact hdist
    · exact hhome
    · rw [hvl]
      exact hblock
  have hmay' : ¬((s.th.routed r).sup = true ∧ (s.th.routed r).trap.inTrap = true) := hmay.2
  obtain ⟨hcur, hmem, hpc, hinfo⟩ := trapEntry_enters (s := s.mod (·.routed r)) (k := s.cur) (by rwa [hu]) r.ent r.ent cSPANFAULT 0 0 0
  have hdrain := drain_trapped (by rwa [hu]) (runHead_lost (by rwa [hu]) hulost)
  refine ⟨(s.mod (·.routed r)).trapEntry s.cur r.ent r.ent cSPANFAULT 0 0 0, ?_, hmem, ?_, ?_⟩
  · rw [exec_of_routing hr, route_enters hfault hfetch hfull, if_pos hlock, hdrain]
  · rw [State.th, hcur, mod_cur, hinfo, spanFault_info, hfu]
  · rw [State.th, hcur, mod_cur, hpc, hu]
    rfl

/-! ## Who has come to stand at a gate (R229) -/

theorem arrived_refl (s : State) : Claim.Arrived s s := ⟨rfl, fun j => ⟨(s.thOf j).seqAge, rfl⟩, fun c => ⟨(s.core c).seqClock, rfl⟩⟩

theorem arrived_trans {s t u : State} (h : Claim.Arrived s t) (g : Claim.Arrived t u) : Claim.Arrived s u := by
  obtain ⟨hs, hth, hcore⟩ := h
  obtain ⟨gs, gth, gcore⟩ := g
  refine ⟨by rw [gs, hs], fun j => ?_, fun c => ?_⟩
  · obtain ⟨n, hn⟩ := hth j
    obtain ⟨m, hm⟩ := gth j
    exact ⟨m, by rw [hm, hn]⟩
  · obtain ⟨n, hn⟩ := hcore c
    obtain ⟨m, hm⟩ := gcore c
    exact ⟨m, by rw [hm, hn]⟩

theorem arrived_foldl {α : Type} {f : State → α → State} (hf : ∀ s x, Claim.Arrived s (f s x)) (l : List α) (s : State) :
    Claim.Arrived s (l.foldl f s) := by
  induction l generalizing s with
  | nil => exact arrived_refl s
  | cons x l ih => exact arrived_trans (hf s x) (ih _)

theorem arrived_seqAge (s : State) (j : ThreadKey) (n : Nat) : Claim.Arrived s (s.modTh j fun t => { t with seqAge := n }) := by
  refine ⟨rfl, fun i => ?_, fun c => ⟨(s.core c).seqClock, rfl⟩⟩
  rw [thOf_modTh]
  split
  next h => exact ⟨n, by rw [h]⟩
  · exact ⟨(s.thOf i).seqAge, rfl⟩

theorem arrived_seqClock (s : State) (c n : Nat) : Claim.Arrived s (s.modCore c fun x => { x with seqClock := n }) := by
  refine ⟨rfl, fun i => ⟨(s.thOf i).seqAge, rfl⟩, fun d => ?_⟩
  rw [core_modCore]
  split
  next h => exact ⟨n, by rw [h]⟩
  · exact ⟨(s.core d).seqClock, rfl⟩

theorem arrived_gateArrive (s : State) (c : Nat) : Claim.Arrived s (s.gateArrive c) := by
  refine arrived_foldl (fun s j => ?_) _ s
  dsimp only
  split
  · split
    · exact arrived_refl s
    · exact arrived_seqAge s j 0
  · split
    · exact arrived_refl s
    · exact arrived_trans (arrived_seqAge s j _) (arrived_seqClock _ c _)

theorem arrived_gateArrivals (s : State) (k : ThreadKey) : Claim.Arrived s (s.gateArrivals k) := arrived_foldl arrived_gateArrive _ s

/-! ## What a relocation changes (R126, R325) -/

/-- Nothing but buckets, grants and GATEU, the relocations of threads and their waits at a gate differs. -/
def OnlyRelocates (s t : State) : Prop :=
  t = { s with threads := t.threads, cores := t.cores, parts := t.parts }
    ∧ ∀ j, ∃ n, t.thOf j = { s.thOf j with reloc := (t.thOf j).reloc, seqAge := n }

theorem OnlyRelocates.refl (s : State) : OnlyRelocates s s := ⟨rfl, fun j => ⟨(s.thOf j).seqAge, rfl⟩⟩

theorem OnlyRelocates.trans {s t u : State} (h : OnlyRelocates s t) (g : OnlyRelocates t u) : OnlyRelocates s u := by
  obtain ⟨hs, hth⟩ := h
  obtain ⟨gs, gth⟩ := g
  refine ⟨by rw [gs, hs], fun j => ?_⟩
  obtain ⟨n, hn⟩ := hth j
  obtain ⟨m, hm⟩ := gth j
  refine ⟨m, ?_⟩
  generalize (u.thOf j).reloc = l at hm ⊢
  rw [hm, hn]

theorem OnlyRelocates.foldl {α : Type} {f : State → α → State} (hf : ∀ s x, OnlyRelocates s (f s x)) (l : List α) (s : State) :
    OnlyRelocates s (l.foldl f s) := by
  induction l generalizing s with
  | nil => exact .refl s
  | cons x l ih => exact (hf s x).trans (ih _)

/-- A change of cores and partitions alone. -/
theorem OnlyRelocates.of_threads {s t : State} (h : t = { s with cores := t.cores, parts := t.parts }) : OnlyRelocates s t := by
  rw [h]
  exact ⟨rfl, fun j => ⟨(s.thOf j).seqAge, rfl⟩⟩

theorem OnlyRelocates.of_arrived {s t : State} (h : Claim.Arrived s t) : OnlyRelocates s t := by
  obtain ⟨hs, hth, -⟩ := h
  refine ⟨by rw [hs], fun j => ?_⟩
  obtain ⟨n, hn⟩ := hth j
  exact ⟨n, by rw [hn]⟩

theorem onlyRelocates_reloc (s : State) (k : ThreadKey) (f : Thread → List (ThreadKey × Nat)) :
    OnlyRelocates s (s.modTh k fun t => { t with reloc := f t }) := by
  refine ⟨rfl, fun j => ⟨(s.thOf j).seqAge, ?_⟩⟩
  rw [thOf_modTh]
  split
  next h => rw [h]
  · rfl

/-- A lane cycle of a gate: the bucket drains. -/
def drainGate (s : State) (c : Nat) : State := s.modCore c fun x => { x with bucket := x.bucket - s.drainOf c }

@[simp] theorem core_drainGate (s : State) (c : Nat) :
    (drainGate s c).core c = { s.core c with bucket := (s.core c).bucket - s.drainOf c } := by
  rw [drainGate, core_modCore, if_pos rfl]

/-- The gate's level after a lane cycle lets the charge pass (R325). -/
def GateOpens (s : State) (c ch : Nat) : Prop := (s.core c).bucket - s.drainOf c + ch ≤ 4096 ∨ (s.core c).bucket - s.drainOf c = 0

theorem gateOpens_drainGate {s : State} {c ch : Nat} : gateOpens ((drainGate s c).core c).bucket ch = true ↔ GateOpens s c ch := by
  simp [gateOpens, GateOpens]

theorem gateCycle_open {s : State} {c ch : Nat} (part owner : Nat) (h : GateOpens s c ch) :
    s.gateCycle c part owner ch = ((drainGate s c).book c part owner ch, true) := if_pos (gateOpens_drainGate.2 h)

theorem gateCycle_shut {s : State} {c ch : Nat} (part owner : Nat) (h : ¬GateOpens s c ch) :
    s.gateCycle c part owner ch = (drainGate s c, false) := if_neg (h ∘ gateOpens_drainGate.1)

/-- A member's relocation has passed its gate. -/
def passMember (s : State) (j k : ThreadKey) : State := (s.modTh k fun t => { t with reloc := t.reloc.filter (·.1 != j) }).ungrant j

theorem onlyRelocates_passMember (s : State) (j k : ThreadKey) : OnlyRelocates s (passMember s j k) :=
  (onlyRelocates_reloc s k _).trans (.of_threads rfl)

theorem relocTurn_free {s : State} {n : Nat} (j k : ThreadKey) (h : s.relocCharge n = 0) :
    s.relocTurn j k n = (passMember s j k).gateArrivals k := by
  rw [State.relocTurn, h]
  rfl

/-- The charge is booked, and the member's relocation has passed. -/
def bookMember (s : State) (j k : ThreadKey) (ch : Nat) : State :=
  passMember ((drainGate s (coreOf j)).book (coreOf j) (s.thOf k).part (s.thOf k).owner ch) j k

theorem core_bookMember {s : State} {j : ThreadKey} (k : ThreadKey) (ch : Nat) (hg : (s.core (coreOf j)).granted = some j) :
    (bookMember s j k ch).core (coreOf j) = { s.core (coreOf j) with
      bucket := min ((s.core (coreOf j)).bucket - s.drainOf (coreOf j) + ch) (2 ^ 21 - 1)
      charge := (s.core (coreOf j)).charge + ch
      granted := none } := by
  simp [bookMember, passMember, State.ungrant, State.book, hg]

theorem reloc_bookMember (s : State) (j k : ThreadKey) (ch : Nat) :
    ((bookMember s j k ch).thOf k).reloc = (s.thOf k).reloc.filter (·.1 != j) := by
  simp [bookMember, passMember, State.ungrant, State.book, drainGate]

theorem gateu_bookMember (s : State) (j k : ThreadKey) (ch : Nat) :
    ((bookMember s j k ch).part (s.thOf k).part).gateu.get 0 (s.thOf k).owner =
      sat48 ((s.part (s.thOf k).part).gateu.get 0 (s.thOf k).owner) ch := by
  simp [bookMember, passMember, State.ungrant, State.book, drainGate]

theorem relocTurn_open {s : State} {j k : ThreadKey} {n : Nat} (h : s.relocCharge n ≠ 0) (ho : GateOpens s (coreOf j) (s.relocCharge n)) :
    s.relocTurn j k n = (bookMember s j k (s.relocCharge n)).gateArrivals k := by
  rw [State.relocTurn, beq_false_of_ne h, if_neg Bool.false_ne_true, gateCycle_open _ _ ho]
  rfl

theorem relocTurn_shut {s : State} {j k : ThreadKey} {n : Nat} (h : s.relocCharge n ≠ 0) (ho : ¬GateOpens s (coreOf j) (s.relocCharge n)) :
    s.relocTurn j k n = drainGate s (coreOf j) := by
  rw [State.relocTurn, beq_false_of_ne h, if_neg Bool.false_ne_true, gateCycle_shut _ _ ho]
  rfl

theorem onlyRelocates_relocTurn (s : State) (j k : ThreadKey) (n : Nat) : OnlyRelocates s (s.relocTurn j k n) := by
  have hpass : ∀ u, OnlyRelocates u ((passMember u j k).gateArrivals k) := fun u =>
    (onlyRelocates_passMember u j k).trans (.of_arrived (arrived_gateArrivals _ k))
  by_cases hfree : s.relocCharge n = 0
  · rw [relocTurn_free j k hfree]
    exact hpass s
  · by_cases hopen : GateOpens s (coreOf j) (s.relocCharge n)
    · rw [relocTurn_open hfree hopen]
      exact OnlyRelocates.trans (.of_threads rfl) (hpass _)
    · rw [relocTurn_shut hfree hopen]
      exact .of_threads rfl

/-! ## The event -/

/-- One lane cycle for one member, where its core has granted it. -/
def relocMember (k : ThreadKey) (s : State) (r : ThreadKey × Nat) : State :=
  if s.issues k && (s.core (coreOf r.1)).granted == some r.1 then s.relocTurn r.1 k r.2 else s

theorem exec_relocation (k : ThreadKey) (s : State) : exec (.relocation k) s = .next ((s.thOf k).reloc.foldl (relocMember k) s) := rfl

theorem onlyRelocates_relocMember (k : ThreadKey) (s : State) (r : ThreadKey × Nat) : OnlyRelocates s (relocMember k s r) := by
  unfold relocMember
  split
  · exact onlyRelocates_relocTurn s r.1 k r.2
  · exact .refl s

theorem foldl_relocMember_idle {s : State} {k : ThreadKey} (h : s.issues k = false) (l : List (ThreadKey × Nat)) :
    l.foldl (relocMember k) s = s := by
  induction l with
  | nil => rfl
  | cons r l ih =>
    have hr : relocMember k s r = s := by rw [relocMember, h]; rfl
    rw [List.foldl_cons, hr, ih]

theorem relocation_last {s : State} {k j : ThreadKey} {n : Nat} (hr : (s.thOf k).reloc = [(j, n)]) (hi : s.issues k = true)
    (hg : (s.core (coreOf j)).granted = some j) : exec (.relocation k) s = .next (s.relocTurn j k n) := by
  rw [exec_relocation, hr, List.foldl_cons, List.foldl_nil, relocMember, hi, hg]
  simp

theorem relocationsPass : Claim.RelocationsPass := by
  intro s k
  refine ⟨⟨_, exec_relocation k s, ?_⟩, ?_⟩
  · obtain ⟨hframe, hth⟩ := OnlyRelocates.foldl (onlyRelocates_relocMember k) (s.thOf k).reloc s
    exact ⟨by rw [hframe], hframe, fun h => by rw [h]; rfl, fun h => foldl_relocMember_idle h _, hth⟩
  · intro j n hr hi c ch level p hg hch
    refine ⟨fun hopen => ⟨_, (relocation_last hr hi hg).trans (congrArg _ (relocTurn_open hch hopen)), ?_⟩,
      fun hshut => ⟨_, (relocation_last hr hi hg).trans (congrArg _ (relocTurn_shut hch hshut)), ?_⟩⟩
    · obtain ⟨hframe, hth, hcore⟩ := arrived_gateArrivals (bookMember s j k ch) k
      obtain ⟨age, hage⟩ := hth k
      obtain ⟨clock, hclock⟩ := hcore c
      refine ⟨?_, ?_, ?_, ?_, ?_⟩
      · rw [hage, reloc_bookMember, hr]
        simp
      · rw [hclock, core_bookMember k ch hg]
      · rw [hclock, core_bookMember k ch hg]
      · rw [hclock, core_bookMember k ch hg]
      · rw [hframe]
        exact gateu_bookMember s j k ch
    · rw [core_drainGate]
      exact ⟨rfl, hg, hr, rfl⟩

/-- Settles O28: the vector instruction that uses a lost member traps at the head of its queues, and RELOCATION is made of lane cycles. -/
theorem spansAndRelocations : Obligations.SpansAndRelocations := ⟨lostMembersTrap, relocationsPass⟩

end Sys2Proof

/-! # Entries that complete by events (R31, R56, R131, R154)

Both units look at the head of a thread's queues. A performed access half leaves the entry to its execute half
(`accessUnitComplete_done`), and a released compute entry leaves its results, its classes and its scalar behind (`completed`). -/

namespace Sys2Proof

open Machine

/-! ## FSTAT under the writes of vector state -/

theorem fstat_setGroupBits (v : VecState) (ms : List Member) (m n off w x : Nat) : (setGroupBits v ms m n off w x).fstat = v.fstat := by
  unfold setGroupBits
  dsimp only
  split <;> rfl

theorem fstat_writeAll (v : VecState) (ms : List Member) (n w : Nat) (l : List Res) : (writeAll v ms n w l).fstat = v.fstat := by
  induction l generalizing v with
  | nil => rfl
  | cons r l ih => rw [writeAll, ih, writeElem, fstat_setGroupBits]

/-- What every step of a fold leaves of FSTAT, the fold leaves of it. -/
theorem fstat_foldl {α : Type} {f : VecState → α → VecState} (hf : ∀ v x, (f v x).fstat = v.fstat) (l : List α) (v : VecState) :
    (l.foldl f v).fstat = v.fstat := by
  induction l generalizing v with
  | nil => rfl
  | cons x l ih => rw [List.foldl_cons, ih, hf]

theorem fstat_touch (v : VecState) (ms : List Member) (n g vl w : Nat) : (touch v ms n g vl w).fstat = v.fstat := by
  refine fstat_foldl (fun v p => fstat_foldl (fun v k => ?_) _ v) _ v
  dsimp only
  split <;> rfl

theorem fstat_writeDest (v : VecState) (e : Entry) (n : Nat) (l : List Res) : (writeDest v e n l).fstat = v.fstat := by
  unfold writeDest
  split
  · rfl
  · split
    · rfl
    · rw [fstat_touch, fstat_writeAll]

theorem fstat_writeMask (v : VecState) (ms : List Member) (k : Nat) (set : List Nat) : (writeMask v ms k set).fstat = v.fstat :=
  fstat_foldl (f := fun v i => setMaskBit v ms k i true) (fun _ _ => rfl) set (clearMask v k)

theorem fstat_popAll (v : VecState) (l : List Nat) : (popAll v l).fstat = v.fstat := fstat_foldl (f := popEntry) (fun _ _ => rfl) l v

theorem trapEnables_congr {u v : VecState} (h : u.fstat = v.fstat) : trapEnables u = trapEnables v := by rw [trapEnables, h, trapEnables]

/-- FLAGS lies below TEN (R56). -/
theorem bits_orFlags (x : W64) (f : Nat) : bits (orFlags x f).toNat 22 16 = bits x.toNat 22 16 := by
  have hlow : BitVec.toNat (BitVec.ofNat 64 (f % 2 ^ 7 * 2 ^ 8)) / 2 ^ 16 = 0 := by
    rw [BitVec.toNat_ofNat]
    omega
  unfold bits orFlags
  rw [BitVec.toNat_or, Nat.or_div_two_pow, hlow, Nat.or_zero]

theorem trapEnables_mergeFlags (v : VecState) (r : Raised) : trapEnables (mergeFlags v r) = trapEnables v := by
  unfold mergeFlags
  split
  · rfl
  · exact bits_orFlags v.fstat (allRaised r)

/-! ## Requests -/

/-- Nothing but arbiters and budgets differs. -/
def OnlyAsks (s t : State) : Prop := t = { s with arbs := t.arbs, budgets := t.budgets }

theorem OnlyAsks.refl (s : State) : OnlyAsks s s := rfl

theorem OnlyAsks.trans {s t u : State} (h : OnlyAsks s t) (g : OnlyAsks t u) : OnlyAsks s u := by
  unfold OnlyAsks at *
  rw [g, h]

theorem OnlyAsks.foldl {α : Type} {f : State → α → State} (hf : ∀ s x, OnlyAsks s (f s x)) (l : List α) (s : State) :
    OnlyAsks s (l.foldl f s) := by
  induction l generalizing s with
  | nil => exact .refl s
  | cons x l ih => exact (hf s x).trans (ih _)

theorem onlyAsks_elemReqs (s : State) (unit key n : Nat) (wr : Bool) (src : Option ThreadKey) (flats : List Nat) :
    OnlyAsks s (s.elemReqs unit key n wr src flats) :=
  .foldl (f := fun s b => s.hostRequest (s.hostLink (b * 64)) false key (n * (flats.filter (· / 64 == b)).length) wr) (fun _ _ => rfl) _ _

theorem onlyAsks_vecReqs (s : State) (k : ThreadKey) (e : Entry) (flats : List (Nat × Nat)) : OnlyAsks s (s.vecReqs k e flats) :=
  .foldl (fun _ _ => onlyAsks_elemReqs ..) _ s

theorem onlyAsks_computeReqs (s : State) (k : ThreadKey) (e : Entry) : OnlyAsks s (s.computeReqs k e) := by
  unfold State.computeReqs
  split
  · refine .foldl (fun s p => ?_) _ s
    dsimp only
    split <;> rfl
  · rfl

/-! ## The entry at the head of the queues -/

theorem splitAt_head {f : Entry → Bool} {e : Entry} (rest : List Entry) (h : f e = true) :
    Machine.splitAt f (e :: rest) = some ([], e) := if_pos h

theorem dropEntry_head (e : Entry) (rest : List Entry) : dropEntry e (e :: rest) = rest := by simp [dropEntry]

theorem swapEntry_head (e e' : Entry) (rest : List Entry) : swapEntry e e' (e :: rest) = e' :: rest := by simp [swapEntry]

theorem thOf_congr {s t : State} (h : t.threads = s.threads) (j : ThreadKey) : t.thOf j = s.thOf j := by rw [State.thOf, h, State.thOf]

theorem sweepSlots_frame (s : State) (c : Nat) :
    s.sweepSlots c = { s with cores := (s.sweepSlots c).cores, agenda := (s.sweepSlots c).agenda } := by
  unfold State.sweepSlots
  split <;> rfl

/-- Retirement takes the entry out of its thread's queues; beside that, slots that waited for it become free (R175). -/
theorem retire_frame (s : State) (k : ThreadKey) (e : Entry) : s.retire k e =
    { s.modTh k fun t => { t with pipe := dropEntry e t.pipe } with
      cores := (s.retire k e).cores, agenda := (s.retire k e).agenda } := by
  unfold State.retire
  dsimp only
  split
  · exact sweepSlots_frame ..
  · rfl

theorem thOf_retire (s : State) (k : ThreadKey) (e : Entry) (j : ThreadKey) :
    (s.retire k e).thOf j = if j = k then { s.thOf k with pipe := dropEntry e (s.thOf k).pipe } else s.thOf j := by
  have hth : (s.retire k e).threads = (s.modTh k fun t => { t with pipe := dropEntry e t.pipe }).threads := by rw [retire_frame]
  rw [thOf_congr hth, thOf_modTh]

theorem mem_retire (s : State) (k : ThreadKey) (e : Entry) : (s.retire k e).mem = s.mem := by rw [retire_frame]; rfl

theorem startFetch_idle {s : State} {k : ThreadKey} (h : (s.thOf k).fetch = none) : s.startFetch k = s := by
  unfold State.startFetch
  dsimp only
  rw [h]

/-! ## ACCESS_UNIT_COMPLETE (R154) -/

/-- The oldest access half, ready and performed: its entry waits for its execute half. -/
theorem accessUnitComplete_done {s u : State} {k : ThreadKey} {e e' : Entry} {rest : List Entry} (hpipe : (s.thOf k).pipe = e :: rest)
    (hlost : lostMember s k e = false) (hdrop : isDropped (s.thOf k).v e = false) (hacc : e.inAcc = true) (hdone : e.accDone = false)
    (hissues : s.issues k = true) (hready : accReady s k [] e = true) (hhalf : accessHalf s k e = .done u e') (hexe : e'.inExe = true) :
    exec (.accessUnitComplete k) s = .next ((u.putEntry k e { e' with accDone := true, begun := true }).gateArrivals k) := by
  have hrun : runAccess s k e = .inr (u, { e' with accDone := true, begun := true }) := by
    rw [runAccess, hacc, hdone, hhalf]
    rfl
  have hturn : accessTurn s k [] e = .waiting (u.putEntry k e { e' with accDone := true, begun := true }) := by
    rw [accessTurn, hrun]
    exact if_pos hexe
  change execAccessUnitComplete k s = _
  unfold execAccessUnitComplete
  dsimp only
  rw [hpipe, splitAt_head rest (by rw [hacc, hdone]; rfl)]
  dsimp only
  rw [hissues, hready, hdrop, hlost, hturn]
  rfl

/-! ## INSTRUCTION_COMPLETE (R56, R129, R131) -/

theorem recordSample_unsampled {e : Entry} (s : State) (k : ThreadKey) (h : e.sampled = false) : s.recordSample k e = s :=
  if_pos (by rw [h]; rfl)

/-- While no trap is enabled, a completed entry merges its classes and retires. -/
theorem finish_retires {e : Entry} {v : VecState} (s : State) (k : ThreadKey) (r : Raised) (hs : e.sampled = false)
    (hv : trapEnables v = 0) :
    finish s k e v r = .retired ((s.modTh k fun t => { t with v := mergeFlags v r }).retire k e) := by
  have hoff : trapEnables (((s.modTh k fun t => { t with v := mergeFlags v r }).retire k e).thOf k).v = 0 := by
    rw [thOf_retire, if_pos rfl, thOf_modTh, if_pos rfl, ← hv]
    exact trapEnables_mergeFlags v r
  unfold finish
  dsimp only
  rw [recordSample_unsampled _ _ hs, hoff, Nat.zero_and]
  rfl

/-- The scalar that a computation gives is written (R30). -/
def withScalar (s : State) (k : ThreadKey) (d : Nat) : Option W64 → State
  | some x => s.scalarDest k d x
  | none => s

/-- The state after an entry that has computed `v`, a scalar and its classes: results, pops, the scalar and the classes stand, and it has
left the queues. -/
def completed (s : State) (k : ThreadKey) (e : Entry) (v : VecState) (x : Option W64) (r : Raised) : State :=
  (((withScalar s k e.d x).computeReqs k e).modTh k fun t => { t with v := mergeFlags (popAll v e.popList) r }).retire k e

theorem completeEntry_ok {s : State} {k : ThreadKey} {e : Entry} {v : VecState} {x : Option W64} {r : Raised} (hmem : e.isMem = false)
    (hexe : e.inExe = true) (hs : e.sampled = false) (hout : computeOut s k e = .ok v x r) (hv : trapEnables v = 0) :
    completeEntry s k e = .retired (completed s k e v x r) := by
  have hpop : trapEnables (popAll v e.popList) = 0 := (trapEnables_congr (fstat_popAll v e.popList)).trans hv
  unfold completeEntry completeCompute
  rw [hmem, if_neg Bool.false_ne_true, if_pos hexe, hout]
  cases x <;> exact finish_retires _ k r hs hpop

theorem withScalar_frame (s : State) (k : ThreadKey) (d : Nat) (x : Option W64) :
    withScalar s k d x = { s with threads := (withScalar s k d x).threads } := by
  cases x <;> rfl

theorem thOf_withScalar (s : State) (k : ThreadKey) (d : Nat) (x : Option W64) (j : ThreadKey) : (withScalar s k d x).thOf j =
    if j = k then x.elim (s.thOf k) (setScalar (s.thOf k) none d) else s.thOf j := by
  cases x with
  | none => split <;> simp_all [withScalar]
  | some x => exact thOf_modTh s k j _

theorem mem_completed (s : State) (k : ThreadKey) (e : Entry) (v : VecState) (x : Option W64) (r : Raised) :
    (completed s k e v x r).mem = s.mem := by
  have hasks := onlyAsks_computeReqs (withScalar s k e.d x) k e
  rw [completed, mem_retire]
  change ((withScalar s k e.d x).computeReqs k e).mem = _
  rw [hasks, withScalar_frame]

theorem thOf_completed {s : State} {k : ThreadKey} {e : Entry} {rest : List Entry} (hpipe : (s.thOf k).pipe = e :: rest) (v : VecState)
    (x : Option W64) (r : Raised) (j : ThreadKey) : (completed s k e v x r).thOf j =
      if j = k then { x.elim (s.thOf k) (setScalar (s.thOf k) none e.d) with v := mergeFlags (popAll v e.popList) r, pipe := rest }
      else s.thOf j := by
  have hasks : ∀ i, ((withScalar s k e.d x).computeReqs k e).thOf i = (withScalar s k e.d x).thOf i :=
    thOf_congr (by rw [onlyAsks_computeReqs (withScalar s k e.d x) k e])
  have hsame : (x.elim (s.thOf k) (setScalar (s.thOf k) none e.d)).pipe = e :: rest := by
    cases x with
    | none => exact hpipe
    | some x => rw [Option.elim_some, setScalar_frame]; exact hpipe
  rw [completed, thOf_retire, thOf_modTh, thOf_modTh, if_pos rfl]
  split
  · dsimp only
    rw [hasks, thOf_withScalar, if_pos rfl, hsame, dropEntry_head]
  next h => rw [hasks, thOf_withScalar, if_neg h]

theorem exec_instructionComplete_released {s : State} {k : ThreadKey} {e : Entry} {rest : List Entry} {v : VecState} {x : Option W64}
    {r : Raised} (hpipe : (s.thOf k).pipe = e :: rest) (hmem : e.isMem = false) (hexe : e.inExe = true) (hrel : e.released = true)
    (hs : e.sampled = false) (hfetch : (s.thOf k).fetch = none) (hout : computeOut s k e = .ok v x r) (hv : trapEnables v = 0) :
    exec (.instructionComplete k) s = .next ((completed s k e v x r).gateArrivals k) := by
  have hidle : ((completed s k e v x r).thOf k).fetch = none := by
    rw [thOf_completed hpipe, if_pos rfl]
    cases x with
    | none => exact hfetch
    | some x => rw [Option.elim_some, setScalar_frame]; exact hfetch
  change execInstructionComplete k s = _
  unfold execInstructionComplete
  dsimp only
  rw [hpipe, splitAt_head rest hexe]
  dsimp only
  rw [if_pos hrel, completeEntry_ok hmem hexe hs hout hv]
  exact congrArg (fun u => Host.Outcome.next (u.gateArrivals k)) (startFetch_idle hidle)

theorem exec_instructionComplete_waits {s : State} {k : ThreadKey} {e : Entry} {rest : List Entry} (hpipe : (s.thOf k).pipe = e :: rest)
    (hdrop : isDropped (s.thOf k).v e = false) (hexe : e.inExe = true) (hrel : e.released = false) :
    exec (.instructionComplete k) s = .next s := by
  change execInstructionComplete k s = _
  unfold execInstructionComplete
  dsimp only
  rw [hpipe, splitAt_head rest hexe]
  dsimp only
  rw [hrel, hdrop]
  rfl

/-- What the operations of majors 0x28 to 0x2D that cannot fault and give no free value compute, they compute with FSTAT as it stands. -/
theorem computeCore_ok {v : VecState} {e : Entry} (s : State) (hcvt : ∀ g, e.op ≠ .cvt g) (hext : e.op ≠ .ext) :
    ∃ u x r, computeCore s v e = .ok u x r ∧ u.fstat = v.fstat := by
  have hvec : ∀ l, ∃ u x r, vecOut v e l = .ok u x r ∧ u.fstat = v.fstat := fun l => ⟨_, _, _, rfl, fstat_writeDest v e e.vl l⟩
  have hmask : ∀ set r, ∃ u x r', (if e.vl == 0 then ComputeOut.ok v none [] else .ok (writeMask v e.dist e.d set) none r) = .ok u x r'
      ∧ u.fstat = v.fstat := by
    intro set r
    split
    · exact ⟨v, none, [], rfl, rfl⟩
    · exact ⟨_, _, _, rfl, fstat_writeMask v e.dist e.d set⟩
  unfold computeCore
  cases hop : e.op
  case cvt g => exact absurd hop (hcvt g)
  case ext => exact absurd hop hext
  case bin | fma | un | perm | slideup | slidedn | compress | expand | iota | merge | ins | xch => exact hvec _
  case cmp | mlog => exact hmask _ _
  all_goals exact ⟨v, _, _, rfl, rfl⟩

/-- A compute entry that is no product computes by majors 0x28 to 0x2D. -/
theorem computeOut_core {s : State} {k : ThreadKey} {e : Entry} (h : isProduct e = false) :
    computeOut s k e = computeCore s (s.thOf k).v e := by
  unfold computeOut
  dsimp only
  split
  case h_1 hop | h_2 hop | h_3 hop => simp [isProduct, hop] at h
  case h_4 => rfl

/-! ## A load from the local scratchpad (R151, R154, R189) -/

/-- Nothing but the stall counts of thread `k` differs. -/
def OnlyStall (k : ThreadKey) (s t : State) : Prop := OnlyThread k s t ∧ t.thOf k = { s.thOf k with stall := (t.thOf k).stall }

theorem OnlyStall.refl (k : ThreadKey) (s : State) : OnlyStall k s s := ⟨⟨rfl, fun _ _ => rfl⟩, rfl⟩

theorem OnlyStall.trans {k : ThreadKey} {s t u : State} (h : OnlyStall k s t) (g : OnlyStall k t u) : OnlyStall k s u := by
  refine ⟨Machine.OnlyThread.trans h.1 g.1, ?_⟩
  rw [g.2, h.2]

theorem onlyStall_clearStall (s : State) (k : ThreadKey) (who : Nat) : OnlyStall k s (s.clearStall k who) := by
  obtain ⟨x, hx, hth⟩ := clearStall_frame s k who
  refine ⟨⟨by rw [hx], fun j hj => by rw [hth, if_neg hj]⟩, ?_⟩
  rw [hth, if_pos rfl]
  rfl

theorem OnlyStall.mem {k : ThreadKey} {s t : State} (h : OnlyStall k s t) : t.mem = s.mem := by rw [h.1.1]

theorem OnlyStall.load {k : ThreadKey} {s t : State} (h : OnlyStall k s t) (a n : Nat) : t.load a n = s.load a n := by
  rw [State.load, State.bytes, h.mem, State.load, State.bytes]

theorem OnlyStall.spadOk {k : ThreadKey} {s t : State} (h : OnlyStall k s t) (core off n : Nat) :
    t.spadOk k (t.thOf k).ctx core off n = s.spadOk k (s.thOf k).ctx core off n := by
  have hgroups : t.groups = s.groups := by rw [h.1.1]
  unfold State.spadOk
  rw [hgroups, h.2]

/-- A unit-stride load, not fault-only-first, of whole bytes from the scratchpad of the thread's one core. -/
structure LocalLoad (e : Entry) (m : Member) : Prop where
  op : ∃ o, e.op = .load .unit false o
  space : e.mtr.space = 0
  dist : e.dist = [m]
  wide : 8 ≤ e.tagD.bits

/-- The address of element `j` of a unit-stride access (R151). -/
def unitAddr (e : Entry) (j : Nat) : Nat := (e.capA + BitVec.ofNat 64 (j * (e.tagD.bits / 8))).toNat

/-- Element `j` lies, aligned, in a range of the scratchpad that the thread may access (R153, R189, R192). -/
structure LiesLocal (s : State) (k : ThreadKey) (e : Entry) (m : Member) (j : Nat) : Prop where
  low : unitAddr e j / 2 ^ 21 % 2 ^ 39 = 0
  limit : unitAddr e j % 2 ^ 21 < 0x180000
  natural : unitAddr e j % (e.tagD.bits / 8) = 0
  ok : s.spadOk k (s.thOf k).ctx m.core (unitAddr e j % 2 ^ 21) (e.tagD.bits / 8) = true

/-- The value of element `j`. -/
def localValue (s : State) (e : Entry) (m : Member) (j : Nat) : Nat :=
  s.load (spadFlat m.core (unitAddr e j % 2 ^ 21)) (e.tagD.bits / 8)

/-- The entry once the elements have been read. -/
def withElems (s : State) (e : Entry) (m : Member) (js : List Nat) : Entry :=
  { e with buf := e.buf ++ js.map fun j => (j, localValue s e m j) }

section

variable {s : State} {k : ThreadKey} {e : Entry} {m : Member} {j : Nat}

theorem LocalLoad.tag_ne_k4 (h : LocalLoad e m) : (e.tagD == .k4) = false := by
  refine beq_false_of_ne fun hk4 => ?_
  have := h.wide
  rw [hk4] at this
  exact absurd this (by decide)

theorem LocalLoad.elemBytes_eq (h : LocalLoad e m) : elemBytes e.tagD = e.tagD.bits / 8 := by
  rw [elemBytes, h.tag_ne_k4]
  rfl

theorem LocalLoad.elemAddr_eq (h : LocalLoad e m) (v : VecState) (j : Nat) : (elemAddr v e j).toNat = unitAddr e j := by
  obtain ⟨o, hop⟩ := h.op
  have hform : e.form = .unit := by rw [Entry.form, hop]
  rw [elemAddr, hform, unitAddr, h.tag_ne_k4, h.elemBytes_eq]
  rfl

theorem LocalLoad.gather_eq (h : LocalLoad e m) : e.gather = false := by
  obtain ⟨o, hop⟩ := h.op
  rw [Entry.gather, hop]

theorem LocalLoad.anyOrder_eq (h : LocalLoad e m) : e.anyOrder = false := by
  obtain ⟨o, hop⟩ := h.op
  rw [Entry.anyOrder, hop]

theorem LocalLoad.coreAt_eq (h : LocalLoad e m) (j : Nat) : coreAt e.dist j = m.core := by
  rw [h.dist]
  rfl

theorem LocalLoad.withElems (h : LocalLoad e m) (js : List Nat) : LocalLoad (withElems s e m js) m := ⟨h.op, h.space, h.dist, h.wide⟩

theorem LiesLocal.target (hj : LiesLocal s k e m j) (h : LocalLoad e m) (v : VecState) :
    vectorTarget (coreAt e.dist j) e.mtr (elemAddr v e j) = .spad m.core (unitAddr e j % 2 ^ 21) := by
  have hbits : bits (unitAddr e j) 59 21 = 0 := hj.low
  rw [vectorTarget, h.space, h.coreAt_eq, h.elemAddr_eq, hbits]
  exact if_pos (decide_eq_true hj.limit)

theorem LiesLocal.access (hj : LiesLocal s k e m j) (h : LocalLoad e m) (v : VecState) (rop : RemoteOp) :
    s.access k 1 e.user .read (vectorTarget (coreAt e.dist j) e.mtr (elemAddr v e j)) (e.tagD.bits / 8) rop
      = .at (spadFlat m.core (unitAddr e j % 2 ^ 21)) 0 := by
  rw [hj.target h, State.access, hj.ok]
  rfl

theorem nearTouch_spad (s : State) (core off leaf : Nat) : s.nearTouch (spadFlat core off) leaf = s := by
  have hfar : isHbm (spadFlat core off) = false := decide_eq_false (by unfold spadFlat; omega)
  rw [State.nearTouch, hfar]
  rfl

/-- One element is read, and its party no longer waits. -/
theorem elemOne_local (hj : LiesLocal s k e m j) (h : LocalLoad e m) (v u : VecState) :
    elemOne s k u e j (elemAddr v e j) = .ok (s.clearStall k 1) (some (localValue s e m j)) 0
      (some (spadFlat m.core (unitAddr e j % 2 ^ 21))) := by
  obtain ⟨o, hop⟩ := h.op
  rw [elemOne, hop]
  dsimp only
  rw [loadOne, h.elemBytes_eq, hj.access h]
  dsimp only
  rw [h.tag_ne_k4, State.elemTouched, nearTouch_spad]
  rfl

theorem LiesLocal.aligned (hj : LiesLocal s k e m j) (h : LocalLoad e m) (v : VecState) : misaligned e.tagD (elemAddr v e j) = false := by
  rw [misaligned, h.elemBytes_eq, h.elemAddr_eq, hj.natural]
  rfl

theorem LiesLocal.present (hj : LiesLocal s k e m j) (h : LocalLoad e m) (v : VecState) :
    missesPage s k e (vectorTarget (coreAt e.dist j) e.mtr (elemAddr v e j)) = false := by
  rw [hj.target h]
  rfl

/-- The elements read before it do not move an element. -/
theorem LiesLocal.later {t : State} (hj : LiesLocal s k e m j) (hst : OnlyStall k s t) (js : List Nat) :
    LiesLocal t k (withElems s e m js) m j :=
  ⟨hj.low, hj.limit, hj.natural, (hst.spadOk _ _ _).trans hj.ok⟩

theorem withElems_cons {t : State} (hst : OnlyStall k s t) (i : Nat) (js : List Nat) :
    withElems t (withElems s e m [i]) m js = withElems s e m (i :: js) := by
  have hval : ∀ j, localValue t (withElems s e m [i]) m j = localValue s e m j := fun j => hst.load _ _
  change { e with buf := (e.buf ++ [(i, localValue s e m i)]) ++ js.map fun j => (j, localValue t (withElems s e m [i]) m j) } = _
  simp only [hval]
  rw [withElems, List.append_assoc]
  rfl

/-- The first element is read, and the others follow. -/
theorem runElems_cons_local (v : VecState) {i : Nat} (is : List Nat) (h : LocalLoad e m) (hi : LiesLocal s k e m i) (l : ElemLog) :
    ∃ l', runElems k v (i :: is) l s e = runElems k v is l' (s.clearStall k 1) (withElems s e m [i]) := by
  have hscadd : (e.op == .scadd) = false := by
    obtain ⟨o, hop⟩ := h.op
    rw [hop]
    rfl
  rw [runElems]
  dsimp only
  rw [hi.present h, hi.aligned h, elemOne_local hi h, h.anyOrder_eq, hscadd]
  exact ⟨_, rfl⟩

/-- The elements of a load from the local scratchpad are all read, in order (R154). -/
theorem runElems_local (v : VecState) {is : List Nat} (h : LocalLoad e m) (his : ∀ j ∈ is, LiesLocal s k e m j) (l : ElemLog) :
    ∃ u flats, OnlyStall k s u
      ∧ runElems k v is l s e = .done (u.vecReqs k (withElems s e m is) flats) (withElems s e m is) := by
  induction is generalizing s e l with
  | nil =>
    refine ⟨s, l.flats, .refl k s, ?_⟩
    rw [runElems, withElems, List.map_nil, List.append_nil]
  | cons i is ih =>
    have hst := onlyStall_clearStall s k 1
    obtain ⟨l', hstep⟩ := runElems_cons_local v is h (his i List.mem_cons_self) l
    obtain ⟨u, flats, hu, hrun⟩ := ih (h.withElems [i]) (fun j hj => (his j (List.mem_cons_of_mem i hj)).later hst [i]) l'
    exact ⟨u, flats, hst.trans hu, by rw [hstep, hrun, withElems_cons hst]⟩

theorem accessHalf_local (h : LocalLoad e m) (his : ∀ j ∈ memActive (s.thOf k).v e, LiesLocal s k e m j) :
    ∃ u flats, OnlyStall k s u ∧ accessHalf s k e =
      .done (u.vecReqs k (withElems s e m (memActive (s.thOf k).v e)) flats) (withElems s e m (memActive (s.thOf k).v e)) := by
  obtain ⟨o, hop⟩ := h.op
  rw [accessHalf, hop]
  exact runElems_local _ h his {}

end

/-! ## The obligation -/

theorem thOf_putEntry (s : State) (k : ThreadKey) (e e' : Entry) (j : ThreadKey) :
    (s.putEntry k e e').thOf j = if j = k then { s.thOf k with pipe := swapEntry e e' (s.thOf k).pipe } else s.thOf j :=
  thOf_modTh s k j _

section

variable {s : State} {k : ThreadKey} {e : Entry} {rest : List Entry} (hpipe : (s.thOf k).pipe = e :: rest)

include hpipe

/-- The elements of a load from the local scratchpad stand in its entry, which waits for its execute half. -/
theorem accessUnitComplete_local {m : Member} (hlost : lostMember s k e = false) (hdrop : isDropped (s.thOf k).v e = false)
    (hacc : e.inAcc = true) (hdone : e.accDone = false) (hissues : s.issues k = true) (hready : accReady s k [] e = true)
    (hexe : e.inExe = true) (h : LocalLoad e m) (his : ∀ j ∈ memActive (s.thOf k).v e, LiesLocal s k e m j) :
    ∃ w t, exec (.accessUnitComplete k) s = .next t ∧ Claim.Arrived w t
      ∧ w = { s with threads := w.threads, arbs := w.arbs, budgets := w.budgets } ∧ (∀ j, j ≠ k → w.thOf j = s.thOf j)
      ∧ w.thOf k = { s.thOf k with
          stall := (w.thOf k).stall
          pipe := { withElems s e m (memActive (s.thOf k).v e) with accDone := true, begun := true } :: rest } := by
  obtain ⟨u, flats, ⟨⟨hu, hother⟩, hth⟩, hhalf⟩ := accessHalf_local (k := k) h his
  have hasks := onlyAsks_vecReqs u k (withElems s e m (memActive (s.thOf k).v e)) flats
  generalize u.vecReqs k (withElems s e m (memActive (s.thOf k).v e)) flats = x at hhalf hasks
  have hxth : ∀ j, x.thOf j = u.thOf j := thOf_congr (by rw [hasks])
  refine ⟨x.putEntry k e _, _, accessUnitComplete_done hpipe hlost hdrop hacc hdone hissues hready hhalf hexe, arrived_gateArrivals _ k,
    ?_, fun j hj => ?_, ?_⟩
  · rw [State.putEntry, State.modTh, State.setTh, hasks, hu]
  · rw [thOf_putEntry, if_neg hj, hxth, hother j hj]
  · rw [thOf_putEntry, if_pos rfl, hxth, hth]
    dsimp only
    rw [hpipe, swapEntry_head]

/-- A released compute entry whose computation succeeds completes, while no trap is enabled (R56, R129, R131). -/
theorem instructionComplete_ok {v : VecState} {x : Option W64} {r : Raised} (hexe : e.inExe = true) (hmem : e.isMem = false)
    (hrel : e.released = true) (hs : e.sampled = false) (hfetch : (s.thOf k).fetch = none) (hout : computeOut s k e = .ok v x r)
    (hv : trapEnables v = 0) :
    ∃ t, exec (.instructionComplete k) s = .next t ∧ (t.thOf k).pipe = rest ∧ t.mem = s.mem
      ∧ (t.thOf k).v = mergeFlags (popAll v e.popList) r
      ∧ (∀ y, x = some y → getScalar (t.thOf k) none e.d = if e.d = 0 then 0 else y)
      ∧ (x = none → (t.thOf k).sregs = (s.thOf k).sregs ∧ (t.thOf k).shadow = (s.thOf k).shadow)
      ∧ ∀ j, j ≠ k → ∃ n, t.thOf j = { s.thOf j with seqAge := n } := by
  obtain ⟨hframe, hages, -⟩ := arrived_gateArrivals (completed s k e v x r) k
  obtain ⟨n, hn⟩ := hages k
  rw [thOf_completed hpipe, if_pos rfl] at hn
  refine ⟨_, exec_instructionComplete_released hpipe hmem hexe hrel hs hfetch hout hv, by rw [hn], ?_, by rw [hn], ?_, ?_, ?_⟩
  · rw [hframe]
    exact mem_completed s k e v x r
  · rintro y rfl
    rw [hn]
    change getScalar (setScalar (s.thOf k) none e.d y) none e.d = _
    rw [getScalar_setScalar]
    by_cases hd : e.d = 0
    · simp [hd, getScalar]
    · simp [hd]
  · rintro rfl
    rw [hn]
    exact ⟨rfl, rfl⟩
  · intro j hj
    obtain ⟨a, ha⟩ := hages j
    rw [thOf_completed hpipe, if_neg hj] at ha
    exact ⟨a, ha⟩

end

/-- Settles O27: the head of the queues is what both units look at; a ready access half is performed, and a released entry completes. -/
theorem entriesCompleteByEvent : Obligations.EntriesCompleteByEvent := by
  intro s k e rest hpipe hlost hdrop
  refine ⟨?_, ?_, ?_, ?_, exec_instructionComplete_waits hpipe hdrop⟩
  · intro u e' hacc hdone hissues hready hhalf hexe
    exact ⟨_, _, accessUnitComplete_done hpipe hlost hdrop hacc hdone hissues hready hhalf hexe, arrived_gateArrivals _ k, rfl,
      fun j hj => by rw [thOf_putEntry, if_neg hj], by rw [thOf_putEntry, if_pos rfl]⟩
  · intro m o hop hacc hdone hexe hissues hready hspace hdist hwide n at_ act his
    exact accessUnitComplete_local hpipe hlost hdrop hacc hdone hissues hready hexe ⟨⟨o, hop⟩, hspace, hdist, hwide⟩
      fun j hj => let ⟨hlow, hlimit, hnatural, hok⟩ := his j hj; ⟨hlow, hlimit, hnatural, hok⟩
  · intro hexe hmem hrel hs hfetch v x cl hout hv
    exact instructionComplete_ok hpipe hexe hmem hrel hs hfetch hout hv
  · intro hexe hmem hrel hs hfetch hten hprod hcvt hext
    obtain ⟨v, x, r, hcore, hfstat⟩ := computeCore_ok s hcvt hext
    obtain ⟨t, hexec, hrest, hmem', -, -, -, hothers⟩ := instructionComplete_ok hpipe hexe hmem hrel hs hfetch
      ((computeOut_core hprod).trans hcore) ((trapEnables_congr hfstat).trans hten)
    exact ⟨t, hexec, hrest, hmem', hothers⟩

end Sys2Proof

/-! # A dropped product that frees a slot (R34, R175)

R175: a slot that stands RELEASING becomes free once no instruction names it, and the dispatcher is then asked to look at its list (R241).
The model looks for such slots whenever an instruction that names slots retires (`State.retire`), and a dropped product retires too. So
the frame of the dropped instruction does not hold in a state where another slot is due to become free: the agenda grows. None of the
statement's hypotheses asks that an instruction still name each RELEASING slot. -/

namespace Sys2Proof

open Machine

namespace StaleSlot

/-- The one member of the group, with one lane group. -/
def member : Member := { core := 0, tid := 0, nw := 8, grant := 1, share := 1, attached := true, mark := none, lost := false }

/-- A thread with idle queues and VL 1: v8 accumulates, and no bit of m1 is set. -/
def front : Thread := { v := { vl := 1, tags := [(8, .fp32)], members := [member] } }

/-- Slot 0 holds one BF16 element that the thread has claimed; slot 1 stands RELEASING, and no instruction names it. -/
def stale : State :=
  { State.reset with
    threads := [(0, front)]
    cores := [(0, { slots := [(0, { st := .claimed 0, shape := 0x11 }), (1, { st := .releasing 0, shape := 0x11 })] })] }

/-- The product of slot 0 with itself under m1 is dropped, and its retirement asks the dispatcher. -/
theorem exec_mma_asks : ∃ t, exec (.mma 8 0 0 1) stale = .next t ∧ t.agenda = [.event (.placeGroup 0)] := ⟨_, rfl, by decide +kernel⟩

end StaleSlot

open StaleSlot

/-- Refutes O17 by its second clause: the dropped product passes all checks, and its retirement adds a turn to the agenda. -/
theorem not_classesMergeOrDrop : ¬ Obligations.ClassesMergeOrDrop := by
  unfold Obligations.ClassesMergeOrDrop
  rintro ⟨-, hdrop⟩
  have hpasses : stale.th.routeFault (mmaRouting 8 0 0 1 stale) = none := by decide +kernel
  obtain ⟨t, ht, -, hframe, -⟩ := hdrop (.mma 8 0 0 1) stale (mmaRouting 8 0 0 1 stale) member rfl rfl rfl rfl rfl rfl hpasses ⟨rfl, rfl⟩
    rfl rfl rfl rfl rfl
  obtain ⟨u, hu, hasks⟩ := exec_mma_asks
  obtain rfl : t = u := by rw [ht] at hu; exact Host.Outcome.next.inj hu
  have hsame : t.agenda = stale.agenda := by rw [hframe]
  rw [hsame] at hasks
  exact List.cons_ne_nil _ _ hasks.symm

end Sys2Proof

/-! # The decoder undoes the encoder (R73–R91)

The fields of an encoded word are the operands that its layout holds, and the decoder reads the same fields. So a word's major leads to
the decoder of its major, its function to the instruction's own constructor, and the checks of R91 are those of `Instr.encodable`. The
payload that a pair's first word carries is read back in three ways: not at all, as the upper part of an immediate, or as the fields of a
vector-memory word or a matrix word. -/

namespace Sys2Proof

open BitVec

/-! ## The fields of the encoder's words

Each is a field of an append, taken part by part; the widths stay sums there, since the library's lemmas on `++` name them so. -/

@[simp] theorem fields_encR (maj : BitVec 6) (d a b : BitVec 5) (f : BitVec 11) :
    let w := encR maj d a b f
    fld w 26 6 = maj ∧ fld w 21 5 = d ∧ fld w 16 5 = a ∧ fld w 11 5 = b ∧ fld w 0 11 = f := by
  have parts (lo n : Nat) : fld (encR maj d a b f) lo n = extractLsb' lo n (maj ++ d ++ a ++ b ++ f) := rfl
  simp (disch := decide) [-Nat.reduceAdd, parts, extractLsb'_append_eq_of_le, extractLsb'_append_eq_of_add_le]

@[simp] theorem fields_encI (maj : BitVec 6) (d a : BitVec 5) (x : BitVec 16) :
    let w := encI maj d a x
    fld w 26 6 = maj ∧ fld w 21 5 = d ∧ fld w 16 5 = a ∧ fld w 0 16 = x := by
  have parts (lo n : Nat) : fld (encI maj d a x) lo n = extractLsb' lo n (maj ++ d ++ a ++ x) := rfl
  simp (disch := decide) [-Nat.reduceAdd, parts, extractLsb'_append_eq_of_le, extractLsb'_append_eq_of_add_le]

@[simp] theorem fields_encJ (maj : BitVec 6) (x : BitVec 26) : fld (encJ maj x) 26 6 = maj ∧ fld (encJ maj x) 0 26 = x := by
  have parts (lo n : Nat) : fld (encJ maj x) lo n = extractLsb' lo n (maj ++ x) := rfl
  simp (disch := decide) [-Nat.reduceAdd, parts, extractLsb'_append_eq_of_le, extractLsb'_append_eq_of_add_le]

@[simp] theorem fields_encV (maj vd va vb : BitVec 6) (k : BitVec 3) (c : BitVec 1) (f : BitVec 4) :
    let w := encV maj vd va vb k c f
    fld w 26 6 = maj ∧ fld w 20 6 = vd ∧ fld w 14 6 = va ∧ fld w 8 6 = vb ∧ fld w 5 3 = k ∧ fld w 4 1 = c ∧ fld w 0 4 = f := by
  have parts (lo n : Nat) : fld (encV maj vd va vb k c f) lo n = extractLsb' lo n (maj ++ vd ++ va ++ vb ++ k ++ c ++ f) := rfl
  simp (disch := decide) [-Nat.reduceAdd, parts, extractLsb'_append_eq_of_le, extractLsb'_append_eq_of_add_le]

@[simp] theorem fields_encM (vd : BitVec 6) (x y : BitVec 5) (k : BitVec 3) (f : BitVec 7) :
    let w := encM vd x y k f
    fld w 26 6 = 0x38 ∧ fld w 20 6 = vd ∧ fld w 15 5 = x ∧ fld w 10 5 = y ∧ fld w 7 3 = k ∧ fld w 0 7 = f := by
  have parts (lo n : Nat) : fld (encM vd x y k f) lo n = extractLsb' lo n ((0x38#6) ++ vd ++ x ++ y ++ k ++ f) := rfl
  simp (disch := decide) [-Nat.reduceAdd, parts, extractLsb'_append_eq_of_le, extractLsb'_append_eq_of_add_le]

@[simp] theorem fields_encPrefix (stg : BitVec 4) (pay : BitVec 22) :
    let w := encPrefix stg pay
    fld w 26 6 = 0x3F ∧ fld w 22 4 = stg ∧ fld w 0 22 = pay := by
  have parts (lo n : Nat) : fld (encPrefix stg pay) lo n = extractLsb' lo n ((0x3F#6) ++ stg ++ pay) := rfl
  simp (disch := decide) [-Nat.reduceAdd, parts, extractLsb'_append_eq_of_le, extractLsb'_append_eq_of_add_le]

/-- The fields within the function of a scalar atomic (R78). -/
@[simp] theorem fields_encAmo (op : BitVec 4) (o : Amo) :
    let w := (encAmo op o).w
    fld w 26 6 = 0x14 ∧ fld w 21 5 = o.d ∧ fld w 16 5 = o.a ∧ fld w 11 5 = o.b ∧ fld w 10 1 = 0 ∧ fld w 7 3 = o.scope
      ∧ fld w 5 2 = o.ord ∧ fld w 4 1 = ofBool o.dbl ∧ fld w 0 4 = op := by
  have parts (lo n : Nat) : fld (encAmo op o).w lo n
      = extractLsb' lo n ((0x14#6) ++ o.d ++ o.a ++ o.b ++ ((0#1) ++ o.scope ++ o.ord ++ ofBool o.dbl ++ op)) := rfl
  simp (disch := decide) [-Nat.reduceAdd, parts, extractLsb'_append_eq_of_le, extractLsb'_append_eq_of_add_le]

/-- The fields of a shift's immediate, whose head is eight zeros and the shift's kind (R77). -/
@[simp] theorem fields_shift (maj : BitVec 6) (d a : BitVec 5) (head : BitVec 10) (sh : BitVec 6) :
    let w := encI maj d a (head ++ sh)
    fld w 8 8 = head.extractLsb' 2 8 ∧ fld w 6 2 = head.extractLsb' 0 2 ∧ fld w 0 6 = sh := by
  have parts (lo n : Nat) : fld (encI maj d a (head ++ sh)) lo n = extractLsb' lo n (maj ++ d ++ a ++ (head ++ sh)) := rfl
  simp (disch := decide) [-Nat.reduceAdd, parts, extractLsb'_append_eq_of_le, extractLsb'_append_eq_of_add_le]

/-- The fields of a state register's number (R80). -/
@[simp] theorem fields_stateReg (maj : BitVec 6) (d a : BitVec 5) (num : BitVec 12) :
    let w := encI maj d a ((0#4) ++ num)
    fld w 12 4 = 0 ∧ fld w 0 12 = num := by
  have parts (lo n : Nat) : fld (encI maj d a ((0#4) ++ num)) lo n = extractLsb' lo n (maj ++ d ++ a ++ ((0#4) ++ num)) := rfl
  simp (disch := decide) [-Nat.reduceAdd, parts, extractLsb'_append_eq_of_le, extractLsb'_append_eq_of_add_le]

/-- The two fields in a loop's second specifier (R79). -/
@[simp] theorem fields_loop (maj : BitVec 6) (d : BitVec 5) (sm1 : BitVec 3) (lvl : BitVec 2) (x : BitVec 16) :
    let w := encI maj d (sm1 ++ lvl) x
    fld w 18 3 = sm1 ∧ fld w 16 2 = lvl := by
  have parts (lo n : Nat) : fld (encI maj d (sm1 ++ lvl) x) lo n = extractLsb' lo n (maj ++ d ++ (sm1 ++ lvl) ++ x) := rfl
  simp (disch := decide) [-Nat.reduceAdd, parts, extractLsb'_append_eq_of_le, extractLsb'_append_eq_of_add_le]

/-- The two fields in the first specifier of a divergence word (R79). -/
@[simp] theorem fields_diverge (maj : BitVec 6) (k : BitVec 3) (t : BitVec 2) (a : BitVec 5) (x : BitVec 16) :
    let w := encI maj (k ++ t) a x
    fld w 23 3 = k ∧ fld w 21 2 = t := by
  have parts (lo n : Nat) : fld (encI maj (k ++ t) a x) lo n = extractLsb' lo n (maj ++ (k ++ t) ++ a ++ x) := rfl
  simp (disch := decide) [-Nat.reduceAdd, parts, extractLsb'_append_eq_of_le, extractLsb'_append_eq_of_add_le]

/-- A vector-length word holds nothing between its specifiers and its function (R84). -/
@[simp] theorem fld_encV_middle (maj vd va : BitVec 6) (f : BitVec 4) : fld (encV maj vd va 0#6 0#3 0#1 f) 4 10 = 0 := by
  have parts : fld (encV maj vd va 0#6 0#3 0#1 f) 4 10 = extractLsb' 4 10 (maj ++ vd ++ va ++ 0#6 ++ 0#3 ++ 0#1 ++ f) := rfl
  rw [parts, extractLsb'_append_eq_of_le (by decide)]
  ext j hj
  rw [getElem_extractLsb']
  simp [-Nat.reduceAdd, getLsbD_append]
  intros
  omega

/-- The fields of vcfg (R84). -/
@[simp] theorem fields_vcfg (first last : BitVec 5) (tag : BitVec 6) (gc : BitVec 2) (cb : BitVec 4) :
    let w : W32 := (0x30#6) ++ first ++ last ++ tag ++ gc ++ cb ++ (0#4)
    fld w 26 6 = 0x30 ∧ fld w 21 5 = first ∧ fld w 16 5 = last ∧ fld w 10 6 = tag ∧ fld w 8 2 = gc ∧ fld w 4 4 = cb ∧ fld w 0 4 = 0 := by
  have parts (lo n : Nat) : fld ((0x30#6) ++ first ++ last ++ tag ++ gc ++ cb ++ (0#4)) lo n
      = extractLsb' lo n ((0x30#6) ++ first ++ last ++ tag ++ gc ++ cb ++ (0#4)) := rfl
  simp (disch := decide) [-Nat.reduceAdd, parts, extractLsb'_append_eq_of_le, extractLsb'_append_eq_of_add_le]

/-- The fields of trap and brk, whose head is the major and a zero specifier (R81). -/
@[simp] theorem fields_code (head : BitVec 11) (code : BitVec 10) (f : BitVec 11) :
    let w : W32 := head ++ code ++ f
    fld w 26 6 = head.extractLsb' 5 6 ∧ fld w 21 5 = head.extractLsb' 0 5 ∧ fld w 11 10 = code ∧ fld w 0 11 = f := by
  have parts (lo n : Nat) : fld (head ++ code ++ f) lo n = extractLsb' lo n (head ++ code ++ f) := rfl
  simp (disch := decide) [-Nat.reduceAdd, parts, extractLsb'_append_eq_of_le, extractLsb'_append_eq_of_add_le]

/-- The fields of fence, whose head is that of trap (R81). -/
@[simp] theorem fields_fence (head : BitVec 11) (scope : BitVec 3) (ord ty : BitVec 2) (z : BitVec 3) (f : BitVec 11) :
    let w : W32 := head ++ scope ++ ord ++ ty ++ z ++ f
    fld w 26 6 = head.extractLsb' 5 6 ∧ fld w 21 5 = head.extractLsb' 0 5 ∧ fld w 18 3 = scope ∧ fld w 16 2 = ord ∧ fld w 14 2 = ty
      ∧ fld w 11 3 = z ∧ fld w 0 11 = f := by
  have parts (lo n : Nat) : fld (head ++ scope ++ ord ++ ty ++ z ++ f) lo n = extractLsb' lo n (head ++ scope ++ ord ++ ty ++ z ++ f) := rfl
  simp (disch := decide) [-Nat.reduceAdd, parts, extractLsb'_append_eq_of_le, extractLsb'_append_eq_of_add_le]

/-- The fields of xfence (R81). -/
@[simp] theorem fields_xfence (src dst scope : BitVec 3) (f : BitVec 11) :
    let w : W32 := (0x3C#6) ++ src ++ dst ++ scope ++ (0#6) ++ f
    fld w 26 6 = 0x3C ∧ fld w 23 3 = src ∧ fld w 20 3 = dst ∧ fld w 17 3 = scope ∧ fld w 11 6 = 0 ∧ fld w 0 11 = f := by
  have parts (lo n : Nat) : fld ((0x3C#6) ++ src ++ dst ++ scope ++ (0#6) ++ f) lo n
      = extractLsb' lo n ((0x3C#6) ++ src ++ dst ++ scope ++ (0#6) ++ f) := rfl
  simp (disch := decide) [-Nat.reduceAdd, parts, extractLsb'_append_eq_of_le, extractLsb'_append_eq_of_add_le]

@[simp] theorem encVBin_w (maj : BitVec 6) (f : BitVec 4) (o : VBin) : (encVBin maj f o).w = encV maj o.vd o.va o.vb o.k (ofBool o.c) f := rfl
@[simp] theorem encVUn_w (maj : BitVec 6) (f : BitVec 4) (o : VUn) : (encVUn maj f o).w = encV maj o.vd o.va 0 o.k 0 f := rfl
@[simp] theorem encVSc_w (maj : BitVec 6) (f : BitVec 4) (o : VSc) : (encVSc maj f o).w = encV maj o.vd o.va o.sb o.k 1 f := rfl

@[simp] theorem ofBool_beq_one (b : Bool) : (ofBool b == 1#1) = b := by cases b <;> rfl

/-! ## The decoders of the majors (R75) -/

section

variable {w : W32} {long : Bool} {pay : BitVec 22}

theorem candidate_scalar (h : fld w 26 6 = 0x01) : candidate w long pay = some (noPay pay (decScalar w)) := by
  rw [candidate, h]; rfl

theorem candidate_shift (h : fld w 26 6 = 0x07) : candidate w long pay = some (noPay pay (some (decShift w))) := by
  rw [candidate, h]; rfl

theorem candidate_amo (h : fld w 26 6 = 0x14) : candidate w long pay = some (noPay pay (decAmo w)) := by
  rw [candidate, h]; rfl

theorem candidate_maskBranch (h : fld w 26 6 = 0x1E) : candidate w long pay = some (decMaskBranch w (immS long pay (fld w 0 16))) := by
  rw [candidate, h]; rfl

theorem candidate_diverge (h : fld w 26 6 = 0x23) : candidate w long pay = some (decDiverge w (immS long pay (fld w 0 16))) := by
  rw [candidate, h]; rfl

theorem candidate_vArith (h : fld w 26 6 = 0x28) : candidate w long pay = some (noPay pay (decVArith w)) := by
  rw [candidate, h]; rfl

theorem candidate_vFused (h : fld w 26 6 = 0x29) : candidate w long pay = some (noPay pay (decVFused w)) := by
  rw [candidate, h]; rfl

theorem candidate_vCompare (h : fld w 26 6 = 0x2A) : candidate w long pay = some (noPay pay (decVCompare w)) := by
  rw [candidate, h]; rfl

theorem candidate_vPermute (h : fld w 26 6 = 0x2B) : candidate w long pay = some (noPay pay (decVPermute w)) := by
  rw [candidate, h]; rfl

theorem candidate_vReduce (h : fld w 26 6 = 0x2C) : candidate w long pay = some (noPay pay (decVReduce w)) := by
  rw [candidate, h]; rfl

theorem candidate_vConvert (h : fld w 26 6 = 0x2D) : candidate w long pay = some (noPay pay (decVConvert w)) := by
  rw [candidate, h]; rfl

theorem candidate_vLength (h : fld w 26 6 = 0x2E) : candidate w long pay = some (noPay pay (decVLength w)) := by
  rw [candidate, h]; rfl

theorem candidate_vLoad (h : fld w 26 6 = 0x31) : candidate w long pay = some (decVLoad w long pay) := by
  rw [candidate, h]; rfl

theorem candidate_vStore (h : fld w 26 6 = 0x32) : candidate w long pay = some (decVStore w long pay) := by
  rw [candidate, h]; rfl

theorem candidate_vAtomic (h : fld w 26 6 = 0x33) : candidate w long pay = some (decVAtomic w long pay) := by
  rw [candidate, h]; rfl

theorem candidate_matrix (h : fld w 26 6 = 0x38) : candidate w long pay = some (decMatrix w pay) := by
  rw [candidate, h]; rfl

theorem candidate_object (h : fld w 26 6 = 0x3B) : candidate w long pay = some (noPay pay (decObject w)) := by
  rw [candidate, h]; rfl

theorem candidate_system (h : fld w 26 6 = 0x3C) : candidate w long pay = some (noPay pay (decSystem w)) := by
  rw [candidate, h]; rfl

/-- The majors of a pair's first word and of a header have no candidate (R75). -/
theorem candidate_eq_none (h : fld w 26 6 = 0x3F ∨ fld w 26 6 = 0x3D) : candidate w long pay = none := by
  rcases h with h | h
  · rw [candidate, h]; rfl
  · rw [candidate, h]; rfl

end

/-! ## What the decoder does with a candidate -/

theorem isPrefix_eq_false_of_candidate {w : W32} {long : Bool} {pay : BitVec 22} {c : Option Cand} (h : candidate w long pay = some c) :
    isPrefix w = false := by
  rw [isPrefix, beq_eq_false_iff_ne]
  intro hw
  simp [candidate_eq_none (.inl hw)] at h

theorem isHeaderMajor_eq_false_of_candidate {w : W32} {long : Bool} {pay : BitVec 22} {c : Option Cand}
    (h : candidate w long pay = some c) : isHeaderMajor w = false := by
  rw [isHeaderMajor, beq_eq_false_iff_ne]
  intro hw
  simp [candidate_eq_none (.inr hw)] at h

theorem isPrefix_encPrefix (stg : BitVec 4) (pay : BitVec 22) : isPrefix (encPrefix stg pay) = true := by simp [isPrefix]

/-- The PAY that the decoder sees beside a word, in the long form or the short. -/
def Enc.payIn (e : Enc) (long : Bool) : BitVec 22 := if long then e.pay else 0

/-- In the form given, the word reads as the instruction and passes the checks 1 to 4 of R91. -/
def Enc.ReadsAs (e : Enc) (i : Instr) (long : Bool) : Prop :=
  ∃ needPre, candidate e.w long (e.payIn long) = some (some ⟨i, true, needPre⟩) ∧ (needPre = true → long = true)

theorem Enc.ReadsAs.isPrefix_eq_false {e : Enc} {i : Instr} {long : Bool} (h : e.ReadsAs i long) : isPrefix e.w = false := by
  obtain ⟨_, hc, -⟩ := h
  exact isPrefix_eq_false_of_candidate hc

theorem Enc.ReadsAs.decodeWord {e : Enc} {i : Instr} {long : Bool} (h : e.ReadsAs i long) {stg : BitVec 4} (hstg : stg.toNat ≤ 8) :
    decodeWord e.w long stg (e.payIn long) = .ok i := by
  obtain ⟨needPre, hc, hpre⟩ := h
  simp only [Sys2Proof.decodeWord, hc, isPrefix_eq_false_of_candidate hc, isHeaderMajor_eq_false_of_candidate hc, hstg]
  cases needPre with
  | false => rfl
  | true => rw [hpre rfl]; rfl

theorem decode_word {w : W32} {i : Instr} (hw : isPrefix w = false) (h : decodeWord w false 0 0 = .ok i) :
    decode [w] = .ok ⟨i, false, 0⟩ := by
  simp [decode, decodeUnit, hw, show decodeWord w false 0#4 0#22 = .ok i from h]

theorem decode_pair {w : W32} {i : Instr} {stg : BitVec 4} {pay : BitVec 22} (h : decodeWord w true stg pay = .ok i) :
    decode [encPrefix stg pay, w] = .ok ⟨i, true, stg⟩ := by
  simp [decode, decodeUnit, isPrefix_encPrefix, h]

/-- Whether an encoding takes two words (R87). -/
def Enc.isLong (e : Enc) (stg : BitVec 4) : Bool := e.must || stg != 0

theorem Enc.isLong_of_must {e : Enc} {stg : BitVec 4} (h : e.must = true) : e.isLong stg = true := by simp [isLong, h]

theorem Enc.must_eq_isLong {e : Enc} {stg : BitVec 4} (h : e.must = true ∨ stg = 0) : e.must = e.isLong stg := by
  rcases h with h | rfl <;> simp [isLong, *]

theorem Enc.words_of_isLong {e : Enc} {stg : BitVec 4} (h : e.isLong stg = true) : e.words stg = [encPrefix stg e.pay, e.w] := if_pos h

theorem Enc.words_of_not_isLong {e : Enc} {stg : BitVec 4} (h : e.isLong stg = false) : e.words stg = [e.w] :=
  if_neg (Bool.eq_false_iff.mp h)

theorem Enc.length_words (e : Enc) (stg : BitVec 4) : decide ((e.words stg).length = 2) = e.isLong stg := by
  cases h : e.isLong stg with
  | false => rw [words_of_not_isLong h]; rfl
  | true => rw [words_of_isLong h]; rfl

theorem Enc.decode_words {e : Enc} {i : Instr} {stg : BitVec 4} (hstg : stg.toNat ≤ 8) (h : e.ReadsAs i (e.isLong stg)) :
    decode (e.words stg) = .ok ⟨i, e.isLong stg, stg⟩ := by
  cases hl : e.isLong stg with
  | false =>
    obtain ⟨-, rfl⟩ : e.must = false ∧ stg = 0 := by simpa [isLong] using hl
    rw [hl] at h
    rw [words_of_not_isLong hl]
    exact decode_word h.isPrefix_eq_false (h.decodeWord hstg)
  | true =>
    rw [hl] at h
    rw [words_of_isLong hl]
    exact decode_pair (h.decodeWord hstg)

/-! ## Words that take no payload -/

section

variable {i : Instr} {long : Bool}

/-- R89: the PAY of any other word is 0, as the encoder leaves it. -/
theorem readsAs_of_noPay {e : Enc} {c : Option Cand} (hpay : e.pay = 0)
    (hmaj : ∀ pay, candidate e.w long pay = some (noPay pay c)) (hc : c = some ⟨i, true, false⟩) : e.ReadsAs i long := by
  have hin : e.payIn long = 0 := by rw [Enc.payIn, hpay, ite_self]
  refine ⟨false, ?_, nofun⟩
  rw [hin, hmaj, hc]
  rfl

theorem readsAs_srr (d : SReg) (num : BitVec 12) : Enc.ReadsAs ⟨encI 0x24 d 0 ((0#4) ++ num), 0, false⟩ (.srr d num) long :=
  readsAs_of_noPay rfl (c := some ⟨.srr _ (fld _ 0 12), _, false⟩) (fun pay => by rw [candidate, (fields_encI ..).1]; rfl) (by simp)

theorem readsAs_srw (num : BitVec 12) (a : SReg) : Enc.ReadsAs ⟨encI 0x25 0 a ((0#4) ++ num), 0, false⟩ (.srw num a) long :=
  readsAs_of_noPay rfl (c := some ⟨.srw (fld _ 0 12) _, _, false⟩) (fun pay => by rw [candidate, (fields_encI ..).1]; rfl) (by simp)

theorem readsAs_vcfg {first last : SReg} (tag : BitVec 6) (gc : BitVec 2) (cb : BitVec 4) (h : first.toNat ≤ last.toNat) :
    Enc.ReadsAs ⟨(0x30#6) ++ first ++ last ++ tag ++ gc ++ cb ++ (0#4), 0, false⟩ (.vcfg first last tag gc cb) long :=
  readsAs_of_noPay rfl (c := some ⟨.vcfg (fld _ 21 5) (fld _ 16 5) (fld _ 10 6) (fld _ 8 2) (fld _ 4 4), _, false⟩)
    (fun pay => by rw [candidate, (fields_vcfg ..).1]; rfl) (by simp [h])

theorem readsAs_vjoin : Enc.ReadsAs ⟨encI 0x23 2 0 0, 0, false⟩ .vjoin long := ⟨false, by cases long <;> rfl, nofun⟩

end

/-! ## Words with an immediate

PAY stands above the word's own bits in the long form, and the short form is taken only where extending those bits gives the immediate. -/

section

variable {maj : BitVec 6} {d a : BitVec 5} {imm : BitVec 38} {i : Instr} {long : Bool}

theorem immS_payIn (h : (encImmS maj d a imm).must = true → long = true) :
    immS long ((encImmS maj d a imm).payIn long) (imm.extractLsb' 0 16) = imm := by
  cases long with
  | false => simpa [immS, encImmS] using h
  | true => exact (extractLsb'_append_extractLsb'_eq_extractLsb' rfl).trans extractLsb'_eq_self

theorem immZ_payIn (h : (encImmZ maj d a imm).must = true → long = true) :
    immZ long ((encImmZ maj d a imm).payIn long) (imm.extractLsb' 0 16) = imm := by
  cases long with
  | false => simpa [immZ, encImmZ] using h
  | true => exact (extractLsb'_append_extractLsb'_eq_extractLsb' rfl).trans extractLsb'_eq_self

theorem immJ_payIn {off : BitVec 48} (h : (encImmJ maj off).must = true → long = true) :
    immJ long ((encImmJ maj off).payIn long) (off.extractLsb' 0 26) = off := by
  cases long with
  | false => simpa [immJ, encImmJ] using h
  | true => exact (extractLsb'_append_extractLsb'_eq_extractLsb' rfl).trans extractLsb'_eq_self

/-- A word whose major decides what the sign-extended immediate is read into. -/
theorem readsAs_encImmS {c : W32 → BitVec 38 → Option Cand}
    (hmaj : ∀ w pay, fld w 26 6 = maj → candidate w long pay = some (c w (immS long pay (fld w 0 16))))
    (hc : c (encI maj d a (imm.extractLsb' 0 16)) imm = some ⟨i, true, false⟩) (h : (encImmS maj d a imm).must = true → long = true) :
    (encImmS maj d a imm).ReadsAs i long := by
  obtain ⟨hw, -, -, himm⟩ := fields_encI maj d a (imm.extractLsb' 0 16)
  have hcand := hmaj _ ((encImmS maj d a imm).payIn long) hw
  rw [himm, immS_payIn h, hc] at hcand
  exact ⟨false, hcand, nofun⟩

/-- As `readsAs_encImmS`, zero-extended. -/
theorem readsAs_encImmZ {c : W32 → BitVec 38 → Option Cand}
    (hmaj : ∀ w pay, fld w 26 6 = maj → candidate w long pay = some (c w (immZ long pay (fld w 0 16))))
    (hc : c (encI maj d a (imm.extractLsb' 0 16)) imm = some ⟨i, true, false⟩) (h : (encImmZ maj d a imm).must = true → long = true) :
    (encImmZ maj d a imm).ReadsAs i long := by
  obtain ⟨hw, -, -, himm⟩ := fields_encI maj d a (imm.extractLsb' 0 16)
  have hcand := hmaj _ ((encImmZ maj d a imm).payIn long) hw
  rw [himm, immZ_payIn h, hc] at hcand
  exact ⟨false, hcand, nofun⟩

/-- As `readsAs_encImmS`, with the 48-bit offset of a jump. -/
theorem readsAs_encImmJ {off : BitVec 48} {mk : BitVec 48 → Instr}
    (hmaj : ∀ w pay, fld w 26 6 = maj → candidate w long pay = some (some ⟨mk (immJ long pay (fld w 0 26)), true, false⟩))
    (h : (encImmJ maj off).must = true → long = true) : (encImmJ maj off).ReadsAs (mk off) long := by
  obtain ⟨hw, himm⟩ := fields_encJ maj (off.extractLsb' 0 26)
  have hcand := hmaj _ ((encImmJ maj off).payIn long) hw
  rw [himm, immJ_payIn h] at hcand
  exact ⟨false, hcand, nofun⟩

/-- The majors whose word holds two specifiers and a sign-extended immediate, and nothing to check. -/
theorem readsAs_specsImmS {mk : SReg → SReg → Imm → Instr}
    (hmaj : ∀ w pay, fld w 26 6 = maj →
      candidate w long pay = some (some ⟨mk (fld w 21 5) (fld w 16 5) (immS long pay (fld w 0 16)), true, false⟩))
    (h : (encImmS maj d a imm).must = true → long = true) : (encImmS maj d a imm).ReadsAs (mk d a imm) long :=
  readsAs_encImmS (c := fun w x => some ⟨mk (fld w 21 5) (fld w 16 5) x, true, false⟩) hmaj (by simp) h

/-- As `readsAs_specsImmS`, zero-extended. -/
theorem readsAs_specsImmZ {mk : SReg → SReg → Imm → Instr}
    (hmaj : ∀ w pay, fld w 26 6 = maj →
      candidate w long pay = some (some ⟨mk (fld w 21 5) (fld w 16 5) (immZ long pay (fld w 0 16)), true, false⟩))
    (h : (encImmZ maj d a imm).must = true → long = true) : (encImmZ maj d a imm).ReadsAs (mk d a imm) long :=
  readsAs_encImmZ (c := fun w x => some ⟨mk (fld w 21 5) (fld w 16 5) x, true, false⟩) hmaj (by simp) h

end

/-! ## Vector-memory words

PAY holds the payload's fields in the long form, and the short form stands for the payload that is all zero (R89). -/

section

variable {maj vd sa vb : BitVec 6} {k : BitVec 3} {c : BitVec 1} {f : BitVec 4} {p : VPay} {i : Instr} {stg : BitVec 4}
  {long : Bool} {pay : BitVec 22}

/-- The fields of a vector-memory payload (R89). -/
theorem fields_encVPay (p : VPay) :
    (encVPay p).extractLsb' 20 2 = p.ord ∧ (encVPay p).extractLsb' 17 3 = p.scope ∧ (encVPay p).extractLsb' 16 1 = ofBool p.tv
      ∧ (encVPay p).extractLsb' 11 5 = p.tag ∧ (encVPay p).extractLsb' 0 11 = 0 := by
  have parts (lo n : Nat) : (encVPay p).extractLsb' lo n = extractLsb' lo n (p.ord ++ p.scope ++ ofBool p.tv ++ p.tag ++ (0#11)) := rfl
  simp (disch := decide) [-Nat.reduceAdd, parts, extractLsb'_append_eq_of_le, extractLsb'_append_eq_of_add_le]

/-- A PAY that the decoder reads as payload `p`, with its low bits 0. -/
def PayReads (long : Bool) (pay : BitVec 22) (p : VPay) : Prop := vpayOf long pay = p ∧ pay.extractLsb' 0 11 = 0

theorem payReads_payIn (hshort : p.shortOk = true) :
    PayReads p.present ((encVMem maj vd sa vb k c f p).payIn p.present) p := by
  obtain ⟨present, ord, scope, tv, tag⟩ := p
  cases present with
  | false =>
    obtain ⟨⟨⟨rfl, rfl⟩, rfl⟩, rfl⟩ : ((ord = 0 ∧ scope = 0) ∧ tv = false) ∧ tag = 0 := by simpa [VPay.shortOk] using hshort
    exact ⟨rfl, rfl⟩
  | true =>
    obtain ⟨hord, hscope, htv, htag, hlow⟩ := fields_encVPay ⟨true, ord, scope, tv, tag⟩
    exact ⟨by simp [vpayOf, Enc.payIn, encVMem, hord, hscope, htv, htag], hlow⟩

theorem memCand_of_tvOk (hpay : PayReads long pay p) (hscope : p.scopeOk = true) (htv : p.tvOk vd = true) :
    memCand i vd p true pay = ⟨i, true, isQueueSpec vd⟩ := by
  obtain ⟨-, hlow⟩ := hpay
  obtain ⟨htv, -⟩ : p.tv = isQueueSpec vd ∧ _ := by simpa [VPay.tvOk] using htv
  simp [memCand, hlow, hscope, htv]

theorem atomCand_of_tv (hpay : PayReads long pay p) (hscope : p.scopeOk = true) (htv : (!p.present || p.tv == isQueueSpec vd) = true) :
    atomCand i vd p true pay = ⟨i, true, false⟩ := by
  obtain ⟨-, hlow⟩ := hpay
  obtain h | h : p.present = false ∨ p.tv = isQueueSpec vd := by simpa using htv
  all_goals simp [atomCand, hlow, hscope, h]

theorem bareCand_of_tv (hpay : PayReads long pay p) (hscope : p.scopeOk = true) (htv : (!p.tv) = true) :
    bareCand i p true pay = ⟨i, true, false⟩ := by
  obtain ⟨-, hlow⟩ := hpay
  simp [bareCand, hlow, hscope, htv]

theorem readsAs_encVMem {needPre : Bool} (hshort : p.shortOk = true) (hstg : p.present = true ∨ stg = 0)
    (h : ∀ long pay, PayReads long pay p → candidate (encV maj vd sa vb k c f) long pay = some (some ⟨i, true, needPre⟩))
    (hpre : needPre = true → p.present = true) :
    (encVMem maj vd sa vb k c f p).ReadsAs i ((encVMem maj vd sa vb k c f p).isLong stg) := by
  have hlong : p.present = (encVMem maj vd sa vb k c f p).isLong stg :=
    Enc.must_eq_isLong (e := encVMem maj vd sa vb k c f p) hstg
  rw [← hlong]
  exact ⟨needPre, h _ _ (payReads_payIn hshort), hpre⟩

/-- A queue data register needs the long form (R85). -/
theorem present_of_tvOk (htv : p.tvOk vd = true) (hq : isQueueSpec vd = true) : p.present = true := by
  obtain ⟨-, h⟩ : p.tv = isQueueSpec vd ∧ (isQueueSpec vd = false ∨ p.present = true) := by simpa [VPay.tvOk] using htv
  exact h.resolve_left (by simp [hq])

theorem readsAs_load (hok : p.loadOk vd = true) (hstg : p.present = true ∨ stg = 0)
    (h : ∀ long pay, vpayOf long pay = p →
      decVLoad (encV 0x31 vd sa vb k c f) long pay = some (memCand i vd p (p.ord == 0 || p.ord == 1) pay)) :
    (encVMem 0x31 vd sa vb k c f p).ReadsAs i ((encVMem 0x31 vd sa vb k c f p).isLong stg) := by
  simp only [VPay.loadOk, Bool.and_eq_true] at hok
  obtain ⟨⟨⟨hshort, hscope⟩, hord⟩, htv⟩ := hok
  refine readsAs_encVMem hshort hstg (fun long pay hpay => ?_) (present_of_tvOk htv)
  rw [candidate_vLoad (by simp), h long pay hpay.1, hord, memCand_of_tvOk hpay hscope htv]

theorem readsAs_store (hok : p.storeOk vd = true) (hstg : p.present = true ∨ stg = 0)
    (h : ∀ long pay, vpayOf long pay = p →
      decVStore (encV 0x32 vd sa vb k c f) long pay = some (memCand i vd p (p.ord == 0 || p.ord == 2) pay)) :
    (encVMem 0x32 vd sa vb k c f p).ReadsAs i ((encVMem 0x32 vd sa vb k c f p).isLong stg) := by
  simp only [VPay.storeOk, Bool.and_eq_true] at hok
  obtain ⟨⟨⟨hshort, hscope⟩, hord⟩, htv⟩ := hok
  refine readsAs_encVMem hshort hstg (fun long pay hpay => ?_) (present_of_tvOk htv)
  rw [candidate_vStore (by simp), h long pay hpay.1, hord, memCand_of_tvOk hpay hscope htv]

theorem readsAs_vAtomic (hok : p.atomOk vd = true) (hstg : p.present = true ∨ stg = 0)
    (h : ∀ long pay, vpayOf long pay = p → decVAtomic (encV 0x33 vd sa vb k c f) long pay = some (atomCand i vd p true pay)) :
    (encVMem 0x33 vd sa vb k c f p).ReadsAs i ((encVMem 0x33 vd sa vb k c f p).isLong stg) := by
  simp only [VPay.atomOk, Bool.and_eq_true] at hok
  obtain ⟨⟨hshort, hscope⟩, htv⟩ := hok
  refine readsAs_encVMem (needPre := false) hshort hstg (fun long pay hpay => ?_) nofun
  rw [candidate_vAtomic (by simp), h long pay hpay.1, atomCand_of_tv hpay hscope htv]

/-- bxld and capp, whose payload names no tag for a data register. -/
theorem readsAs_bare (hok : p.bareOk = true) (hstg : p.present = true ∨ stg = 0)
    (h : ∀ long pay, vpayOf long pay = p → decVAtomic (encV 0x33 vd sa vb k c f) long pay = some (bareCand i p true pay)) :
    (encVMem 0x33 vd sa vb k c f p).ReadsAs i ((encVMem 0x33 vd sa vb k c f p).isLong stg) := by
  simp only [VPay.bareOk, Bool.and_eq_true] at hok
  obtain ⟨⟨hshort, hscope⟩, htv⟩ := hok
  refine readsAs_encVMem (needPre := false) hshort hstg (fun long pay hpay => ?_) nofun
  rw [candidate_vAtomic (by simp), h long pay hpay.1, bareCand_of_tv hpay hscope htv]

end

/-! ## Matrix words -/

@[simp] theorem fields_mmaxPay (va vi : BitVec 6) :
    let pay : BitVec 22 := va ++ vi ++ (0#10)
    pay.extractLsb' 16 6 = va ∧ pay.extractLsb' 10 6 = vi ∧ pay.extractLsb' 0 10 = 0 := by
  have parts (lo n : Nat) : BitVec.extractLsb' (n := 22) lo n (va ++ vi ++ (0#10)) = extractLsb' lo n (va ++ vi ++ (0#10)) := rfl
  simp (disch := decide) [-Nat.reduceAdd, parts, extractLsb'_append_eq_of_le, extractLsb'_append_eq_of_add_le]

@[simp] theorem fields_mmabPay (sl : BitVec 5) :
    let pay : BitVec 22 := sl ++ (0#17)
    pay.extractLsb' 17 5 = sl ∧ pay.extractLsb' 0 17 = 0 := by
  have parts (lo n : Nat) : BitVec.extractLsb' (n := 22) lo n (sl ++ (0#17)) = extractLsb' lo n (sl ++ (0#17)) := rfl
  simp (disch := decide) [-Nat.reduceAdd, parts, extractLsb'_append_eq_of_le, extractLsb'_append_eq_of_add_le]

theorem readsAs_matrix {e : Enc} {i : Instr} {long : Bool} (hmaj : fld e.w 26 6 = 0x38)
    (h : decMatrix e.w (e.payIn long) = some ⟨i, true, e.must⟩) (hm : e.must = true → long = true) : e.ReadsAs i long := by
  refine ⟨e.must, ?_, hm⟩
  rw [candidate_matrix hmaj, h]

/-! ## Every word -/

/-- The instruction has an encoding that reads back as it, under every stage that its payload allows. -/
def Instr.ReadsBack (i : Instr) : Prop :=
  ∃ e, encodeWord i = some e
    ∧ ∀ stg, (∀ p, Claim.payload i = some p → p.present = true ∨ stg = 0) → e.ReadsAs i (e.isLong stg)

/-- The words in the order of their majors: each group names the decoder of its major and the check that `h` passes. -/
theorem readsBack_of_encodable (i : Instr) (h : i.encodable = true) : i.ReadsBack := by
  cases i with
  | add | sub | mul | mulh | mulhu | div | divu | rem | remu | and | or | xor | sll | srl | sra | slt | sltu | seq | min | max | minu | maxu
  | clz | ctz | popc | sel =>
    exact ⟨_, rfl, fun _ _ => readsAs_of_noPay rfl (fun _ => candidate_scalar (by simp)) (by simp [decScalar])⟩
  | addi | slti | lb | lbu | lh | lhu | lw | lwu | ld | sb | sh | sw | sd | beq | bne | blt | bge | bltu | bgeu =>
    exact ⟨_, rfl, fun _ _ => readsAs_specsImmS (fun w pay hw => by rw [candidate, hw]; rfl) Enc.isLong_of_must⟩
  | andi | ori | xori =>
    exact ⟨_, rfl, fun _ _ => readsAs_specsImmZ (fun w pay hw => by rw [candidate, hw]; rfl) Enc.isLong_of_must⟩
  | slli | srli | srai =>
    exact ⟨_, rfl, fun _ _ => readsAs_of_noPay rfl (fun _ => candidate_shift (by simp)) (by simp [decShift])⟩
  | lih =>
    exact ⟨_, rfl, fun _ _ => readsAs_encImmS (c := fun w x => some ⟨.lih (fld w 21 5) x, fld w 16 5 == 0, false⟩)
      (fun w pay hw => by rw [candidate, hw]; rfl) (by simp) Enc.isLong_of_must⟩
  | amoadd o | amomin o | amomax o | amominu o | amomaxu o | amoand o | amoor o | amoxor o | amoswap o | amocas o =>
    have hok : o.ok = true := h
    exact ⟨_, rfl, fun _ _ => readsAs_of_noPay rfl (fun _ => candidate_amo (by simp)) (by simp [decAmo, hok])⟩
  | bany | ball | bnone =>
    exact ⟨_, rfl, fun _ _ => readsAs_encImmS (fun _ _ => candidate_maskBranch) (by simp [decMaskBranch]) Enc.isLong_of_must⟩
  | j | jal => exact ⟨_, rfl, fun _ _ => readsAs_encImmJ (fun w pay hw => by rw [candidate, hw]; rfl) Enc.isLong_of_must⟩
  | loop _ _ _ len =>
    have hlen : len ≠ 0#38 := bne_iff_ne.mp h
    exact ⟨_, rfl, fun _ _ => readsAs_encImmZ (c := fun w x => some ⟨.loop (fld w 21 5) (fld w 18 3) (fld w 16 2) x, x != 0, false⟩)
      (fun w pay hw => by rw [candidate, hw]; rfl) (by simp [hlen]) Enc.isLong_of_must⟩
  | vfetch | vthr => exact ⟨_, rfl, fun _ _ => readsAs_encImmS (fun _ _ => candidate_diverge) (by simp [decDiverge]) Enc.isLong_of_must⟩
  | vjoin => exact ⟨_, rfl, fun _ _ => readsAs_vjoin⟩
  | srr => exact ⟨_, rfl, fun _ _ => readsAs_srr ..⟩
  | srw => exact ⟨_, rfl, fun _ _ => readsAs_srw ..⟩
  | vadd | vsub | vmul | vmulh | vdiv | vrem | vmin | vmax | vand | vor | vxor | vsll | vsrl | vsra | vsadd | vssub =>
    exact ⟨_, rfl, fun _ _ => readsAs_of_noPay rfl (fun _ => candidate_vArith (by simp)) (by simp [decVArith])⟩
  | vfma | vfms | vfnma | vfnms | vsqrt | vrcpe | vrsqe | vexp2 | vlog2 | vabs | vneg | vnot | vclz | vpopc =>
    exact ⟨_, rfl, fun _ _ => readsAs_of_noPay rfl (fun _ => candidate_vFused (by simp)) (by simp [decVFused])⟩
  | vceq | vcne | vclt | vcle | vcgt | vcge | vcun | mand | mor | mxor | mandn | mnot | msbf | msif =>
    exact ⟨_, rfl, fun _ _ => readsAs_of_noPay rfl (fun _ => candidate_vCompare (by simp)) (by simp [decVCompare])⟩
  | vperm | vslideup | vslidedn | vcompress | vexpand | viota | vmerge | vins | vext | xch | mpop | mff1 =>
    exact ⟨_, rfl, fun _ _ => readsAs_of_noPay rfl (fun _ => candidate_vPermute (by simp)) (by simp [decVPermute])⟩
  | vraddT | vraddO | vrminT | vrminO | vrmaxT | vrmaxO | vrand | vror | vrxor =>
    exact ⟨_, rfl, fun _ _ => readsAs_of_noPay rfl (fun _ => candidate_vReduce (by simp)) (by simp [decVReduce])⟩
  | vcvt => exact ⟨_, rfl, fun _ _ => readsAs_of_noPay rfl (fun _ => candidate_vConvert (by simp)) (by simp [decVConvert])⟩
  | vsetl | vmt => exact ⟨_, rfl, fun _ _ => readsAs_of_noPay rfl (fun _ => candidate_vLength (by simp)) (by simp [decVLength])⟩
  | vcfg => exact ⟨_, rfl, fun _ _ => readsAs_vcfg _ _ _ (of_decide_eq_true h)⟩
  | vld | vldFf | vldO | vldS | vldSo | vldX | vldXo =>
    exact ⟨_, rfl, fun _ hp => readsAs_load h (hp _ rfl) fun _ _ hpay => by simp [decVLoad, hpay]⟩
  | vst | vstO | vstS | vstSo | vstX | vstXo =>
    exact ⟨_, rfl, fun _ hp => readsAs_store h (hp _ rfl) fun _ _ hpay => by simp [decVStore, hpay]⟩
  | vamoAdd | vamoMin | vamoMax | vamoAnd | vamoOr | vamoXor | vamoSwap | vscadd =>
    exact ⟨_, rfl, fun _ hp => readsAs_vAtomic h (hp _ rfl) fun _ _ hpay => by simp [decVAtomic, hpay]⟩
  | bxld | capp =>
    exact ⟨_, rfl, fun _ hp => readsAs_bare h (hp _ rfl) fun _ _ hpay => by simp [decVAtomic, hpay]⟩
  | mma | mclaim | mrel | mldt | cbld =>
    exact ⟨_, rfl, fun _ _ => readsAs_matrix (by simp) (by simp [decMatrix, Enc.payIn]) Enc.isLong_of_must⟩
  | mmax | mmab =>
    exact ⟨_, rfl, fun _ _ => readsAs_matrix (long := true) (by simp) (by simp [decMatrix, Enc.payIn]) fun _ => rfl⟩
  | barinit | bararr | barwait | barwaitA | launch | dsend | dpull | ddrop | dresend | dlstat =>
    exact ⟨_, rfl, fun _ _ => readsAs_of_noPay rfl (fun _ => candidate_object (by simp)) (by simp [decObject])⟩
  | xcfg _ ch | xtid _ ch | xwait _ ch =>
    have hch : ch.toNat < 2 := of_decide_eq_true h
    exact ⟨_, rfl, fun _ _ => readsAs_of_noPay rfl (fun _ => candidate_object (by simp)) (by simp [decObject, hch])⟩
  | trap | eret | brk | wait | uiret | jalr | rdharm | rdimb | rdsamp | hclr | setwash =>
    exact ⟨_, rfl, fun _ _ => readsAs_of_noPay rfl (fun _ => candidate_system (by simp)) (by simp [decSystem])⟩
  | fence | xfence => exact ⟨_, rfl, fun _ _ => readsAs_of_noPay rfl (fun _ => candidate_system (by simp)) (by simp [decSystem, h])⟩
  | _ => exact absurd h Bool.false_ne_true

/-- Settles O29: the encoding of a word reads back as the word in the form that its payload and its stage choose. -/
theorem decodeUndoesEncode : Obligations.DecodeUndoesEncode := by
  unfold Obligations.DecodeUndoesEncode
  intro i stg henc hstg hpay
  obtain ⟨e, he, hreads⟩ := readsBack_of_encodable i henc
  have hwords : encode i stg = e.words stg := by rw [encode, he]
  rw [hwords, Enc.length_words]
  exact Enc.decode_words hstg (hreads stg hpay)

/-! ## Words written out -/

/-- Settles O30: the decoder evaluates on each word. -/
theorem specWordsDecode : Obligations.SpecWordsDecode := by
  unfold Obligations.SpecWordsDecode
  intro is pair refused
  and_intros
  all_goals rfl

end Sys2Proof
